-- ==== Sys2Proof/Word.lean ====
section
/-! DEFINITION. The word types of the L9 (R4, R7, R44). -/
namespace Sys2Proof

/-- One byte of memory. -/
abbrev Byte := BitVec 8
/-- A 32-bit word: half a frame, a constant-bank entry (R7, R57). -/
abbrev W32 := BitVec 32
/-- A 64-bit word: a g register, an address, a control register (R7). -/
abbrev W64 := BitVec 64
/-- A v register, a queue slot, a 64 B line (R7, R44). -/
abbrev V512 := BitVec 512
/-- The number of a g register (R7). -/
abbrev GReg := BitVec 5
/-- The number of a v register (R7). -/
abbrev VReg := BitVec 5

end Sys2Proof
end

