-- ==== Sys2Proof/Config.lean ====
section
/-! DEFINITION. Values the spec leaves open: constants with no body, so that no proof can lean on one of them. Each is named in a row of notes/assumptions. -/
namespace Sys2Proof.Config

/-- How many mesh clk pass in a step, by the model's counter of free values (log entry 3; timing is not modelled). -/
opaque elapsedClk : Nat → W32
/-- The words another device returns for a read (log entry 15; R358, R359). -/
opaque remoteByte : Nat → Nat → Byte
/-- Whether another device admits a request (log entry 15; R359). -/
opaque remoteAccepts : Nat → Bool
/-- Whether what another device reads for an admitted request holds a data error (log entry 15; R343). -/
opaque remoteBad : Nat → Bool
/-- Whether a StythNet port delivers a request at this try (log entry 15; R358). -/
opaque portDelivers : Nat → Bool
/-- Whether the grid of the interval before is still being written when an interval ends (log entry 20; R374). -/
opaque gridWriting : Nat → Bool
/-- Whether the record of the hotness interval before is still being written when an interval ends (log entry 20; R208). -/
opaque hotWriting : Nat → Bool
/-- Errors that ECC has corrected on a die: in its SRAM, else in its device memory (log entry 27; R343, R374). -/
opaque corrected : Nat → Bool → Nat
/-- Whether the control complex clears the mark of a retired pool unit (log entry 27; R343). -/
opaque clearsMark : Nat → Nat → Bool
/-- Interleave mode that the control complex gives a die's controllers at boot (log entry 27; R198). -/
opaque interleave : Nat → Bool
/-- Device-memory address at which a new firmware image is read in (log entry 8; R384). -/
opaque stageAt : Nat
/-- Flit and stall counts of the link grid of a die, by counter and byte (log entry 20; R374). -/
opaque gridByte : Nat → Nat → Byte
/-- SHA-256 of a byte string, as a number below 2^256 (log entry 9; R383, R385). -/
opaque sha256 : List Byte → Nat
/-- ECDSA P-256: key, digest, signature r and s (log entry 9; R383). -/
opaque ecdsaVerify : Nat → Nat → Nat → Nat → Bool
/-- A signature made with the device identity key, 64 bytes as r then s (log entry 9; R385). -/
opaque ecdsaSign : Nat → Nat → Byte
/-- The device identity public key, by byte (log entry 9; R385). -/
opaque identityKeyByte : Nat → Byte
/-- Which writes of a Flint job land when one of them failed (log entry 21; R295). -/
opaque flintLands : Nat → Nat → Bool
/-- Whether a write of new firmware to flash succeeds (log entry 8; R384). -/
opaque flashWriteOk : Nat → Bool

/-- By how much the balancer slows clusters at a power update, in MHz for an ENERGY of 128 (log entry 14; R149, R381). -/
opaque balancedMhz : Nat → Nat
/-- A sample of a monitor source that is a time or a queue depth (log entry 20; R375). -/
opaque sampleValue : Nat → W32

end Sys2Proof.Config
end

