-- ==== Sys2Proof/Machine/Map.lean ====
section
/-! DEFINITION. Sorted maps: lists of (key, value) with rising keys that list no value equal to the default, so that equal maps are equal lists. -/
namespace Sys2Proof.Machine

/-- The value at a key, `d` if the list has no entry. -/
def kget {α : Type} (d : α) : List (Nat × α) → Nat → α
  | [], _ => d
  | (k, v) :: m, x => if x = k then v else kget d m x

/-- Puts a value, which must not be the default, at a key. -/
def kput {α : Type} : List (Nat × α) → Nat → α → List (Nat × α)
  | [], x, v => [(x, v)]
  | (k, u) :: m, x, v =>
    if x < k then (x, v) :: (k, u) :: m else if x = k then (x, v) :: m else (k, u) :: kput m x v

/-- Removes the entry of a key. -/
def kdel {α : Type} (m : List (Nat × α)) (x : Nat) : List (Nat × α) := m.filter fun p => p.1 != x

/-- Writes a key: a value equal to the default removes the entry. -/
def kset {α : Type} [DecidableEq α] (d : α) (m : List (Nat × α)) (x : Nat) (v : α) : List (Nat × α) :=
  if v = d then kdel m x else kput m x v

/-- The canonical form: keys rise and no entry holds the default. -/
def kwf {α : Type} [DecidableEq α] (d : α) : List (Nat × α) → Bool
  | [] => true
  | [(_, v)] => v != d
  | (k, v) :: (k', v') :: m => decide (k < k') && v != d && kwf d ((k', v') :: m)

/-- Replaces the first element that meets a test. -/
def replaceFirst {α : Type} (p : α → Bool) (f : α → α) : List α → List α
  | [] => []
  | x :: xs => if p x then f x :: xs else x :: replaceFirst p f xs

/-- Removes the first element that meets a test. -/
def removeFirst {α : Type} (p : α → Bool) : List α → List α
  | [] => []
  | x :: xs => if p x then xs else x :: removeFirst p xs

/-- The lowest number below `n` that meets a test. -/
def lowest (n : Nat) (p : Nat → Bool) : Option Nat := (List.range n).find? p

end Sys2Proof.Machine
end

