-- ==== Sys2Proof/Syntax.lean ====
section
/-! DEFINITION. The abstract syntax: operand codes (R61, R64, R65) and Instr, one constructor for each row of spec/opcode_table.json: A words, B words, and the steps of the part that are not words (spec/95). -/
namespace Sys2Proof

/-- Scopes of R210, with the codes of R61. -/
inductive Scope where
  | hart | core | clus | die | dev | sys
  deriving DecidableEq, Repr

/-- Element types of the B2 and BC formats (R65). -/
inductive ETy where
  | f32 | f16 | bf16 | l8e4 | l8e5 | l4 | i8 | i16 | i32 | i64 | n8 | n16 | n32 | n64
  deriving DecidableEq, Repr

/-- Rounding field of R65: `dyn` takes FMODE.RM. -/
inductive Rnd where
  | dyn | rne | rtz | rup | rdn
  deriving DecidableEq, Repr

/-- Mask-instruction widths of R63: W of BS and BM. -/
inductive MW where
  | i8 | i16 | i32 | i64
  deriving DecidableEq, Repr

/-- TYPE of `ld` (R61). -/
inductive LdTy where
  | i64 | i32 | i16 | i8 | n32 | n16 | n8
  deriving DecidableEq, Repr

/-- TYPE of `st` (R61). -/
inductive StTy where
  | i64 | i32 | i16 | i8
  deriving DecidableEq, Repr

/-- The S bit of an AM word and the fields it selects (R61): ORD bit 0 acquires, bit 1 releases. -/
inductive MemMode where
  | weak (disp : BitVec 10)
  | strong (ord : BitVec 2) (scope : Scope) (disp : BitVec 5)
  deriving DecidableEq, Repr

/-- Mask select and policy of a B word (R58): `sel` 0 is no mask, 1 to 3 name v1 to v3. -/
structure BMask where
  sel : BitVec 2
  agn : Bool
  deriving DecidableEq, Repr

/-- Lane patterns of R33. -/
inductive Pat where
  | none | rot1 | rot4 | rev | perm8 | bc0 | bc1 | swp
  deriving DecidableEq, Repr

/-- A vd operand of R64: a v register, or slot `n` of q6 or (`hi`) q7. -/
inductive VDst where
  | v (r : VReg)
  | q (hi : Bool) (n : BitVec 4)
  deriving DecidableEq, Repr

/-- A vs1 operand of R64. -/
inductive VSrc where
  | v (r : VReg)
  | q (q : BitVec 3) (n : BitVec 4)
  deriving DecidableEq, Repr

/-- A vs2 operand of R64: a v register with a lane pattern, a queue slot, a constant-bank entry or the literal. -/
inductive VSrc2 where
  | v (r : VReg) (p : Pat)
  | q (q : BitVec 3) (n : BitVec 4)
  | k (i : BitVec 6)
  | lit (w : W32)
  deriving DecidableEq, Repr

/-- Kinds of access that the checks of R192, R195 and R203 tell apart. -/
inductive AccKind where
  | read | write | atomic | fetch
  deriving DecidableEq, Repr

/-- Kinds of a remote request at an owner's pool (R194, R195). -/
inductive ReqKind where
  | read | write | atomic | fe
  deriving DecidableEq, Repr

/-- What a request held at a halted core is for (R378): the access of the hart's waiting A word, a group of its stream unit, a part of a row of a copy, the counter of a copy, an operation of the matrix array, a command at the head of a matrix queue, the counter of a drain, a Flint job of a cluster, or none of these: bytes from elsewhere, or a packet. -/
inductive ReqBy where
  | none
  | access
  | stream (q : BitVec 3)
  | copy (id row : Nat)
  | copyEnd (id : Nat)
  | mma (id : Nat)
  | command (own : Nat)
  | drain (id : Nat)
  | flint (cl : Nat)
  deriving DecidableEq, Repr

/-- A remote request that reaches the pool of `core` (R195): its sender's source class, its kind, offset and length, the bytes it writes, whether they set granules full (R193), the hart (if any) that a refusal returns to, and the address that hart used. -/
structure RemoteReq where
  core : Nat
  cls : BitVec 2
  kind : ReqKind
  off : Nat
  len : Nat
  data : List Byte
  setFull : Bool
  hart : Option Nat
  addr : W64
  /-- Mailbox and slot of an exchange packet, and the task that sent it (R181). -/
  pkt : Option (Nat × Nat × Nat)
  by_ : ReqBy
  deriving DecidableEq, Repr

/-- The operations of R225. -/
inductive AmoOp where
  | add | swap | cas | min | max | minu | maxu | and | or | xor
  deriving DecidableEq, Repr

/-- Kinds of a request from another device (R359, R360, R362): a read; a write, through the Tarn slot that a copy names for its destination side (0 is identity); a hart atomic on 4 or 8 bytes; an increment of a completion counter. -/
inductive FabKind where
  | read
  | write (slot : BitVec 4)
  | atomic (op : AmoOp) (wide : Bool)
  | counter
  /-- The slot check of R282 for the lines of a copy's row: the slot named, or none where the pages' own TB and TSEL bind (R281). -/
  | query (slot : Option (BitVec 4))
  /-- The last line of the sender's copy with this slot has completed (R282). -/
  | release (slot : BitVec 4)
  deriving DecidableEq, Repr

/-- A request from another device (R358, R359): sender, its partition, kind, virtual address, privilege mode carried (R205), the bytes it brings (those written; both operands of an atomic, 8 B each; COUNT and ERR of an increment), the number of bytes read, and the model's own number of the sender's copy request that it belongs to (R282, R362). -/
structure FabricReq where
  dev : BitVec 10
  part : BitVec 6
  kind : FabKind
  va : W64
  mode : BitVec 2
  data : List Byte
  len : Nat
  ref : Nat
  deriving DecidableEq, Repr

/-- Host atomics of R363. -/
inductive HostOp where
  | add | swap | cas
  deriving DecidableEq, Repr

/-- One constructor for each row of the opcode table. The constructors whose docstring begins "Step" are not words: no decoder answers them, and `step` runs them when the agenda or the machine's own progress calls for them (log entry 1). -/
inductive Instr where
  /-- Step DEVICE_RESET (R26): Device reset parks every ordinary hart, holds the other control harts and starts control hart 0 of die 0 in machine mode at the boot ROM. -/
  | deviceReset
  /-- Step CLUSTER_WAVE_POWER_UP (R382): Every 2 µs after reset the next wave of 8 clusters per die powers up and becomes eligible for dispatch. -/
  | clusterWavePowerUp
  /-- Step MATRIX_SLICE_ENABLE (R382): Every 64 clk the matrix array enables its next 8 columns, at power-up or after 2^20 idle clk. -/
  | matrixSliceEnable (cl : Nat)
  /-- Step RECOVERY_GO (R384): A host write of 1 to RGO in STATE 2 reads the new image, verifies it and, on success, writes it to flash and boots it. -/
  | recoveryGo
  /-- Step ATTESTATION_REQUEST (R385): A host write of 1 to offset 0x2060 makes the firmware sign the nonce, the image digest, DEVNUM and the GPART bytes. -/
  | attestationRequest
  /-- Step TRAP_ENTRY (R25): The oldest trapping instruction's trap is taken: trap registers are written, STATUS is updated and PC goes to TVEC + 64 × cause, or the task is completed as faulted. -/
  | trapEntry
  /-- Step INTERRUPT (R341): A pending, enabled interrupt is taken at a cut when STATUS.IE allows it, with cause 0x30 + bit. -/
  | interrupt
  /-- Step TIMER_COMPARE (R341): CYCLE reaches TIMECMP and INTPEND.TIMER becomes pending. -/
  | timerCompare
  /-- Step STREAM_DEADLOCK (R19): After the deadlock conditions have held for 64 clk, a stream-deadlock trap is raised at the oldest waiting instruction. -/
  | streamDeadlock
  /-- Step LOAD_LANDING (R18): A load's data arrives: it writes its reserved queue slot or g register, and the filled count grows by the run that adjoins the filled region. -/
  | loadLanding (k : Nat)
  /-- Step STREAM_GROUP (R92): The per-queue stream unit moves one group of an active sld or sst, reserving or filling a slot, or storing one; a faulting group is marked. -/
  | streamGroup (q : BitVec 3)
  /-- Step STORE_PERFORMED (R21): A buffered store leaves the store buffer and is performed at its coherence point once its frame's B words have retired. -/
  | storePerformed
  /-- Step PAGE_WALK (R203): A TLB miss walks up to five levels of page-table entries, sets A and D by compare-and-swap, and produces a translation or a page fault. -/
  | pageWalk (va : W64) (k : AccKind)
  /-- Step REMOTE_REQUEST_ARRIVAL (R195): A remote request arrives at the owner's pool and is accepted or refused by the window registers. -/
  | remoteRequestArrival (r : RemoteReq)
  /-- Step REMOTE_NACK (R196): A negative acknowledgement returns to the sender of a non-posted access, which raises a precise fault and discards younger frames. -/
  | remoteNack
  /-- Step STYTHNET_REQUEST_ARRIVAL (R359): A request from another device is admitted through the admission table and translated by the local partition's tables, or is refused. -/
  | stythnetRequestArrival (r : FabricReq)
  /-- Step STYTHNET_DELIVERY_TIMEOUT (R358): A StythNet request that no port can deliver within 1 ms is refused. -/
  | stythnetDeliveryTimeout
  /-- Step HOST_WRITE (R363): A host write over CasoLink is performed through the aperture at the line's home controller, in link order. -/
  | hostWrite (off : Nat) (data : List Byte)
  /-- Step HOST_READ (R363): A host read over CasoLink returns data through the aperture, or an error response for a retired frame. -/
  | hostRead (off n : Nat)
  /-- Step HOST_ATOMIC (R363): A host add, swap or cas on a 4 B or 8 B word of device memory is performed indivisibly at the home controller. -/
  | hostAtomic (op : HostOp) (off : Nat) (wide : Bool) (x e : W64)
  /-- Step RING (R364): A host write to RING ORs its bits into DBPEND after earlier host writes and sets INTPEND.HOST on the die's control harts. -/
  | hostRing (die : BitVec 2) (bits : BitVec 16)
  /-- Step DBPEND_CLEAR (R364): A control hart clears the bits of DBPEND for slots it has taken. -/
  | dbpendClear (die : BitVec 2) (bits : BitVec 16)
  /-- Step LAUNCH (R150): The control harts process a 32 B launch record: they check partition, record, region tree, entries and slice space, insert the entries, and write the status word. -/
  | launch (die : BitVec 2) (slot : BitVec 4)
  /-- Step SIGNAL_DELIVERY (R152): A tsig tag reaches the Basin slices: it adds 1 to the arrival count of every matching entry of the partition, or counts in LOSTSIG. -/
  | signalDelivery
  /-- Step DISPATCH (R154): A slice selects its winning ready entry and dispatches it, or a saved context, to the lowest fitting core and free hart, setting hart state by R27. -/
  | dispatch (cl : Nat)
  /-- Step PRIORITY_PROMOTION (R153): Every 65,536 clk a ready entry's effective priority rises by 1. -/
  | priorityPromotion (cl idx : Nat)
  /-- Step PREEMPTION_CUT (R346): The pre-emption sequence stops fetch, makes the cut, discards a buffered task, and waits for copies, Flint and Tarn elements, matrix operations and streams. -/
  | preemptionCut (hart : Nat)
  /-- Step CONTEXT_SAVE_COMPLETE (R346): The hart context image is written to a context-pool slot, the hart is freed, and a handle entry is inserted into Basin; a full pool ends the sequence. -/
  | contextSaveComplete (hart : Nat)
  /-- Step HAND_SPILL (R159): 50 µs after a hand, if the bound entry is not dispatched, the range is copied to the spill area and its pool units are freed. -/
  | handSpill (k : Nat)
  /-- Step LANE_GRANT (R164): In each clk the execute-unit arbiter updates credits and grants lane groups to ready heads. -/
  | laneGrant (core : Nat)
  /-- Step BARRIER_COMPLETE (R177): A barrier domain's arrivals are complete, and all participants leave at release point P with an acquire. -/
  | barrierComplete (k : Nat)
  /-- Step CLOCK_REBALANCE (R166): After a balancing cluster-domain barrier, 50 MHz moves from the first-arriving cluster to the last-arriving one. -/
  | clockRebalance
  /-- Step EXCHANGE_PHASE_END (R179): At P + XWIN the exchange phase of a domain closes. -/
  | exchangePhaseEnd
  /-- Step XSEND_INJECT (R180): At mesh clk P + slot a waiting xsend reads its source and injects the packet on XCH. -/
  | xsendInject
  /-- Step PACKET_ARRIVAL (R181): An exchange packet reaches its destination core, is window-checked, writes the pool, sets granules full and increments the mailbox counter. -/
  | packetArrival (k : Nat)
  /-- Step MBWAIT_TIMEOUT (R183): An mbwait whose timeout expires returns a short count and zeroes the counter. -/
  | mbwaitTimeout
  /-- Step LINK_NOT_READY_TIMEOUT (R185): A link wait ends not-ready after LNKTO clk and sets LNKSTAT. -/
  | linkNotReadyTimeout
  /-- Step WAITGE_POLL (R229): On a write to the line or after 4,096 clk, waitge re-reads its word and completes with an acquire when COUNT reaches the target. -/
  | waitgePoll
  /-- Step HOTNESS_INTERVAL_END (R208): At the end of each 2^K clk interval the controller writes its hot list, increments HOTSEQ, and clears the sketch. -/
  | hotnessIntervalEnd (die : BitVec 2) (c : BitVec 4)
  /-- Step HOTNESS_CONTROL_WRITE (R209): A write to a hotness control register starts or stops counting; clearing EN discards the interval. -/
  | hotnessControlWrite (die : BitVec 2) (c : BitVec 4) (v : W64)
  /-- Step COPY_START (R267): The copy engine takes the head request of a core's FIFO and checks its Tarn binding before moving any line. -/
  | copyStart (core : Nat)
  /-- Step COPY_LINE (R270): One 64 B line of a copy, transformed or not, is read and written, setting granules full and counting TEN packets in mailboxes. -/
  | copyLine (k row : Nat)
  /-- Step COPY_COMPLETE (R272): After its lines on the counter's device are performed, a copy combines its measure at counter + 8 and updates its completion counter. -/
  | copyComplete (k : Nat)
  /-- Step TARN_LOAD (R287): A Tarn LOAD command reads and checks a graph image and writes the slot, returning a result element. -/
  | tarnLoad (hart : Nat)
  /-- Step TARN_UNLOAD (R287): A Tarn UNLOAD command empties a slot, returning a result element. -/
  | tarnUnload (hart : Nat)
  /-- Step TARN_QUERY (R286): A Tarn QUERY command returns the slot's header in a result element. -/
  | tarnQuery (hart : Nat)
  /-- Step GANG_FORM (R240): A matrix operation forms when every core of the gang mask has a matching mma at its queue head and every slice is free. -/
  | gangForm (cl : Nat)
  /-- Step MMA_COMPLETE (R242): A formed matrix operation finishes accumulating into the working banks. -/
  | mmaComplete (k : Nat)
  /-- Step MATRIX_COMMAND_START (R232): An mzero, mpre, mswap or mdrain at the head of a hart's queue starts when the slice is free and performs its action. -/
  | matrixCommandStart (hart : Nat)
  /-- Step DRAIN_COMPLETE (R255): After a drain's writes are performed, its requantisation record's counter is updated with any error bits. -/
  | drainComplete (k : Nat)
  /-- Step FLINT_JOB_START (R296): Flint takes the next job from the core queues in rotation and walks the bit planes. -/
  | flintJobStart (cl : Nat)
  /-- Step FLINT_JOB_COMPLETE (R295): Flint writes the list and the record, W0 granule last, as a release, and returns the result element. -/
  | flintJobComplete (cl : Nat)
  /-- Step EDIT_APPLY (R316): At its turn in session order the tracker applies an edit, dirties changed blocks, aborts affected tasks, and writes the record. -/
  | editApply (ses : BitVec 12)
  /-- Step PREDICATE_RUN (R317): For each token of an edit.app.cb a control hart runs the end-of-sequence predicate in user mode, and its result decides the token. -/
  | predicateRun (ses : BitVec 12)
  /-- Step PREDICATE_TIMEOUT (R317): A predicate running longer than 20 µs counts as ACCEPT and sets PTMO. -/
  | predicateTimeout (ses : BitVec 12)
  /-- Step RECOMPUTE_INSERT (R309): The tracker inserts a buffered recompute or audit task for a block at the home cluster, or marks the block held. -/
  | recomputeInsert (ses : BitVec 12) (layer block : Nat)
  /-- Step COMMIT_STEP (R311): When a recompute task's commit is performed, the block becomes VALID with version + 1 and dependents are dirtied if M > THR; otherwise an audit may be chosen. -/
  | commitStep (ses : BitVec 12)
  /-- Step OPEN (R304): The Mere OPEN command checks the descriptor and opens the session with every block VALID at version 0. -/
  | mereOpen (die : BitVec 2)
  /-- Step OPEND (R304): The Mere OPEND command opens the session with every block DIRTY. -/
  | mereOpend (die : BitVec 2)
  /-- Step CLOSE (R304): The Mere CLOSE command aborts tasks, faults waiting reads, finishes pending edits with OUTCOME 7, and clears OPEN. -/
  | mereClose (die : BitVec 2)
  /-- Step CLEAR (R304): The Mere CLEAR command clears FAULT and ENDED, and makes held blocks DIRTY. -/
  | mereClear (die : BitVec 2)
  /-- Step MIGREQ_WRITE (R366): A device-side write of MIGREQ asks the slot's home controller to migrate the page to the device. -/
  | migreqWrite (v : W64)
  /-- Step MIGREQ_READ (R366): A csrr of MIGREQ waits while the request is pending and then returns DONE and the result. -/
  | migreqRead (d : GReg)
  /-- Step HOST_MIGREQ (R366): A host write to MIGREQ in its host page asks for migration of the page to the host, winning ties. -/
  | hostMigreq (die : BitVec 2) (v : W64)
  /-- Step MIGRATION_COMPLETE (R366): The migration engine finishes: ACTIVE := 0, RES := DIR and HOLD is set, as one system-scope release. -/
  | migrationComplete (frame : Nat)
  /-- Step PREEMPT (R348): A control-hart write of PREEMPT.HART requests pre-emption of that hart and reports in LAST. -/
  | preempt (die : BitVec 2) (v : W64)
  /-- Step SOFTINT (R348): A write of SOFTINT sets INTPEND.SOFT of the named hart. -/
  | softint (die : BitVec 2) (v : W64)
  /-- Step BDDATA_WRITE (R176): A csrw to a die barrier table word waits until the entry has no pending arrival, then writes it. -/
  | bddataWrite (v : W64)
  /-- Step GPART_WRITE (R367): A write of GPART reassigns a cluster group only while it is idle; otherwise it is ignored. -/
  | gpartWrite (die : BitVec 2) (g : BitVec 5) (v : W64)
  /-- Step GRID_INTERVAL_END (R374): At the end of each 2^K mesh clk interval the die writes its link-counter grid, increments GRIDSEQ, and clears the counters. -/
  | gridIntervalEnd (die : BitVec 2)
  /-- Step GRID_CONTROL_WRITE (R374): A write of the grid control register starts or stops counting; clearing EN discards the interval. -/
  | gridControlWrite (die : BitVec 2) (v : W64)
  /-- Step MONITOR_CONTROL_WRITE (R375): A write that sets a monitor's EN from 0 to 1 resets MIN, MAX, COUNT and HIST. -/
  | monitorControlWrite (die : BitVec 2) (m : BitVec 4) (v : W64)
  /-- Step MONITOR_SAMPLE (R375): A sample of the selected source updates the monitor's MIN, MAX, COUNT and histogram bin. -/
  | monitorSample (die : BitVec 2) (m : BitVec 4) (v : W32)
  /-- Step SNAPTRIG (R376): A write of 1 to SNAPTRIG, or another enabled source, latches the snapshot records of the die, or counts in SNAPMISS. -/
  | snaptrig (die : BitVec 2) (src : BitVec 2)
  /-- Step SNAPSHOT_REMOTE_LATCH (R376): 40 mesh clk after a trigger on one die, the other three dies latch their snapshots. -/
  | snapshotRemoteLatch (die : BitVec 2)
  /-- Step SNAPSHOT_VALID_CLEAR (R376): Writing 1 to VALID clears it and re-arms the trigger. -/
  | snapshotValidClear (die : BitVec 2)
  /-- Step HALTREQ_SET (R378): Setting HALTREQ stops every hart of the core at a cut and buffers incoming remote requests. -/
  | haltreqSet (core : Nat)
  /-- Step HALTREQ_CLEAR (R378): Clearing HALTREQ performs the inbound buffer in order under the window check, then lets the harts issue. -/
  | haltreqClear (core : Nat)
  /-- Step STEP (R377): Writing STEP while HALTED issues one frame on each hart in SMASK. -/
  | debugStep (core : Nat)
  /-- Step DUMP (R380): The DUMP command write-protects the partition's range, invalidates TLBs to reach Q, and starts copying units. -/
  | dumpStart (die : BitVec 2)
  /-- Step DUMP_UNIT_COPY (R380): The dump engine copies one 64 KiB unit, restores W and invalidates the page; at the end it updates the counter. -/
  | dumpUnitCopy (die : BitVec 2)
  /-- Step ABORT (R380): The dump ABORT command restores W on protected units and updates the counter with ERR bit 56. -/
  | dumpAbort (die : BitVec 2)
  /-- Step POWER_AVERAGE_UPDATE (R381): PWRNOW is updated over 2^16 clk, and while it is at PWRLIM the balancer slows clusters. -/
  | powerAverageUpdate (die : BitVec 2) (w : BitVec 16)
  /-- Step READ_CLEAR (R5): A read of an RC register field returns its value and clears it. -/
  | readClear (pa n : Nat)
  /-- Step REGISTER_WRITE (R386): A write to a register that has no row of its own updates its RW and W1C fields, and reserved fields stay zero. -/
  | registerWrite (pa n : Nat) (v : W64)
  /-- A word NOP_A (R59): An A nop has no effect. -/
  | nopA
  /-- A word ADD (R73): g[gd] := g[gs1] + g[gs2]. -/
  | add (d a b : GReg)
  /-- A word SUB (R73): g[gd] := g[gs1] − g[gs2]. -/
  | sub (d a b : GReg)
  /-- A word AND (R73): Bitwise and. -/
  | and (d a b : GReg)
  /-- A word OR (R73): Bitwise or. -/
  | or (d a b : GReg)
  /-- A word XOR (R73): Bitwise xor. -/
  | xor (d a b : GReg)
  /-- A word SLL (R73): Shift left by b[5:0]. -/
  | sll (d a b : GReg)
  /-- A word SRL (R73): Logical shift right by b[5:0]. -/
  | srl (d a b : GReg)
  /-- A word SRA (R73): Arithmetic shift right by b[5:0]. -/
  | sra (d a b : GReg)
  /-- A word SLT (R73): Signed set-less-than. -/
  | slt (d a b : GReg)
  /-- A word SLTU (R73): Unsigned set-less-than. -/
  | sltu (d a b : GReg)
  /-- A word MUL (R73): Low 64 bits of the product. -/
  | mul (d a b : GReg)
  /-- A word MULH (R73): High 64 bits of the signed product. -/
  | mulh (d a b : GReg)
  /-- A word MULHU (R73): High 64 bits of the unsigned product. -/
  | mulhu (d a b : GReg)
  /-- A word DIV (R74): Signed quotient, with fixed results for b = 0 and overflow. -/
  | div (d a b : GReg)
  /-- A word DIVU (R74): Unsigned quotient, 0 for b = 0. -/
  | divu (d a b : GReg)
  /-- A word REM (R74): Signed remainder, with the sign of a. -/
  | rem (d a b : GReg)
  /-- A word REMU (R74): Unsigned remainder. -/
  | remu (d a b : GReg)
  /-- A word MIN (R73): Signed minimum. -/
  | min (d a b : GReg)
  /-- A word MAX (R73): Signed maximum. -/
  | max (d a b : GReg)
  /-- A word MINU (R73): Unsigned minimum. -/
  | minu (d a b : GReg)
  /-- A word MAXU (R73): Unsigned maximum. -/
  | maxu (d a b : GReg)
  /-- A word ADDI (R75): g[gd] := g[gs1] + imm14. -/
  | addi (d a : GReg) (i : BitVec 14)
  /-- A word ANDI (R75): And with the sign-extended imm14. -/
  | andi (d a : GReg) (i : BitVec 14)
  /-- A word ORI (R75): Or with the sign-extended imm14. -/
  | ori (d a : GReg) (i : BitVec 14)
  /-- A word XORI (R75): Xor with the sign-extended imm14. -/
  | xori (d a : GReg) (i : BitVec 14)
  /-- A word SLTI (R75): Signed compare with imm14. -/
  | slti (d a : GReg) (i : BitVec 14)
  /-- A word SLTIU (R75): Unsigned compare with the sign-extended imm14. -/
  | sltiu (d a : GReg) (i : BitVec 14)
  /-- A word SLLI (R75): Shift left by an immediate. -/
  | slli (d a : GReg) (s : BitVec 6)
  /-- A word SRLI (R75): Logical shift right by an immediate. -/
  | srli (d a : GReg) (s : BitVec 6)
  /-- A word SRAI (R75): Arithmetic shift right by an immediate. -/
  | srai (d a : GReg) (s : BitVec 6)
  /-- A word LIH (R76): g[gd] := SignExtend(imm19 × 2^13). -/
  | lih (d : GReg) (i : BitVec 19)
  /-- A word ADDPC (R76): g[gd] := frame address + imm19. -/
  | addpc (d : GReg) (i : BitVec 19)
  /-- A word ADDI_LITERAL (R77): g[gd] := g[gs1] + the sign-extended literal of word 1. -/
  | addiLiteral (d a : GReg) (w : W32)
  /-- A word ANDI_LITERAL (R77): And with the literal. -/
  | andiLiteral (d a : GReg) (w : W32)
  /-- A word ORI_LITERAL (R77): Or with the literal. -/
  | oriLiteral (d a : GReg) (w : W32)
  /-- A word XORI_LITERAL (R77): Xor with the literal. -/
  | xoriLiteral (d a : GReg) (w : W32)
  /-- A word LIH_LITERAL (R77): g[gd] := the sign-extended literal. -/
  | lihLiteral (d : GReg) (w : W32)
  /-- A word BEQ (R78): Branch if equal. -/
  | beq (a b : GReg) (o : BitVec 14)
  /-- A word BNE (R78): Branch if not equal. -/
  | bne (a b : GReg) (o : BitVec 14)
  /-- A word BLT (R78): Branch if signed less. -/
  | blt (a b : GReg) (o : BitVec 14)
  /-- A word BGE (R78): Branch if signed greater or equal. -/
  | bge (a b : GReg) (o : BitVec 14)
  /-- A word BLTU (R78): Branch if unsigned less. -/
  | bltu (a b : GReg) (o : BitVec 14)
  /-- A word BGEU (R78): Branch if unsigned greater or equal. -/
  | bgeu (a b : GReg) (o : BitVec 14)
  /-- A word JAL (R79): Jump, writing the link. -/
  | jal (d : GReg) (o : BitVec 19)
  /-- A word JALR (R79): Indirect jump, trapping on a misaligned target. -/
  | jalr (d a : GReg) (i : BitVec 14)
  /-- A word BQB (R80): Pop bq and branch if the entry is 1. -/
  | bqb (o : BitVec 19)
  /-- A word LOOP (R82): Push a hardware loop with its count from a register. -/
  | loop (a : GReg) (n : BitVec 10)
  /-- A word LOOPI (R82): Push a hardware loop with an immediate count. -/
  | loopi (c : BitVec 14) (n : BitVec 10)
  /-- A word LD (R88): Scalar load into a g register, weak or strong. -/
  | ld (d a : GReg) (t : LdTy) (m : MemMode)
  /-- A word ST (R88): Scalar store through the store buffer. -/
  | st (d a : GReg) (t : StTy) (m : MemMode)
  /-- A word LDQ (R90): Load 64 B into a reserved q0–q5 slot. -/
  | ldq (q : BitVec 3) (a : GReg) (m : MemMode)
  /-- A word STQ (R90): Store the head slot of q6/q7 as 64 B. -/
  | stq (q : BitVec 3) (a : GReg) (m : MemMode)
  /-- A word SLD (R91): Start an affine load stream into a queue. -/
  | sld (q : BitVec 3) (a : GReg) (n : BitVec 2) (s : Bool)
  /-- A word SST (R91): Start an affine store stream from a queue. -/
  | sst (q : BitVec 3) (a : GReg) (n : BitVec 2) (s : Bool)
  /-- A word SWAIT (R94): Wait until the queue's active stream has ended. -/
  | swait (q : BitVec 3)
  /-- A word LDFE (R95): Wait for a full granule, read it, and clear it unless .keep. -/
  | ldfe (d a : GReg) (keep : Bool) (i : BitVec 10)
  /-- A word STFE (R96): Write 8 B and set the granule full, as a release. -/
  | stfe (d a : GReg) (i : BitVec 10)
  /-- A word FECLR (R97): Set a range of granules empty. -/
  | feclr (a b : GReg)
  /-- A word REP (R86): Issue the frame's B word n times with register steps. -/
  | rep (n : BitVec 6) (d s t : BitVec 2)
  /-- A word CSRR (R99): Read a control register. -/
  | csrr (d : GReg) (c : BitVec 12)
  /-- A word CSRW (R99): Write a control register. -/
  | csrw (a : GReg) (c : BitVec 12)
  /-- A word CSRS (R99): Set bits of a control register. -/
  | csrs (a : GReg) (c : BitVec 12)
  /-- A word CSRC (R99): Clear bits of a control register. -/
  | csrc (a : GReg) (c : BitVec 12)
  /-- A word ECALL (R101): Raise an environment-call trap. -/
  | ecall
  /-- A word ERET (R102): Return from a trap, restoring mode and resuming at TRAPPC or TRAPNPC. -/
  | eret
  /-- A word BRK (R101): Raise a breakpoint trap. -/
  | brk
  /-- A word WFI (R103): Wait for a pending interrupt or a pre-emption request. -/
  | wfi
  /-- A word LNKR (R184): Pop the east or west link input into g[gd]. -/
  | lnkr (d : GReg) (w : Bool)
  /-- A word LNKW (R184): Push g[gs1] into the neighbour's input. -/
  | lnkw (a : GReg) (w : Bool)
  /-- A word LNKR_FWD (R184): Pop a link input and forward the word to the opposite neighbour. -/
  | lnkrFwd (d : GReg) (w : Bool)
  /-- A word AMOADD_I64 (R226): Atomic 64-bit add. -/
  | amoaddI64 (d a b : GReg) (o : BitVec 2) (s : Scope)
  /-- A word AMOSWAP_I64 (R226): Atomic 64-bit swap. -/
  | amoswapI64 (d a b : GReg) (o : BitVec 2) (s : Scope)
  /-- A word AMOCAS_I64 (R226): Atomic 64-bit compare-and-swap. -/
  | amocasI64 (d a b : GReg) (o : BitVec 2) (s : Scope)
  /-- A word AMOMIN_I64 (R226): Atomic 64-bit signed minimum. -/
  | amominI64 (d a b : GReg) (o : BitVec 2) (s : Scope)
  /-- A word AMOMAX_I64 (R226): Atomic 64-bit signed maximum. -/
  | amomaxI64 (d a b : GReg) (o : BitVec 2) (s : Scope)
  /-- A word AMOMINU_I64 (R226): Atomic 64-bit unsigned minimum. -/
  | amominuI64 (d a b : GReg) (o : BitVec 2) (s : Scope)
  /-- A word AMOMAXU_I64 (R226): Atomic 64-bit unsigned maximum. -/
  | amomaxuI64 (d a b : GReg) (o : BitVec 2) (s : Scope)
  /-- A word AMOAND_I64 (R226): Atomic 64-bit and. -/
  | amoandI64 (d a b : GReg) (o : BitVec 2) (s : Scope)
  /-- A word AMOOR_I64 (R226): Atomic 64-bit or. -/
  | amoorI64 (d a b : GReg) (o : BitVec 2) (s : Scope)
  /-- A word AMOXOR_I64 (R226): Atomic 64-bit xor. -/
  | amoxorI64 (d a b : GReg) (o : BitVec 2) (s : Scope)
  /-- A word AMOADD_I32 (R226): Atomic 32-bit add. -/
  | amoaddI32 (d a b : GReg) (o : BitVec 2) (s : Scope)
  /-- A word AMOSWAP_I32 (R226): Atomic 32-bit swap. -/
  | amoswapI32 (d a b : GReg) (o : BitVec 2) (s : Scope)
  /-- A word AMOCAS_I32 (R226): Atomic 32-bit compare-and-swap. -/
  | amocasI32 (d a b : GReg) (o : BitVec 2) (s : Scope)
  /-- A word AMOMIN_I32 (R226): Atomic 32-bit signed minimum. -/
  | amominI32 (d a b : GReg) (o : BitVec 2) (s : Scope)
  /-- A word AMOMAX_I32 (R226): Atomic 32-bit signed maximum. -/
  | amomaxI32 (d a b : GReg) (o : BitVec 2) (s : Scope)
  /-- A word AMOMINU_I32 (R226): Atomic 32-bit unsigned minimum. -/
  | amominuI32 (d a b : GReg) (o : BitVec 2) (s : Scope)
  /-- A word AMOMAXU_I32 (R226): Atomic 32-bit unsigned maximum. -/
  | amomaxuI32 (d a b : GReg) (o : BitVec 2) (s : Scope)
  /-- A word AMOAND_I32 (R226): Atomic 32-bit and. -/
  | amoandI32 (d a b : GReg) (o : BitVec 2) (s : Scope)
  /-- A word AMOOR_I32 (R226): Atomic 32-bit or. -/
  | amoorI32 (d a b : GReg) (o : BitVec 2) (s : Scope)
  /-- A word AMOXOR_I32 (R226): Atomic 32-bit xor. -/
  | amoxorI32 (d a b : GReg) (o : BitVec 2) (s : Scope)
  /-- A word FENCE (R228): Order earlier accesses of the named sets before later ones at a scope. -/
  | fence (e : BitVec 3) (s : Scope)
  /-- A word WAITGE (R229): Wait until the word's COUNT reaches the target, then acquire. -/
  | waitge (a b : GReg)
  /-- A word TSPAWN (R169): Check a task entry image and insert it into Basin. -/
  | tspawn (a : GReg)
  /-- A word TSIG (R170): Release and send a signal tag to every Basin slice. -/
  | tsig (a : GReg)
  /-- A word HALT (R161): End the task: drain, commit a buffered task, free units, and update LIVE and DONECTR. -/
  | halt
  /-- A word HALT_RETAIN (R160): Hand the whole scratchpad share to a tag, then halt. -/
  | haltRetain (a : GReg)
  /-- A word TABORT (R172): Abort the task: discard it in a buffered region, or complete it as faulted in a direct one. -/
  | tabort
  /-- A word HAND (R171): Hand a scratchpad range to the entry with a tag. -/
  | hand (a b : GReg)
  /-- A word BAR (R177): Arrive at a barrier domain and wait for its completion. -/
  | bar (a : GReg)
  /-- A word SSTEP (R179): Arrive at a barrier and open an exchange phase on completion. -/
  | sstep (a : GReg)
  /-- A word XSEND (R180): Check a timed exchange send and wait for its slot. -/
  | xsend (a b : GReg) (s : BitVec 14)
  /-- A word MBWAIT (R183): Wait for a mailbox counter to reach n, or time out. -/
  | mbwait (d a b : GReg) (t : BitVec 5)
  /-- A word MGANG (R249): Set MSTAT.GANG to a core mask. -/
  | mgang (a : GReg)
  /-- A word MMA (R250): Check and queue a matrix multiply-accumulate command. -/
  | mma (s : Scope) (a b : GReg) (c : BitVec 2)
  /-- A word MZERO (R251): Queue a command that zeroes a working bank. -/
  | mzero (c : BitVec 2)
  /-- A word MPRE (R251): Queue a command that preloads a working bank from memory. -/
  | mpre (s : Scope) (a : GReg) (c : BitVec 2)
  /-- A word MSWAP (R252): Queue a command that exchanges working and visible banks. -/
  | mswap
  /-- A word MDRAIN (R253): Check and queue a drain of a visible bank to memory. -/
  | mdrain (s : Scope) (a b : GReg) (c : BitVec 2)
  /-- A word MXSAVE (R258): Save the matrix state and withdraw unstarted commands. -/
  | mxsave (a : GReg)
  /-- A word MXREST (R259): Check and restore a matrix save area. -/
  | mxrest (a : GReg)
  /-- A word CPY (R274): Check a copy request and push it into the core's FIFO, waiting for room. -/
  | cpy (s : Scope) (a : GReg)
  /-- A word CPYNB (R274): Push a copy request if the FIFO has room, reporting busy otherwise. -/
  | cpynb (s : Scope) (d a : GReg)
  /-- A word ENGPUSH (R285): Check and send a Tarn command to an array. -/
  | engpush (s : Scope) (a b : GReg)
  /-- A word ENGPOP (R285): Pop the oldest Tarn result element, with an acquire. -/
  | engpop (d b : GReg)
  /-- A word SEL (R297): Check a Flint job and queue it. -/
  | sel (s : Scope) (a : GReg)
  /-- A word SELWAIT (R297): Wait for the oldest Flint job and return its element. -/
  | selwait (d : GReg)
  /-- A word EDIT_CHG (R315): Read and check an edit record that changes tokens, and enqueue it. -/
  | editChg (a : GReg)
  /-- A word EDIT_INS (R315): Enqueue an insertion edit. -/
  | editIns (a : GReg)
  /-- A word EDIT_DEL (R315): Enqueue a deletion edit. -/
  | editDel (a : GReg)
  /-- A word EDIT_APP (R315): Enqueue an append edit, with the predicate under .cb. -/
  | editApp (a : GReg) (cb : Bool)
  /-- A word DMAP (R319): Read the states of 32 blocks of a layer. -/
  | dmap (d a : GReg)
  /-- A word SETTLE (R320): Wait until the selected layers have no dirty or recomputing block, then acquire. -/
  | settle (a b : GReg)
  /-- A word TVERS (R319): Read a block's state and version. -/
  | tvers (d a : GReg)
  /-- A word LDT (R318): Tracked queue load that waits for a valid block. -/
  | ldt (q : BitVec 3) (a : GReg) (i : BitVec 10)
  /-- A word LDT_NB (R318): Non-blocking tracked load that returns the state and version. -/
  | ldtNb (d : GReg) (q : BitVec 3) (a : GReg) (i : BitVec 10)
  /-- A word STT (R310): Tracked store of the head slot to the task's own block. -/
  | stt (q : BitVec 3) (a : GReg) (i : BitVec 10)
  /-- A word TLBINV (R350): Invalidate translations within a reach. -/
  | tlbinv (a b : GReg)
  /-- A word CTXSAVE (R351): Write a hart context image. -/
  | ctxsave (a : GReg)
  /-- A word CTXREST (R352): Check and restore a hart context image. -/
  | ctxrest (a : GReg)
  /-- A word YIELD (R353): Give up the hart through the pre-emption sequence. -/
  | yield
  /-- A word CAPSTART (R355): Start a capture. -/
  | capstart (a : GReg)
  /-- A word CAPSTOP (R355): Store the capture record and stop the capture. -/
  | capstop
  /-- B word NOP_B (R59): A B nop occupies a sequencer entry and retires without effect. -/
  | nopB
  /-- B word VADD_F32 (R112): Element-wise FP32 add. -/
  | vaddF32 (h : BMask) (d : VDst) (a : VSrc) (b : VSrc2)
  /-- B word VADD_F16 (R112): Element-wise FP16 add. -/
  | vaddF16 (h : BMask) (d : VDst) (a : VSrc) (b : VSrc2)
  /-- B word VADD_BF16 (R112): Element-wise BF16 add. -/
  | vaddBf16 (h : BMask) (d : VDst) (a : VSrc) (b : VSrc2)
  /-- B word VADD_I32 (R112): Element-wise i32 add. -/
  | vaddI32 (h : BMask) (d : VDst) (a : VSrc) (b : VSrc2)
  /-- B word VSUB_F32 (R112): FP32 subtract. -/
  | vsubF32 (h : BMask) (d : VDst) (a : VSrc) (b : VSrc2)
  /-- B word VSUB_F16 (R112): FP16 subtract. -/
  | vsubF16 (h : BMask) (d : VDst) (a : VSrc) (b : VSrc2)
  /-- B word VSUB_BF16 (R112): BF16 subtract. -/
  | vsubBf16 (h : BMask) (d : VDst) (a : VSrc) (b : VSrc2)
  /-- B word VSUB_I32 (R112): i32 subtract. -/
  | vsubI32 (h : BMask) (d : VDst) (a : VSrc) (b : VSrc2)
  /-- B word VMUL_F32 (R112): FP32 multiply. -/
  | vmulF32 (h : BMask) (d : VDst) (a : VSrc) (b : VSrc2)
  /-- B word VMUL_F16 (R112): FP16 multiply. -/
  | vmulF16 (h : BMask) (d : VDst) (a : VSrc) (b : VSrc2)
  /-- B word VMUL_BF16 (R112): BF16 multiply. -/
  | vmulBf16 (h : BMask) (d : VDst) (a : VSrc) (b : VSrc2)
  /-- B word VMUL_I32 (R112): i32 multiply, low bits. -/
  | vmulI32 (h : BMask) (d : VDst) (a : VSrc) (b : VSrc2)
  /-- B word VFMA_F32 (R113): FP32 fused vd × vs1 + vs2. -/
  | vfmaF32 (h : BMask) (d : VReg) (a : VSrc) (b : VSrc2)
  /-- B word VFMA_F16 (R113): FP16 fused multiply-add. -/
  | vfmaF16 (h : BMask) (d : VReg) (a : VSrc) (b : VSrc2)
  /-- B word VFMA_BF16 (R113): BF16 fused multiply-add. -/
  | vfmaBf16 (h : BMask) (d : VReg) (a : VSrc) (b : VSrc2)
  /-- B word VFMS_F32 (R113): FP32 fused vd × vs1 − vs2. -/
  | vfmsF32 (h : BMask) (d : VReg) (a : VSrc) (b : VSrc2)
  /-- B word VFMS_F16 (R113): FP16 fused multiply-subtract. -/
  | vfmsF16 (h : BMask) (d : VReg) (a : VSrc) (b : VSrc2)
  /-- B word VFMS_BF16 (R113): BF16 fused multiply-subtract. -/
  | vfmsBf16 (h : BMask) (d : VReg) (a : VSrc) (b : VSrc2)
  /-- B word VFNMA_F32 (R113): FP32 negated fused multiply-add. -/
  | vfnmaF32 (h : BMask) (d : VReg) (a : VSrc) (b : VSrc2)
  /-- B word VFNMA_F16 (R113): FP16 negated fused multiply-add. -/
  | vfnmaF16 (h : BMask) (d : VReg) (a : VSrc) (b : VSrc2)
  /-- B word VFNMA_BF16 (R113): BF16 negated fused multiply-add. -/
  | vfnmaBf16 (h : BMask) (d : VReg) (a : VSrc) (b : VSrc2)
  /-- B word VFNMS_F32 (R113): FP32 negated fused multiply-subtract. -/
  | vfnmsF32 (h : BMask) (d : VReg) (a : VSrc) (b : VSrc2)
  /-- B word VFNMS_F16 (R113): FP16 negated fused multiply-subtract. -/
  | vfnmsF16 (h : BMask) (d : VReg) (a : VSrc) (b : VSrc2)
  /-- B word VFNMS_BF16 (R113): BF16 negated fused multiply-subtract. -/
  | vfnmsBf16 (h : BMask) (d : VReg) (a : VSrc) (b : VSrc2)
  /-- B word VMIN_F32 (R115): FP32 minimum. -/
  | vminF32 (h : BMask) (d : VDst) (a : VSrc) (b : VSrc2)
  /-- B word VMIN_F16 (R115): FP16 minimum. -/
  | vminF16 (h : BMask) (d : VDst) (a : VSrc) (b : VSrc2)
  /-- B word VMIN_BF16 (R115): BF16 minimum. -/
  | vminBf16 (h : BMask) (d : VDst) (a : VSrc) (b : VSrc2)
  /-- B word VMIN_I32 (R115): i32 minimum. -/
  | vminI32 (h : BMask) (d : VDst) (a : VSrc) (b : VSrc2)
  /-- B word VMIN_N32 (R115): n32 minimum. -/
  | vminN32 (h : BMask) (d : VDst) (a : VSrc) (b : VSrc2)
  /-- B word VMAX_F32 (R115): FP32 maximum. -/
  | vmaxF32 (h : BMask) (d : VDst) (a : VSrc) (b : VSrc2)
  /-- B word VMAX_F16 (R115): FP16 maximum. -/
  | vmaxF16 (h : BMask) (d : VDst) (a : VSrc) (b : VSrc2)
  /-- B word VMAX_BF16 (R115): BF16 maximum. -/
  | vmaxBf16 (h : BMask) (d : VDst) (a : VSrc) (b : VSrc2)
  /-- B word VMAX_I32 (R115): i32 maximum. -/
  | vmaxI32 (h : BMask) (d : VDst) (a : VSrc) (b : VSrc2)
  /-- B word VMAX_N32 (R115): n32 maximum. -/
  | vmaxN32 (h : BMask) (d : VDst) (a : VSrc) (b : VSrc2)
  /-- B word VCMPEQ_F32 (R118): FP32 equality mask. -/
  | vcmpeqF32 (h : BMask) (d : VDst) (a : VSrc) (b : VSrc2)
  /-- B word VCMPEQ_F16 (R118): FP16 equality mask. -/
  | vcmpeqF16 (h : BMask) (d : VDst) (a : VSrc) (b : VSrc2)
  /-- B word VCMPEQ_BF16 (R118): BF16 equality mask. -/
  | vcmpeqBf16 (h : BMask) (d : VDst) (a : VSrc) (b : VSrc2)
  /-- B word VCMPEQ_I32 (R118): i32 equality mask. -/
  | vcmpeqI32 (h : BMask) (d : VDst) (a : VSrc) (b : VSrc2)
  /-- B word VCMPEQ_N32 (R118): n32 equality mask. -/
  | vcmpeqN32 (h : BMask) (d : VDst) (a : VSrc) (b : VSrc2)
  /-- B word VCMPLT_F32 (R118): FP32 less-than mask. -/
  | vcmpltF32 (h : BMask) (d : VDst) (a : VSrc) (b : VSrc2)
  /-- B word VCMPLT_F16 (R118): FP16 less-than mask. -/
  | vcmpltF16 (h : BMask) (d : VDst) (a : VSrc) (b : VSrc2)
  /-- B word VCMPLT_BF16 (R118): BF16 less-than mask. -/
  | vcmpltBf16 (h : BMask) (d : VDst) (a : VSrc) (b : VSrc2)
  /-- B word VCMPLT_I32 (R118): i32 less-than mask. -/
  | vcmpltI32 (h : BMask) (d : VDst) (a : VSrc) (b : VSrc2)
  /-- B word VCMPLT_N32 (R118): n32 less-than mask. -/
  | vcmpltN32 (h : BMask) (d : VDst) (a : VSrc) (b : VSrc2)
  /-- B word VCMPLE_F32 (R118): FP32 less-or-equal mask. -/
  | vcmpleF32 (h : BMask) (d : VDst) (a : VSrc) (b : VSrc2)
  /-- B word VCMPLE_F16 (R118): FP16 less-or-equal mask. -/
  | vcmpleF16 (h : BMask) (d : VDst) (a : VSrc) (b : VSrc2)
  /-- B word VCMPLE_BF16 (R118): BF16 less-or-equal mask. -/
  | vcmpleBf16 (h : BMask) (d : VDst) (a : VSrc) (b : VSrc2)
  /-- B word VCMPLE_I32 (R118): i32 less-or-equal mask. -/
  | vcmpleI32 (h : BMask) (d : VDst) (a : VSrc) (b : VSrc2)
  /-- B word VCMPLE_N32 (R118): n32 less-or-equal mask. -/
  | vcmpleN32 (h : BMask) (d : VDst) (a : VSrc) (b : VSrc2)
  /-- B word VCMPUN_F32 (R118): FP32 unordered mask. -/
  | vcmpunF32 (h : BMask) (d : VDst) (a : VSrc) (b : VSrc2)
  /-- B word VCMPUN_F16 (R118): FP16 unordered mask. -/
  | vcmpunF16 (h : BMask) (d : VDst) (a : VSrc) (b : VSrc2)
  /-- B word VCMPUN_BF16 (R118): BF16 unordered mask. -/
  | vcmpunBf16 (h : BMask) (d : VDst) (a : VSrc) (b : VSrc2)
  /-- B word VSEL_I8 (R119): Select 8-bit elements by the mask in vd. -/
  | vselI8 (h : BMask) (d : VReg) (a : VSrc) (b : VSrc2)
  /-- B word VSEL_I16 (R119): Select 16-bit elements by the mask in vd. -/
  | vselI16 (h : BMask) (d : VReg) (a : VSrc) (b : VSrc2)
  /-- B word VSEL_I32 (R119): Select 32-bit elements by the mask in vd. -/
  | vselI32 (h : BMask) (d : VReg) (a : VSrc) (b : VSrc2)
  /-- B word VSEL_I64 (R119): Select 64-bit elements by the mask in vd. -/
  | vselI64 (h : BMask) (d : VReg) (a : VSrc) (b : VSrc2)
  /-- B word VAND (R121): Bitwise and of 512 bits. -/
  | vand (h : BMask) (d : VDst) (a : VSrc) (b : VSrc2)
  /-- B word VOR (R121): Bitwise or of 512 bits. -/
  | vor (h : BMask) (d : VDst) (a : VSrc) (b : VSrc2)
  /-- B word VXOR (R121): Bitwise xor of 512 bits. -/
  | vxor (h : BMask) (d : VDst) (a : VSrc) (b : VSrc2)
  /-- B word VSHL_I32 (R122): Per-element shift left, 32-bit. -/
  | vshlI32 (h : BMask) (d : VDst) (a : VSrc) (b : VSrc2)
  /-- B word VSHL_I64 (R122): Per-element shift left, 64-bit. -/
  | vshlI64 (h : BMask) (d : VDst) (a : VSrc) (b : VSrc2)
  /-- B word VSHR_I32 (R122): Logical shift right, 32-bit. -/
  | vshrI32 (h : BMask) (d : VDst) (a : VSrc) (b : VSrc2)
  /-- B word VSHR_I64 (R122): Logical shift right, 64-bit. -/
  | vshrI64 (h : BMask) (d : VDst) (a : VSrc) (b : VSrc2)
  /-- B word VSRA_I32 (R122): Arithmetic shift right, 32-bit. -/
  | vsraI32 (h : BMask) (d : VDst) (a : VSrc) (b : VSrc2)
  /-- B word VSRA_I64 (R122): Arithmetic shift right, 64-bit. -/
  | vsraI64 (h : BMask) (d : VDst) (a : VSrc) (b : VSrc2)
  /-- B word VMULH_I32 (R123): High half of the signed 32-bit product. -/
  | vmulhI32 (h : BMask) (d : VDst) (a : VSrc) (b : VSrc2)
  /-- B word VMULH_N32 (R123): High half of the unsigned 32-bit product. -/
  | vmulhN32 (h : BMask) (d : VDst) (a : VSrc) (b : VSrc2)
  /-- B word VMULH_I16 (R123): High half of the signed 16-bit product. -/
  | vmulhI16 (h : BMask) (d : VDst) (a : VSrc) (b : VSrc2)
  /-- B word VMULH_N16 (R123): High half of the unsigned 16-bit product. -/
  | vmulhN16 (h : BMask) (d : VDst) (a : VSrc) (b : VSrc2)
  /-- B word VPADD_L8E4 (R124): Packed L8E4 add, saturating. -/
  | vpaddL8e4 (h : BMask) (d : VDst) (a : VSrc) (b : VSrc2)
  /-- B word VPADD_L8E5 (R124): Packed L8E5 add, saturating. -/
  | vpaddL8e5 (h : BMask) (d : VDst) (a : VSrc) (b : VSrc2)
  /-- B word VPADD_L8E4_NAN (R124): Packed L8E4 add under .nan. -/
  | vpaddL8e4Nan (h : BMask) (d : VDst) (a : VSrc) (b : VSrc2)
  /-- B word VPADD_L8E5_NAN (R124): Packed L8E5 add under .nan. -/
  | vpaddL8e5Nan (h : BMask) (d : VDst) (a : VSrc) (b : VSrc2)
  /-- B word VPADD_I8 (R124): Packed i8 add, clamped. -/
  | vpaddI8 (h : BMask) (d : VDst) (a : VSrc) (b : VSrc2)
  /-- B word VPADD_N8 (R124): Packed n8 add, clamped. -/
  | vpaddN8 (h : BMask) (d : VDst) (a : VSrc) (b : VSrc2)
  /-- B word VPMUL_L8E4 (R124): Packed L8E4 multiply. -/
  | vpmulL8e4 (h : BMask) (d : VDst) (a : VSrc) (b : VSrc2)
  /-- B word VPMUL_L8E5 (R124): Packed L8E5 multiply. -/
  | vpmulL8e5 (h : BMask) (d : VDst) (a : VSrc) (b : VSrc2)
  /-- B word VPMUL_L8E4_NAN (R124): Packed L8E4 multiply under .nan. -/
  | vpmulL8e4Nan (h : BMask) (d : VDst) (a : VSrc) (b : VSrc2)
  /-- B word VPMUL_L8E5_NAN (R124): Packed L8E5 multiply under .nan. -/
  | vpmulL8e5Nan (h : BMask) (d : VDst) (a : VSrc) (b : VSrc2)
  /-- B word VPMUL_I8 (R124): Packed i8 multiply, clamped. -/
  | vpmulI8 (h : BMask) (d : VDst) (a : VSrc) (b : VSrc2)
  /-- B word VPMUL_N8 (R124): Packed n8 multiply, clamped. -/
  | vpmulN8 (h : BMask) (d : VDst) (a : VSrc) (b : VSrc2)
  /-- B word VMIX (R139): Counter-based Mix hash per element. -/
  | vmix (h : BMask) (d : VDst) (a : VSrc) (b : VSrc2)
  /-- B word VTEMP_F32 (R132): Divide FP32 elements by a temperature. -/
  | vtempF32 (h : BMask) (d : VDst) (a : VSrc) (b : VSrc2)
  /-- B word VTEMP_F16 (R132): Divide FP16 elements by a temperature. -/
  | vtempF16 (h : BMask) (d : VDst) (a : VSrc) (b : VSrc2)
  /-- B word VTEMP_BF16 (R132): Divide BF16 elements by a temperature. -/
  | vtempBf16 (h : BMask) (d : VDst) (a : VSrc) (b : VSrc2)
  /-- B word VRCPR (R131): Refine a reciprocal estimate. -/
  | vrcpr (h : BMask) (d : VDst) (a : VSrc) (b : VSrc2)
  /-- B word VRSQR (R131): Refine a reciprocal square-root estimate. -/
  | vrsqr (h : BMask) (d : VDst) (a : VSrc) (b : VSrc2)
  /-- B word VPERM_I8 (R135): Gather 8-bit elements by index. -/
  | vpermI8 (h : BMask) (d : VDst) (a : VSrc) (b : VSrc2)
  /-- B word VPERM_I16 (R135): Gather 16-bit elements by index. -/
  | vpermI16 (h : BMask) (d : VDst) (a : VSrc) (b : VSrc2)
  /-- B word VPERM_I32 (R135): Gather 32-bit elements by index. -/
  | vpermI32 (h : BMask) (d : VDst) (a : VSrc) (b : VSrc2)
  /-- B word VPERM_I64 (R135): Gather 64-bit elements by index. -/
  | vpermI64 (h : BMask) (d : VDst) (a : VSrc) (b : VSrc2)
  /-- B word VMERGE_I32 (R135): Interleave 32-bit elements. -/
  | vmergeI32 (h : BMask) (d : VDst) (a : VSrc) (b : VSrc2)
  /-- B word VMERGE_I64 (R135): Interleave 64-bit elements. -/
  | vmergeI64 (h : BMask) (d : VDst) (a : VSrc) (b : VSrc2)
  /-- B word VABS (R116): Absolute value. -/
  | vabs (h : BMask) (d : VDst) (t : ETy) (b : VSrc2)
  /-- B word VNEG (R116): Negation. -/
  | vneg (h : BMask) (d : VDst) (t : ETy) (b : VSrc2)
  /-- B word VORDKEY (R128): Order key of each element. -/
  | vordkey (h : BMask) (d : VDst) (t : ETy) (b : VSrc2)
  /-- B word VRCPA (R129): Approximate reciprocal. -/
  | vrcpa (h : BMask) (d : VDst) (t : ETy) (b : VSrc2)
  /-- B word VRSQA (R129): Approximate reciprocal square root. -/
  | vrsqa (h : BMask) (d : VDst) (t : ETy) (b : VSrc2)
  /-- B word VLOG2 (R129): Approximate base-2 logarithm. -/
  | vlog2 (h : BMask) (d : VDst) (t : ETy) (b : VSrc2)
  /-- B word VEXP2 (R129): Approximate base-2 exponential. -/
  | vexp2 (h : BMask) (d : VDst) (t : ETy) (b : VSrc2)
  /-- B word VREDSUM (R133): Tree sum reduction into element 0. -/
  | vredsum (h : BMask) (d : VDst) (t : ETy) (r : Rnd) (b : VSrc2)
  /-- B word VREDMAX (R133): Tree maximum reduction. -/
  | vredmax (h : BMask) (d : VDst) (t : ETy) (b : VSrc2)
  /-- B word VREDMIN (R133): Tree minimum reduction. -/
  | vredmin (h : BMask) (d : VDst) (t : ETy) (b : VSrc2)
  /-- B word VARGMAX (R134): Value and index of the largest active element. -/
  | vargmax (h : BMask) (d : VDst) (t : ETy) (b : VSrc2)
  /-- B word VARGMIN (R134): Value and index of the smallest active element. -/
  | vargmin (h : BMask) (d : VDst) (t : ETy) (b : VSrc2)
  /-- B word VCOMPRESS (R136): Pack the active elements to the bottom. -/
  | vcompress (h : BMask) (d : VDst) (t : ETy) (b : VSrc2)
  /-- B word VMOV (R135): Copy 16 lanes of 32 bits. -/
  | vmov (h : BMask) (d : VDst) (b : VSrc2)
  /-- B word VCVT (R125): Convert the bottom group between formats. -/
  | vcvt (h : BMask) (d : VReg) (t u : ETy) (r : Rnd) (n : Bool) (s : VReg)
  /-- B word VPACK (R126): Narrow-convert and shift into vd. -/
  | vpack (h : BMask) (d : VReg) (t u : ETy) (r : Rnd) (n : Bool) (s : VReg)
  /-- B word VUNPACK (R127): Widen-convert the top group of the source. -/
  | vunpack (h : BMask) (d : VReg) (t u : ETy) (s : VReg)
  /-- B word VSLIDE (R135): Slide elements down by n. -/
  | vslide (h : BMask) (d : VDst) (w : MW) (i : BitVec 7) (a : VSrc)
  /-- B word VBCAST (R135): Broadcast element j. -/
  | vbcast (h : BMask) (d : VDst) (w : MW) (i : BitVec 7) (a : VSrc)
  /-- B word MAND (R120): Mask and. -/
  | mand (h : BMask) (d a b : VReg) (w : MW)
  /-- B word MOR (R120): Mask or. -/
  | mor (h : BMask) (d a b : VReg) (w : MW)
  /-- B word MXOR (R120): Mask xor. -/
  | mxor (h : BMask) (d a b : VReg) (w : MW)
  /-- B word MNOT (R120): Mask not. -/
  | mnot (h : BMask) (d b : VReg) (w : MW)
  /-- B word MPOP (R120): Population count of the active mask bits. -/
  | mpop (h : BMask) (d b : VReg) (w : MW)
  /-- B word MFIRST (R120): Index of the first active set bit. -/
  | mfirst (h : BMask) (d b : VReg) (w : MW)
  /-- B word QADV (R137): Advance a queue's head or tail by n. -/
  | qadv (q : BitVec 3) (n : BitVec 5)
  /-- B word BQPUT (R138): Push one bit of vs2 onto the branch queue. -/
  | bqput (e : BitVec 5) (b : VSrc2)
  /-- B word VADDI_LOW (R117): Add an imm20 constant to v0–v3. -/
  | vaddiLow (h : BMask) (d : BitVec 2) (i : BitVec 20)
  /-- B word VADDI_HIGH (R117): Add an imm20 constant to v4–v7. -/
  | vaddiHigh (h : BMask) (d : BitVec 2) (i : BitVec 20)
  /-- B word VMULI_LOW (R117): Multiply v0–v3 by an imm20 constant. -/
  | vmuliLow (h : BMask) (d : BitVec 2) (i : BitVec 20)
  /-- B word VMULI_HIGH (R117): Multiply v4–v7 by an imm20 constant. -/
  | vmuliHigh (h : BMask) (d : BitVec 2) (i : BitVec 20)
  /-- B word VSPLAT_LOW (R117): Write an imm20 constant into v0–v3. -/
  | vsplatLow (h : BMask) (d : BitVec 2) (i : BitVec 20)
  /-- B word VSPLAT_HIGH (R117): Write an imm20 constant into v4–v7. -/
  | vsplatHigh (h : BMask) (d : BitVec 2) (i : BitVec 20)
  /-- Step STYTHNET_PORT_TRAINING_CHANGE (R357): A StythNet port becomes trained and starts carrying traffic, or stops doing so, and its PORTUP bit changes. -/
  | stythnetPortTrainingChange (p : BitVec 5) (up : Bool)
  /-- Step MATRIX_ARRAY_IDLE (R382): A matrix array that has been idle for 2^20 clk falls out of its enabled state, so the next operation must re-enable its slices. -/
  | matrixArrayIdle (cl : Nat)
  /-- Step OWNERSHIP_TAG_WRITE (R200): The control complex writes the ownership tag of a 64 KiB frame at its controller, subject to CPART dedication. -/
  | ownershipTagWrite (frame : Nat) (tag : BitVec 6)
  deriving DecidableEq, Repr

end Sys2Proof
end

