-- ==== Sys2Proof/Machine/State.lean ====
section
/-! DEFINITION. The state of the machine as plain data: harts (R7 to R28), cores, clusters, dies, memory and the device; the closed reason types; and the state after reset (R26). Engine state is grouped by the unit that spec/ names. Maps are lists sorted by key that list no entry equal to its default (Machine/Map.lean). -/
namespace Sys2Proof.Machine

/-- Reasons a step stops with a fault. No instruction of this machine does: every trap is a next state (R25), so the one constructor is for a state that the machine cannot leave, and nothing raises it. Safe. -/
inductive Fault where
  /-- Raised by nothing: every wait and every trap of the spec is a next state. Safe. -/
  | none
  deriving DecidableEq, Repr

/-- Reasons a step is refused. -/
inductive Refusal where
  /-- The arm of exec has no meaning yet for this mnemonic. Safe. -/
  | notModelled (mnemonic : String)
  deriving DecidableEq, Repr

/-- Control registers that a hart holds, one name each (R9, R72, R87, R156, R176, R234, R271, R341, R354, R366); supervisor copies begin with s, machine copies with m. -/
inductive HReg where
  | fflags | fmode | lperm | vshare | status
  | stvec | scause | spc | sval | saddr | snpc | srep
  | mtvec | mcause | mpc | mval | maddr | mnpc | mrep
  | intpend | inten | timecmp | ctxptr | cpystat
  | mxfmt | mxscalea | mxscaleb | mxtscale | mxmeta | mstat
  | capsel | capstat | capctr0 | capctr1 | capctr2 | capctr3 | capclk | capptr | capt0
  | spbase | splen | handin | handlen
  | partid | migreq | bdsel
  /-- The pending matrix fault of R256: its TRAPVAL, its TRAPADDR, its cause. -/
  | mxval | mxaddr | mxcause
  deriving DecidableEq, Repr

/-- One entry of the loop stack (R7, R82). -/
structure LoopEnt where
  start : W64
  last : W64
  count : W64
  deriving DecidableEq, Repr

/-- A reserved, landed or faulted slot of a queue, from the head (R18, R93). `pend` carries the number of the frame that reserved it. -/
inductive QEnt where
  | pend (fno : Nat)
  | full (fno : Nat)
  | fault (fno : Nat)
  deriving DecidableEq, Repr

/-- A data queue (R7, R18): the head slot, the entries from the head on, and the sixteen slots. -/
structure Queue where
  head : BitVec 4
  ents : List QEnt
  slots : Vector V512 16
  deriving DecidableEq, Repr

/-- What a trap restores of the access stream: the state after the A word of a frame (R23, R85). -/
structure Snap where
  g : Vector W64 32
  npc : W64
  loops : List LoopEnt
  fmode : W64
  lperm : W64
  vshare : W64
  /-- MSTAT.GANG in its place (R249). -/
  gang : W64
  deriving DecidableEq, Repr

/-- The part of a resident loop that a B word belongs to (R85): the loop's own frame number, its first and last frame, the iteration and the count, and whether this is the last frame of the body that holds a B word. -/
structure ResLoop where
  id : Nat
  start : W64
  last : W64
  iter : W64
  n : W64
  deriving DecidableEq, Repr

/-- One entry of the execute sequencer (R15): the frame's address and number, the B word and its literal, the repetition with its register steps (R86), the control registers it uses (R13) and the access-stream state after its A word. -/
structure SeqEnt where
  pc : W64
  fno : Nat
  word : W32
  lit : Option W32
  /-- `some v` for a word that is no instruction: its TRAPVAL (R69, R70). -/
  bad : Option W32
  rep : Nat
  sd : Nat
  s1 : Nat
  s2 : Nat
  snap : Snap
  res : Option ResLoop
  deriving DecidableEq, Repr

/-- Where an access lands after R190 to R205: a byte of memory or of a pool, a register of the register space (R197, R386), or another device (R205). Memory keys are physical addresses; byte o of the pool of core c has key 2^52 + c * 2^18 + o. -/
inductive Loc where
  | mem (key : Nat)
  | reg (pa : Nat)
  | remote (dev : Nat) (va : W64)
  deriving DecidableEq, Repr

/-- A store in the store buffer (R21): where it lands, its bytes, its frame, its address, whether it sets its granule full (R96, R193) and whether it goes to the commit buffer of a buffered task (R162). -/
structure StoreEnt where
  loc : Loc
  va : W64
  data : List Byte
  fno : Nat
  setFull : Bool
  buffered : Bool
  /-- A tracked store (R310). -/
  tracked : Bool
  /-- A release: a strong store with `.rel`, or `stfe` (R214). -/
  rel : Bool
  deriving DecidableEq, Repr

/-- A queue load that has been issued and has not landed (R18, R22, R92): its queue, its slot, its frame and the data it brings. -/
structure Flight where
  q : BitVec 3
  slot : BitVec 4
  fno : Nat
  data : V512
  deriving DecidableEq, Repr

/-- The stream unit of one queue (R91 to R94, R344); `told` is the trap depth at which the fault it stopped at has been raised as a trap, 0 before that. -/
structure Stream where
  desc : Vector W64 4
  active : Bool
  dims : BitVec 2
  strong : Bool
  faulted : Bool
  next : Nat
  fno : Nat
  told : Nat
  deriving DecidableEq, Repr

/-- What a rollback gives back (R22, R23): a popped branch-queue bit, a popped queue slot with its bytes, or the bytes of a slot in which a load has landed. -/
inductive Undo where
  | bqPop (fno : Nat) (bit : Bool)
  | landed (fno : Nat) (q : BitVec 3) (slot : BitVec 4) (data : V512)
  | qPop (fno : Nat) (q : BitVec 3) (data : V512)
  deriving DecidableEq, Repr

/-- A translation whose A and D bits are still to be set, once its frame can no longer be discarded (R203, R204). `back` of a buffered store names its frame and the access stream before it, where the walk's restart may fault. -/
structure WalkReq where
  va : W64
  kind : AccKind
  fno : Nat
  back : Option (W64 × Snap)
  deriving DecidableEq, Repr

/-- A trap that waits for older frames (R23, R81): its cause, TRAPVAL, TRAPADDR and its frame. -/
structure Exn where
  cause : Nat
  val : W64
  addr : W64
  deriving DecidableEq, Repr

/-- What a stream of a hart waits on (R19, R354): `store` a full store buffer, `sync` an arrival at `bar` or `sstep` or an `mbwait`. -/
inductive Why where
  | queue | bq | seqFull | store | sync | halt | other
  deriving DecidableEq, Repr

/-- State of an access instruction that waits over several steps (R104): an arrival at a barrier (R175), an `mbwait` or a link access with its start (R183, R185). -/
inductive Wait where
  | none
  /-- Arrived at a barrier; `release` is P once the domain has completed. -/
  | bar (release : Option W64)
  | timed (start : W64)
  /-- An `ldfe` held at the pool of a core (R95). -/
  | fe (core : Nat)
  deriving DecidableEq, Repr

/-- An open exchange phase (R179): P, XWIN, and the core mask or the die barrier entry that opened it. -/
structure Phase where
  p : W64
  xwin : Nat
  cluster : Bool
  dom : Nat
  deriving DecidableEq, Repr

/-- A refused exchange packet not yet reported (R181). -/
structure Nack where
  dest : W64
  slot : Nat
  deriving DecidableEq, Repr

/-- A command in a matrix queue (R232), with what it sampled (R234, R250 to R255). -/
inductive MKind where
  | mma | mzero | mpre | mswap | mdrain
  deriving DecidableEq, Repr
/-- See `MKind`: the accumulator, SCOPE, the operand registers as read (R258, W1 to W4), the sampled control registers, the rounding a drain resolved, the gang mask, the age stamp, the sender, and the operands in v registers, copied at the push (R238). -/
structure MCmd where
  kind : MKind
  acc : Nat
  scope : Nat
  w : Vector W64 4
  mxfmt : W64
  scaleA : W64
  scaleB : W64
  smeta : W64
  tscale : W64
  rnd : Nat
  gang : Nat
  age : Nat
  hart : Nat
  mode : BitVec 2
  part : Nat
  va : List V512
  vb : List V512
  /-- Units of the own pool that the task's share and its resident handed range held at the push (R192). -/
  share : List Nat
  /-- Its frame, which an older trap may still discard (R23). -/
  fno : Nat
  deriving DecidableEq, Repr

/-- Effective values of a region (R147). -/
structure RegionEff where
  clusters : Nat
  pool : Nat
  bw : Nat
  energy : Nat
  prio : Nat
  vsh : Nat
  buffered : Bool
  fdom : Nat
  quarantine : Bool
  spill : W64
  spunits : Nat
  /-- The region and its ancestors, the region first, each with its effective CLUSTERS and POOL (R149). -/
  chain : List (W64 × Nat × Nat)
  donectr : W64
  deriving DecidableEq, Repr

/-- A range handed to an entry (R159): its address, its length in bytes, whether it was spilled, the core and units it is resident on, the clk of the binding, and the spill area and partition of the region it was handed from. -/
structure HandRange where
  addr : W64
  len : Nat
  spilled : Bool
  core : Nat
  units : List Nat
  bound : W64
  spill : W64
  spunits : Nat
  part : Nat
  /-- A spill of it has failed, so that it stays resident (R159). -/
  tried : Bool
  deriving DecidableEq, Repr

/-- The block a Mere task works on (R309): session, layer, physical slot, and whether it is an audit (R323). -/
structure MereTask where
  ses : Nat
  layer : Nat
  block : Nat
  audit : Bool
  /-- DSLOT and THR of the layer, as read at the insertion (R303). -/
  dslot : Nat
  thr : W32
  deriving DecidableEq, Repr

/-- A running task (R150, R151, R155, R162): its entry image, its partition, its region's effective values, its pool units, and how it retires. -/
structure Task where
  image : Vector W64 8
  part : Nat
  eff : RegionEff
  /-- First scratchpad unit. -/
  sp : Nat
  /-- Vector-backing and accumulator units (R156). -/
  units : List Nat
  hand : Option HandRange
  exclusive : Bool
  mere : Option MereTask
  /-- The model's own: a number that tells tasks apart, so that a refusal finds its sender (R181). -/
  ident : Nat
  deriving DecidableEq, Repr

/-- How far a pre-emption request or a `yield` of the hart has gone (R346). -/
inductive PreState where
  | none
  | requested
  | cut
  deriving DecidableEq, Repr

/-- A pre-emption in progress: its state, the image KIND (R345), the cut (frame, TRB, next frame, repetition) and whether PREEMPT asked for it (R348). -/
structure PreReq where
  st : PreState
  kind : Nat
  pc : W64
  trb : Bool
  npc : W64
  rep : Nat
  byReg : Bool
  deriving DecidableEq, Repr

/-- Is the hart parked, held at reset, running, or stopped for good (R26, R340)? -/
inductive Run where
  | parked | held | running | stopped
  deriving DecidableEq, Repr

/-- The state that one hart holds (R7). -/
structure Hart where
  run : Run
  g : Vector W64 32
  v : Vector V512 32
  k : Vector W32 64
  q : Vector Queue 8
  bq : List Bool
  /-- Top entry first. -/
  loops : List LoopEnt
  pc : W64
  regs : Vector W64 64
  seq : List SeqEnt
  /-- Repetitions of the last frame that have not entered the sequencer (R15). -/
  enter : List SeqEnt
  /-- Number of the frame in the access pipeline. -/
  fno : Nat
  /-- The frame fetched at PC: word 0 and word 1 (R14). -/
  fr : Option (W32 × W32)
  /-- A B word that `eret` or a restored context still has to issue: its frame and first repetition (R24, R87). -/
  redo : Option (W64 × Nat)
  sbuf : List StoreEnt
  flight : List Flight
  str : Vector Stream 8
  undo : List Undo
  walks : List WalkReq
  /-- Trace records of taken transfers that an older word may still discard: frame number, frame address, clk (R23, R379). -/
  traces : List (Nat × W64 × W64)
  /-- A trap found and not yet taken. -/
  trap : Option Exn
  aStall : Option Why
  bStall : Option Why
  /-- What the A word at PC, and the B word at the head, waited on when last tried: a capture counts it until they are tried again (R354). -/
  aWhy : Option Why
  bWhy : Option Why
  /-- Lane groups granted to the B word at the head of the sequencer (R164). -/
  lanes : Nat
  stallAt : W64
  wait : Wait
  phase : Option Phase
  nacks : List Nack
  /-- Flint: jobs outstanding, elements not popped (R297). -/
  flintOut : Nat
  flintRes : List W64
  /-- Tarn: commands outstanding, pairs (selector, element) not popped (R285). -/
  tarnOut : Nat
  tarnRes : List (W64 × W64)
  mq : List MCmd
  /-- Accumulators: key 512 * acc + 256 * (bank is visible) + 8 * m + j (R231); default 0. -/
  acc : List (Nat × BitVec 56)
  /-- Commit buffer: line address / 64 to its bytes (R162). -/
  cbuf : List (Nat × V512)
  /-- Lines of the commit buffer that a tracked store wrote, and the measure of tracked stores already performed (R310). -/
  trk : List Nat
  meas : W32
  task : Option Task
  pre : Option PreReq
  deriving DecidableEq, Repr

/-- Index of a control register. -/
abbrev HReg.idx (r : HReg) : Nat := r.ctorIdx

/-- Use of a 4 KiB pool unit (R156, R343): free, held by a hart of the core as scratchpad or handed range, held as vector backing or accumulator store, or kept for an entry that a range was handed to. -/
inductive UnitUse where
  | free | scratch (hart : Nat) | backing (hart : Nat) | kept
  deriving DecidableEq, Repr

/-- A cached translation (R204): partition, page base, level of the leaf and the entry itself. -/
structure TlbEnt where
  part : Nat
  page : Nat
  lvl : Nat
  pte : W64
  deriving DecidableEq, Repr

/-- A copy request (R268) with its sender: hart, privilege mode, partition; `owed` while the task that pushed it runs, so that NCERR is still its own; and the units of the own pool that the task's share and its resident handed range held at the push (R192). -/
structure CopyReq where
  w : Vector W64 4
  hart : Nat
  mode : BitVec 2
  part : Nat
  owed : Bool
  share : List Nat
  deriving DecidableEq, Repr

/-- A copy in flight (R267, R270, R271): its request, the core whose FIFO it left, the Tarn slots bound to its sides at the start (0 is identity) and where each side still holds them (die, 16 * array + slot; R281, R282), the bytes of a destination row, whether a graph measures (R272), the rows still to move, the pieces of the first one already moved, that row as it came out of the graphs, the bytes that the copy has overwritten as they stood (R270), its error bits and its measure. -/
structure CopyFly where
  id : Nat
  core : Nat
  req : CopyReq
  gsrc : Nat
  gdst : Nat
  hsrc : List (Nat × Nat)
  hdst : List (Nat × Nat)
  out : Nat
  del : Bool
  todo : List Nat
  pos : Nat
  row : Option (List (Option Byte))
  old : List (Nat × Byte)
  err : Nat
  measure : W32
  deriving DecidableEq, Repr

/-- A Flint job (R291, R296) with its sender; `owed` as in `CopyReq`. -/
structure FlintJob where
  w : Vector W64 4
  hart : Nat
  mode : BitVec 2
  part : Nat
  owed : Bool
  deriving DecidableEq, Repr

/-- A Tarn command on its way (R285): selector, words, sender; `owed` as in `CopyReq`. -/
structure TarnCmd where
  sel : W64
  w : Vector W64 4
  hart : Nat
  mode : BitVec 2
  part : Nat
  owed : Bool
  deriving DecidableEq, Repr

/-- State of one core outside its harts (R184, R194, R204, R267, R296, R377). -/
structure Core where
  units : List (Nat × UnitUse)
  /-- Units marked retired (R343). -/
  retired : List Nat
  win : Vector W64 8
  lnkto : W64
  /-- LNKSTAT [1:0]. -/
  lnkerr : W64
  east : List W64
  west : List W64
  mbox : List (Nat × Nat)
  fifo : List CopyReq
  infl : Nat
  flintq : List FlintJob
  tlb : List TlbEnt
  /-- Requests held while the core is halted (R378). -/
  inbox : List RemoteReq
  /-- `ldfe` requests that wait at the pool, in order of arrival: granule, hart (R95). -/
  feq : List (Nat × Nat)
  /-- Lane-group credits of the four harts, and the clk each ready head has waited (R164). -/
  credit : Vector Int 4
  lwait : Vector Nat 4
  /-- Harts that a STEP lets issue, each with the number of the frame it may issue (R377). -/
  steps : List (Nat × Nat)
  /-- Hart served last by the access pipeline (R16). -/
  last : Nat
  deriving DecidableEq, Repr

/-- A Basin entry (R151 to R153): its image, partition, arrivals, the clk at which it became ready, its region, its handed range, its context handle (R346), exclusive mode Mere block, and of a saved context the scratchpad units that it held, its task's number, its open phase and the packet refusals still to be reported (R2, R179, R181), the stores that a stream group still holds up with the frame numbers that order them (R214, R222), the trap depth of each stream fault raised (R93), its MIGREQ (R366) and the measure of its tracked stores (R310). -/
structure Entry where
  image : Vector W64 8
  part : Nat
  arrivals : Nat
  ready : Option W64
  eff : RegionEff
  hand : Option HandRange
  ctx : Option Nat
  exclusive : Bool
  mere : Option MereTask
  held : List Nat
  ident : Nat
  phase : Option Phase
  nacks : List Nack
  left : List StoreEnt
  fno : Nat
  fnos : List (Nat × Nat)
  migreq : W64
  meas : W32
  deriving DecidableEq, Repr

/-- A pending barrier domain (R175, R176): its mask or table entry, HARTS or ARRIVE, the harts that have arrived, and P once complete. -/
structure Domain where
  key : Nat
  harts : Nat
  arrived : List Nat
  release : Option W64
  deriving DecidableEq, Repr

/-- A member of a formed matrix operation (R240, R241): the queue it left (a HARTID, or the key of an `MxTail`), its core, its command, and the words of its link operands A and B: those read, and how many are still to come, since when (R239). -/
structure MatMem where
  own : Nat
  core : Nat
  cmd : MCmd
  la : List W64
  na : Nat
  lb : List W64
  nb : Nat
  since : W64
  deriving DecidableEq, Repr

/-- A matrix operation that has formed and not completed (R240 to R242). -/
structure MatOp where
  id : Nat
  members : List MatMem
  deriving DecidableEq, Repr

/-- A drain whose writes are performed and whose counter is not yet updated (R255). -/
structure MDrain where
  id : Nat
  own : Nat
  core : Nat
  cmd : MCmd
  ctr : W64
  err : Nat
  deriving DecidableEq, Repr

/-- What a task that has ended left at the matrix array (R260): its queue, its accumulators, and the accumulator units still held. -/
structure MxTail where
  key : Nat
  core : Nat
  mq : List MCmd
  acc : List (Nat × BitVec 56)
  units : List Nat
  deriving DecidableEq, Repr

/-- State of one cluster (R1, R151, R159, R175, R242, R296, R382). -/
structure Cluster where
  basin : List (Nat × Option Entry)
  /-- Hand table (R159): tag, range. -/
  hands : List (W32 × HandRange)
  doms : List Domain
  ops : List MatOp
  tails : List MxTail
  flint : Option FlintJob
  rotFlint : Nat
  rotCopy : Nat
  ni : List TlbEnt
  /-- The clock that balancing gives the cluster, and by how much the die's power limit slows it (R149, R166, R381). -/
  mhz : Nat
  cut : Nat
  /-- Exchange phases of the cluster's barrier domains (R179). -/
  phases : List Phase
  powered : Bool
  /-- Enabled slices of the matrix array and the clk of its last operation (R382). -/
  slices : Nat
  mxBusy : W64
  deriving DecidableEq, Repr

/-- A Tarn slot (R276, R277): its owner, its image bytes and its holds. -/
structure TarnSlot where
  owner : Nat
  image : List Byte
  holds : Nat
  deriving DecidableEq, Repr

/-- Hotness state of a controller (R207, R208): sketch counters by 4096 * row + index, the hot list, the start of the interval. -/
structure Hot where
  sketch : List (Nat × Nat)
  list : List (Nat × Nat)
  since : W64
  deriving DecidableEq, Repr

/-- A pending edit in session order (R315, R316): its kind, the record's address, the words read, partition. -/
structure EditReq where
  kind : Nat
  recAt : W64
  w : Vector W64 4
  cb : Bool
  part : Nat
  deriving DecidableEq, Repr

/-- A predicate that runs for one token of an edit (R317): its control hart, the clk it started, the hart as it stood before, and the index of the token in the request. -/
structure PredRun where
  hart : Nat
  start : W64
  saved : Hart
  idx : Nat
  deriving DecidableEq, Repr

/-- A commit performed whose commit step is still to come (R311): layer, slot, measure, whether it is an audit, the threshold, and whether the block was dirtied since its commit point (R307). -/
structure MereCommit where
  layer : Nat
  slot : Nat
  m : W32
  audit : Bool
  thr : W32
  redirty : Bool
  deriving DecidableEq, Repr

/-- An event of a session that is not applied yet (R308), or that a task in exclusive mode defers (R312): one that dirties a block itself (`own`) or an input of it, a commit step, or a fault that leaves a block held (R313). -/
inductive MereDefer where
  | event (blk : Nat) (own : Bool)
  | commit (c : MereCommit)
  | fault (layer slot : Nat)
  deriving DecidableEq, Repr

/-- A tracked session (R302 to R309). States, versions, slots and tokens stand in memory, where R302 has the tracker read them back; the tracker holds words 0 to 8 as copied at OPEN, its counters, and what is under way. Blocks are numbered layer * NSLOT + slot. -/
structure Session where
  w : Vector W64 9
  at_ : W64
  part : Nat
  ntok : Nat
  ended : Bool
  fault : Bool
  held : List Nat
  audmax : W32
  audcnt : Nat
  audover : Nat
  sampctr : Nat
  ptmo : Nat
  edits : List EditReq
  /-- Commits whose step is still to come, in order (R311). -/
  commits : List MereCommit
  pred : Option PredRun
  /-- Tokens of the edit under way that the predicate has accepted (R317). -/
  accepted : Nat
  /-- A predicate of the edit under way timed out or failed. -/
  timedOut : Bool
  /-- Events deferred by tasks in exclusive mode, in session order (R312). -/
  deferred : List MereDefer
  /-- Events that come next in session order, before any edit or other commit step (R308, R312). -/
  queue : List MereDefer
  /-- The next below-threshold decision is audited in place of one that was not made (R309). -/
  auditNext : Bool
  /-- Entries of the layer table as last read (R303). -/
  layers : List (Vector W64 4)
  /-- Reads that wait in session order (R308, R334): the hart, and the edits before it that are not finished. -/
  waits : List (Nat × Nat)
  /-- Words 9 to 12 of the descriptor as last written (R302). -/
  shown : List W64
  deriving DecidableEq, Repr

/-- A dump in progress (R380): partition, first unit, units, image, counter, units still protected, units copied, error. -/
structure Dump where
  /-- Units that a held write wants copied next (R380). -/
  want : List Nat
  part : Nat
  va : Nat
  units : Nat
  dst : Nat
  ctr : Nat
  prot : List Nat
  /-- Units copied out of their turn. -/
  done : List Nat
  next : Nat
  err : Bool
  deriving DecidableEq, Repr

/-- State of one die outside its clusters. -/
structure Die where
  /-- Die barrier table: 16 * word + entry (R176). -/
  bdt : List (Nat × W64)
  doms : List Domain
  /-- Tarn slots: 16 * array + slot (R276). -/
  tarn : List (Nat × Option TarnSlot)
  tarnq : List TarnCmd
  hot : List (Nat × Hot)
  sessions : List (Nat × Option Session)
  /-- Recompute insertions called for and not made, in order: session, block (R309). -/
  want : List (Nat × Nat)
  /-- Context slots in use (R346). -/
  ctx : List Nat
  /-- Contexts and discarded tasks that wait for a free Basin entry (R162, R346). -/
  waiting : List Entry
  /-- Regions whose first fault was reported here (R163). -/
  faulted : List (Nat × W64)
  dump : Option Dump
  /-- When snapshots that triggers of other dies latch are due (R376). -/
  snapAt : List W64
  /-- Interleave mode of the memory controllers (R198). -/
  interleave : Nat
  /-- Start of the interval of the link-counter grid (R374). -/
  gridSince : W64
  /-- Start of the interval of PWRNOW (R381). -/
  powerSince : W64
  deriving DecidableEq, Repr

/-- A packet of a timed exchange on its way (R180, R181), with the task that sent it and the clk of its slot. -/
structure Packet where
  hart : Nat
  dest : W64
  slot : Nat
  tag : Nat
  data : List Byte
  ident : Nat
  sent : W64
  deriving DecidableEq, Repr

/-- A recorded rebalance of R166: from cluster, to cluster. -/
structure Rebalance where
  from_ : Nat
  to_ : Nat
  deriving DecidableEq, Repr

/-- A request to another device that no port has delivered (R358): its hart, its start, its address and kind. -/
structure Stuck where
  hart : Nat
  start : W64
  addr : W64
  kind : AccKind
  deriving DecidableEq, Repr

/-- A slot held for a copy of another device (R282, R362): the sender's device and partition, the number of its request, the slot, and the arrays that hold it (die, 16 * controller + slot). -/
structure FabHold where
  dev : Nat
  part : Nat
  ref : Nat
  slot : Nat
  homes : List (Nat × Nat)
  deriving DecidableEq, Repr

/-- State of the device as a whole. -/
structure Device where
  copies : List CopyFly
  drains : List MDrain
  packets : List Packet
  /-- Signals on their way: tag, partition, region of the issuing task, die (R152). -/
  signals : List (W32 × Nat × Option W64 × Nat)
  balance : List Rebalance
  /-- Requests over StythNet that no port has delivered (R358). -/
  stuck : List Stuck
  fabHolds : List FabHold
  /-- Harts whose waiting A words execute next: an access held in an inbound buffer (R378), a Mere read whose point in session order has come (R318, R320). -/
  urgent : List Nat
  /-- Device requests of a migration that were recorded, or refused for HOLD: frame, clk, hart (R366). -/
  migs : List (Nat × W64 × Nat)
  /-- Bytes of a new firmware image that is being verified (R384). -/
  staged : Nat
  /-- The host interrupt of a control hart that stopped (R384). -/
  hostIrq : Bool
  flash : List Byte
  fuse : Nat
  /-- SHA-256 digest of the running image (R385). -/
  digest : Nat
  /-- Waves powered up (R382). -/
  waves : Nat
  /-- Words returned to the host by the last read (R363); none is an error response. -/
  hostData : Option (List Byte)
  /-- Quarantined fault domains: partition, FDOM, the region that faulted (R163). -/
  quarantine : List (Nat × Nat × W64)
  /-- Stamps for commands and copies. -/
  stamp : Nat
  deriving DecidableEq, Repr

/-- Registers of a partition (R201, R340). -/
structure Part where
  ptroot : W64
  svec : W64
  deriving DecidableEq, Repr

/-- The whole machine. -/
structure State where
  /-- HARTID of the hart whose turn it is, and its state. -/
  hid : Nat
  hart : Hart
  /-- The other harts by HARTID. -/
  others : List (Nat × Hart)
  /-- Cores by 4096 * die + 8 * cluster + core; 16384 + die is the control complex, which its copy engine counts as one core (R28). -/
  cores : List (Nat × Core)
  /-- Clusters by 512 * die + cluster. -/
  clus : List (Nat × Cluster)
  dies : List (Nat × Die)
  /-- Memory and pools by key (`Loc.mem`). -/
  mem : List Host.Cell
  /-- Full-empty bits by key / 16 (R193). -/
  full : List (Nat × Bool)
  /-- Uncorrectable words by key / 8 (R343). -/
  bad : List (Nat × Bool)
  /-- Ownership tags by PA / 65536 (R200). -/
  tags : List (Nat × BitVec 6)
  /-- Registers of the register space by PA / 8, and of the host pages from 2^52 on (R197, R364, R386). -/
  regs : List (Nat × W64)
  parts : List (Nat × Part)
  dev : Device
  /-- CYCLE (R9). -/
  clk : W64
  /-- The model's own: counts steps, and free values taken. -/
  tick : Nat
  fv : Nat
  /-- The model's own: steps of other agents that come next. -/
  agenda : List Instr
  deriving DecidableEq, Repr

/-- An empty queue with its head at slot 0 (R26). -/
def Queue.empty : Queue := ⟨0, [], Vector.replicate 16 0⟩
/-- An inactive stream unit (R344). -/
def Stream.idle : Stream := ⟨Vector.replicate 4 0, false, 0, false, false, 0, 0, 0⟩

/-- Reset values of R9, R72, R87, R156, R234, R341 and R354 that are not zero. -/
def HReg.resetVal : HReg → W64
  | .lperm => 0x00FAC688
  | .vshare => 4
  | .srep => 1
  | .mrep => 1
  | .timecmp => 0xFFFFFFFFFFFFFFFF
  | _ => 0

/-- The control registers after reset. -/
def resetRegs : Vector W64 64 :=
  ((((Vector.replicate 64 0).setIfInBounds HReg.lperm.idx 0x00FAC688).setIfInBounds HReg.vshare.idx 4).setIfInBounds HReg.srep.idx 1
    |>.setIfInBounds HReg.mrep.idx 1).setIfInBounds HReg.timecmp.idx 0xFFFFFFFFFFFFFFFF

/-- A hart after reset (R26): parked, every register zero but those of `HReg.resetVal`. -/
def Hart.reset : Hart where
  run := .parked
  g := Vector.replicate 32 0
  v := Vector.replicate 32 0
  k := Vector.replicate 64 0
  q := Vector.replicate 8 Queue.empty
  bq := []
  loops := []
  pc := 0
  regs := resetRegs
  seq := []
  enter := []
  fno := 0
  fr := none
  redo := none
  sbuf := []
  flight := []
  str := Vector.replicate 8 Stream.idle
  undo := []
  walks := []
  traces := []
  trap := none
  aStall := none
  bStall := none
  aWhy := none
  bWhy := none
  lanes := 0
  stallAt := 0
  wait := .none
  phase := none
  nacks := []
  flintOut := 0
  flintRes := []
  tarnOut := 0
  tarnRes := []
  mq := []
  acc := []
  cbuf := []
  trk := []
  meas := 0
  task := none
  pre := none

/-- A control hart after reset (R10, R26): held, PRIV 3. -/
def Hart.control : Hart := { Hart.reset with run := .held, regs := resetRegs.setIfInBounds HReg.status.idx 0x60 }

/-- HARTID [16]: a control hart (R12). -/
def isControl (id : Nat) : Bool := id / 65536 % 2 == 1

/-- The hart of an id as it is after reset. -/
def hartDefault (id : Nat) : Hart := if isControl id then Hart.control else Hart.reset

/-- A core after reset (R184, R185, R194). -/
def Core.reset : Core :=
  ⟨[], [], Vector.replicate 8 0, 0x400, 0, [], [], [], [], 0, [], [], [], [], Vector.replicate 4 0, Vector.replicate 4 0, [], 0⟩

/-- A cluster after reset: no wave has powered up (R382), the clock is 1,800 MHz (R1). -/
def Cluster.reset : Cluster := ⟨[], [], [], [], [], none, 0, 0, [], 1800, 0, [], false, 0, 0⟩

/-- A die after reset. -/
def Die.reset : Die := ⟨[], [], [], [], [], [], [], [], [], [], none, [], 0, 0, 0⟩

/-- The device after reset; flash and fuses as log entry 8 says. -/
def Device.reset : Device := ⟨[], [], [], [], [], [], [], [], [], 0, false, [], 0, 0, 0, none, [], 0⟩

/-- HARTID of control hart 0 of die 0, which boots (R26). -/
def bootHart : Nat := 65536

/-- The machine right after reset (R26): control hart 0 of die 0 starts in machine mode at the boot ROM entry (log entry 4), every other control hart is held, every ordinary hart is parked. -/
def State.reset : State where
  hid := bootHart
  hart := { Hart.control with run := .running }
  others := []
  cores := []
  clus := []
  dies := []
  mem := []
  full := []
  bad := []
  tags := []
  regs := []
  parts := []
  dev := Device.reset
  clk := 0
  tick := 0
  fv := 0
  agenda := []

end Sys2Proof.Machine
end

