-- ==== Sys2Proof/Machine/Base.lean ====
section
/-! DEFINITION. Named reads and writes of the state: registers, identities, units, and memory bytes. Every other file of the machine goes through these. -/
namespace Sys2Proof.Machine

/-- Element `i` of width `w` of a packed value (R44). -/
def elem (w : Nat) (x : Nat) (i : Nat) : Nat := (x >>> (w * i)) % 2 ^ w

/-- Packs elements of width `w` from the low end (R44). -/
def packElems (w : Nat) : List Nat → Nat
  | [] => 0
  | x :: xs => x % 2 ^ w + (packElems w xs) * 2 ^ w

/-- The elements of a packed value, `n` of them (R44). -/
def elemsOf (w n x : Nat) : List Nat := (List.range n).map (elem w x)

/-- The number that little-endian bytes stand for (R4). -/
def leNat : List Byte → Nat
  | [] => 0
  | b :: bs => b.toNat + 256 * leNat bs

/-- The `n` little-endian bytes of a number (R4). -/
def leBytes : Nat → Nat → List Byte
  | 0, _ => []
  | n + 1, x => BitVec.ofNat 8 x :: leBytes n (x / 256)

/-- A signed reading of the low `w` bits. -/
def toSigned (w x : Nat) : Int :=
  if x % 2 ^ w < 2 ^ (w - 1) then (x % 2 ^ w : Nat) else (x % 2 ^ w : Nat) - (2 ^ w : Nat)

/-- The low `w` bits of an integer (R45: reduction modulo 2^w). -/
def ofSigned (w : Nat) (x : Int) : Nat := (x % (2 ^ w : Nat)).toNat

/-- Bits [hi:lo] of a word as a number (R4). -/
def bitsN (x : W64) (hi lo : Nat) : Nat := (x.toNat >>> lo) % 2 ^ (hi + 1 - lo)

/-- What a meaning answers. -/
abbrev Out := Host.Outcome State Fault Refusal

/-- A register that reads zero is read here and nowhere else: g0 (R7). -/
def Hart.rg (h : Hart) (r : GReg) : W64 := if r = 0 then 0 else h.g[r.toNat]
/-- A write to g0 is discarded (R7). -/
def Hart.setG (h : Hart) (r : GReg) (x : W64) : Hart := if r = 0 then h else { h with g := h.g.set r.toNat x }
/-- A v register. -/
def Hart.rv (h : Hart) (r : VReg) : V512 := h.v[r.toNat]
/-- Writes a v register. -/
def Hart.setV (h : Hart) (r : VReg) (x : V512) : Hart := { h with v := h.v.set r.toNat x }
/-- A constant-bank entry. -/
def Hart.rk (h : Hart) (i : BitVec 6) : W32 := h.k[i.toNat]
/-- A control register of the hart. -/
def Hart.reg (h : Hart) (r : HReg) : W64 := h.regs[r.idx]?.getD 0
/-- Writes a control register of the hart. -/
def Hart.setReg (h : Hart) (r : HReg) (x : W64) : Hart := { h with regs := h.regs.setIfInBounds r.idx x }
/-- A data queue. -/
def Hart.rq (h : Hart) (q : BitVec 3) : Queue := h.q[q.toNat]
/-- Writes a data queue. -/
def Hart.setQ (h : Hart) (q : BitVec 3) (x : Queue) : Hart := { h with q := h.q.set q.toNat x }
/-- A stream unit. -/
def Hart.stream (h : Hart) (q : BitVec 3) : Stream := h.str[q.toNat]
/-- Writes a stream unit. -/
def Hart.setStream (h : Hart) (q : BitVec 3) (x : Stream) : Hart := { h with str := h.str.set q.toNat x }

/-- Filled slots counted from the head (R12, R18). -/
def Queue.filled (x : Queue) : Nat := (x.ents.takeWhile fun e => match e with | .full _ => true | _ => false).length

/-- Bits of a word, as a word. -/
def bits (x : W64) (hi lo : Nat) : W64 := BitVec.ofNat 64 (bitsN x hi lo)
/-- Replaces bits [hi:lo] of a word. -/
def putBits (x : W64) (hi lo v : Nat) : W64 :=
  BitVec.ofNat 64 (x.toNat - bitsN x hi lo * 2 ^ lo + v % 2 ^ (hi + 1 - lo) * 2 ^ lo)
/-- A number as a 64-bit word. -/
def w64 (n : Nat) : W64 := BitVec.ofNat 64 n
/-- A truth value as a word. -/
def w64b (b : Bool) : W64 := if b then 1 else 0

/-- STATUS.PRIV: 0 user, 1 supervisor, 3 machine (R10). -/
def Hart.priv (h : Hart) : Nat := bitsN (h.reg .status) 6 5
/-- STATUS.TD (R10). -/
def Hart.td (h : Hart) : Nat := bitsN (h.reg .status) 10 9
/-- STATUS.IE (R10). -/
def Hart.ie (h : Hart) : Bool := (h.reg .status).getLsbD 3
/-- Does the hart's task have no vector backing (R155)? -/
def Hart.nov (h : Hart) : Bool := match h.task with | some t => t.image[6].getLsbD 13 | none => false
/-- ACC of the task's partition word (R155); a control hart has no accumulator. -/
def Hart.accUnits (h : Hart) : Nat := match h.task with | some t => bitsN t.image[6] 12 10 | none => 0
/-- Is the task in a buffered region and not in exclusive mode (R162)? -/
def Hart.isBuffered (h : Hart) : Bool := match h.task with | some t => t.eff.buffered && !t.exclusive | none => false
/-- Does a store of a frame up to `n` wait for its walk, whose restart may still fault (R203)? -/
def Hart.walkUpTo (h : Hart) (n : Nat) : Bool := h.walks.any fun w => w.back.isSome && decide (w.fno ≤ n)
/-- Is something of an older frame still to retire (R21, R23): a B word, or a store whose walk may fault? -/
def Hart.older (h : Hart) : Bool := !(h.seq.isEmpty && h.enter.isEmpty) || h.walks.any (·.back.isSome)

/-- Position of a hart (R12). -/
def dieOf (id : Nat) : Nat := id / 16384 % 4
/-- Core index 4096 * die + 8 * cluster + core. -/
def coreOf (id : Nat) : Nat := id / 4 % 16384
/-- The core whose registers and command FIFO a hart uses: its own, or its control complex (R28). -/
def coreIx (id : Nat) : Nat := if isControl id then 16384 + dieOf id else coreOf id
/-- Cluster index 512 * die + cluster. -/
def clusOf (id : Nat) : Nat := id / 32 % 2048
/-- The HARTID of hart `n` of a core. -/
def hartOf (core n : Nat) : Nat := core * 4 + n
/-- The HARTID of control hart `n` of a die. -/
def ctlHart (die n : Nat) : Nat := 65536 + die * 16384 + n

/-- The state of a hart. -/
def State.getHart (s : State) (id : Nat) : Hart := if id = s.hid then s.hart else kget (hartDefault id) s.others id
/-- Writes the state of a hart. -/
def State.setHart (s : State) (id : Nat) (h : Hart) : State :=
  if id = s.hid then { s with hart := h } else { s with others := kset (hartDefault id) s.others id h }
/-- Gives the turn to another hart. -/
def State.focus (s : State) (id : Nat) : State :=
  if id = s.hid then s
  else { s with hid := id, hart := s.getHart id, others := kdel (kset (hartDefault s.hid) s.others s.hid s.hart) id }
/-- Changes the current hart. -/
def State.mapHart (s : State) (f : Hart → Hart) : State := { s with hart := f s.hart }
/-- A g register of the current hart. -/
def State.g (s : State) (r : GReg) : W64 := s.hart.rg r
/-- A control register of the current hart. -/
def State.csr (s : State) (r : HReg) : W64 := s.hart.reg r
/-- Is the current hart a control hart (R28)? -/
def State.ctl (s : State) : Bool := isControl s.hid

/-- A core. -/
def State.core (s : State) (c : Nat) : Core := kget Core.reset s.cores c
/-- Writes a core. -/
def State.setCore (s : State) (c : Nat) (x : Core) : State := { s with cores := kset Core.reset s.cores c x }
/-- The arithmetic clock of a cluster in MHz (R1): as balanced, less what the power limit takes. -/
def Cluster.clock (c : Cluster) : Nat := c.mhz - c.cut
/-- A cluster. -/
def State.cluster (s : State) (c : Nat) : Cluster := kget Cluster.reset s.clus c
/-- Writes a cluster. -/
def State.setCluster (s : State) (c : Nat) (x : Cluster) : State := { s with clus := kset Cluster.reset s.clus c x }
/-- A die. -/
def State.die (s : State) (d : Nat) : Die := kget Die.reset s.dies d
/-- Writes a die. -/
def State.setDie (s : State) (d : Nat) (x : Die) : State := { s with dies := kset Die.reset s.dies d x }
/-- Registers of a partition. -/
def State.prt (s : State) (p : Nat) : Part := kget ⟨0, 0⟩ s.parts p
/-- Writes the registers of a partition. -/
def State.setPrt (s : State) (p : Nat) (x : Part) : State := { s with parts := kset ⟨0, 0⟩ s.parts p x }

/-- Base of the register space of a die (R197). -/
def regBase (d : Nat) : Nat := 0x4000000000000 + d * 0x40000000
/-- Key of a byte of the host page of a die: host pages lie outside the physical map (R364). -/
def hostPage (d : Nat) : Nat := 2 ^ 52 + d * 0x10000
/-- Reset value of a register (key PA / 8): R209, R357, R367, R374, R381; every other one is 0. -/
def regReset (key : Nat) : W64 :=
  let pa := key * 8
  if 0x4000000000000 ≤ pa ∧ pa < 0x4000100000000 then
    let o := (pa - 0x4000000000000) % 0x40000000
    if 0x6000000 ≤ o ∧ o < 0x6000100 then 0x3E
    else if 0x6000100 ≤ o ∧ o < 0x6000160 then 0x40
    else if 0x1000000 ≤ o ∧ o < 0x10C0000 ∧ o % 0x10000 = 0 then 16
    else if o = 0x7000000 then 16
    else if o = 0x7004000 then 750
    else 0
  else 0
/-- A 64-bit register of the register space or of a host page. -/
def State.getReg (s : State) (pa : Nat) : W64 := kget (regReset (pa / 8)) s.regs (pa / 8)
/-- Writes a 64-bit register. -/
def State.setReg (s : State) (pa : Nat) (x : W64) : State := { s with regs := kset (regReset (pa / 8)) s.regs (pa / 8) x }

/-- GPART of the group of a cluster: its partition, 0x3E if unassigned (R367). -/
def State.gpart (s : State) (cl : Nat) : Nat := bitsN (s.getReg (regBase (cl / 512) + 0x6000000 + 8 * (cl % 512 / 16))) 5 0
/-- Partition of a hart: PARTID (R28, R201). -/
def State.partOf (s : State) (id : Nat) : Nat :=
  if isControl id then bitsN ((s.getHart id).reg .partid) 5 0 else s.gpart (clusOf id)
/-- Partition of the current hart. -/
def State.part (s : State) : Nat := s.partOf s.hid

/-- Key of byte `o` of the pool of core `c` (`Loc.mem`). -/
def poolKey (c o : Nat) : Nat := 2 ^ 52 + c * 262144 + o
/-- What a byte reads as that nothing has written (log entry 6). -/
def memDefault : Byte := 0
/-- One byte of memory. -/
def State.rdB (s : State) (k : Nat) : Byte := kget memDefault s.mem k
/-- Writes one byte of memory. -/
def State.wrB (s : State) (k : Nat) (b : Byte) : State := { s with mem := kset memDefault s.mem k b }
/-- `n` bytes of memory. -/
def State.rdBytes (s : State) (k : Nat) : Nat → List Byte
  | 0 => []
  | n + 1 => s.rdB k :: s.rdBytes (k + 1) n
/-- Writes bytes to memory. -/
def State.wrBytes (s : State) (k : Nat) : List Byte → State
  | [] => s
  | b :: bs => (s.wrB k b).wrBytes (k + 1) bs
/-- A little-endian word of `n` bytes (R4). -/
def State.rdN (s : State) (k n : Nat) : Nat := leNat (s.rdBytes k n)
/-- Writes a little-endian word of `n` bytes (R4). -/
def State.wrN (s : State) (k n x : Nat) : State := s.wrBytes k (leBytes n x)
/-- Does the memory have its canonical form? -/
def Memory.wf (m : List Host.Cell) : Bool := kwf memDefault m

/-- The full-empty bit of a granule (R193). -/
def State.isFull (s : State) (k : Nat) : Bool := kget false s.full (k / 16)
/-- Sets or clears the bits of the granules from key `k` on over `n` bytes (R193). -/
def State.setFull (s : State) (k n : Nat) (b : Bool) : State :=
  { s with full := (List.range ((k + n + 15) / 16 - k / 16)).foldl (fun m i => kset false m (k / 16 + i) b) s.full }

/-- The current clk plus a number of clk. -/
def State.after (s : State) (n : Nat) : W64 := s.clk + w64 n
/-- Takes the next number of the free-value counter. -/
def State.nextFv (s : State) : Nat × State := (s.fv, { s with fv := s.fv + 1 })
/-- Takes the next stamp. -/
def State.stamp (s : State) : Nat × State := (s.dev.stamp, { s with dev := { s.dev with stamp := s.dev.stamp + 1 } })

/-- Adds steps to the end of the agenda. -/
def State.later (s : State) (l : List Instr) : State := { s with agenda := s.agenda ++ l }
/-- Puts steps at the head of the agenda. -/
def State.soon (s : State) (l : List Instr) : State := { s with agenda := l ++ s.agenda }

/-- Base of the observability registers of a die (R374). -/
def obsBase (d : Nat) : Nat := regBase d + 0x7000000
/-- Debug registers of a core (R377). -/
def dbgBase (core : Nat) : Nat := regBase (core / 4096) + 0xC000000 + 64 * (core % 4096)
/-- A snapshot trigger of a source that SRCEN may enable (R376): 1 AEV, 2 an uncorrectable error, 3 a debug halt. -/
def State.trigger (s : State) (d src : Nat) : State :=
  if (s.getReg (obsBase d + 0x2000)).getLsbD src then s.later [.snaptrig (BitVec.ofNat 2 d) (BitVec.ofNat 2 src)] else s

/-- The session whose end-of-sequence predicate a control hart runs (R317). -/
def State.predOf (s : State) (id : Nat) : Option Nat :=
  s.dies.findSome? fun (d, x) => x.sessions.findSome? fun (i, y) => match y with
    | some z => match z.pred with | some p => if p.hart = id then some (1024 * d + i) else none | none => none
    | none => none

end Sys2Proof.Machine
end

