-- ==== Sys2Proof/Machine/Translate.lean ====
section
/-! DEFINITION. Addresses: core space and its checks (R190 to R195), the physical map (R197), ownership (R200), page tables and walks (R201 to R206), routes to other devices (R357, R358). -/
namespace Sys2Proof.Machine

/-- Who makes an access: the HARTID it is made for, the privilege mode it carries (R205), its partition, and whether an engine makes it for a command (R194). -/
structure Req where
  id : Nat
  mode : Nat
  part : Nat
  engine : Bool
  deriving DecidableEq, Repr

/-- HARTID of no hart of this device: a request that the device's own bookkeeping makes; it counts as a control hart's (R205, R387). -/
def outsider : Nat := 2 ^ 20 + 65536
/-- HARTID of no hart of this device: a request of another device, which the network interface of cluster 0 takes (R204, R359; log entry 15). -/
def fabricHart : Nat := outsider + 1
/-- The current hart as a requester. -/
def State.me (s : State) : Req := ⟨s.hid, s.hart.priv, s.part, false⟩

/-- What resolving an address answers: a place with the leaf entry that named it (0 in core space), a trap, or a wait (R378). -/
inductive Res where
  | ok (l : Loc) (pte : W64)
  | trap (e : Exn)
  | wait
  deriving DecidableEq, Repr

/-- Is a physical address device memory, register space or host memory (R197)? -/
def isDevMem (pa : Nat) : Bool := pa < 0xC000000000
/-- See `isDevMem`. -/
def isRegSpace (pa : Nat) : Bool := 0x4000000000000 ≤ pa && pa < 0x4000100000000
/-- See `isDevMem`. -/
def isHostMem (pa : Nat) : Bool := 0x8000000000000 ≤ pa && pa < 0x10000000000000
/-- Is the address populated (R197)? -/
def populated (pa : Nat) : Bool := isDevMem pa || isRegSpace pa || isHostMem pa

/-- Ownership tag of the frame of a device-memory address (R200); reset value by log entry 5. -/
def State.tag (s : State) (pa : Nat) : Nat := (kget (0 : BitVec 6) s.tags (pa / 65536)).toNat
/-- May the partition use this address (R200)? Tags guard device memory only. -/
def State.owns (s : State) (part pa : Nat) : Bool := !isDevMem pa || s.tag pa == part

/-- Index of an address at a level (R201). -/
def vaIndex (va : W64) : Nat → Nat
  | 0 => bitsN va 55 48
  | 1 => bitsN va 47 39
  | 2 => bitsN va 38 30
  | 3 => bitsN va 29 21
  | _ => bitsN va 20 16

/-- log2 of the page size at a level (R201). -/
def pageLog : Nat → Nat
  | 2 => 30
  | 3 => 21
  | _ => 16

/-- KIND of an entry (R202). -/
def pteKind (e : W64) : Nat := bitsN e 63 62
/-- Frame of a local leaf (R202). -/
def pteFrame (e : W64) : Nat := bitsN e 51 16 * 65536

/-- Route entry of a device (R357); fabric registers lie on die 0. -/
def State.route (s : State) (dev : Nat) : W64 := s.getReg (regBase 0 + 0x5000000 + 0x8000 + 8 * dev)
/-- Does a remote leaf name a device that requests can leave for (R358)? -/
def State.reachable (s : State) (dev : Nat) : Bool :=
  dev != bitsN (s.getReg (regBase 0 + 0x5000000)) 9 0 && (s.route dev).getLsbD 63 &&
    (bitsN (s.route dev) 17 0 &&& bitsN (s.getReg (regBase 0 + 0x5000008)) 17 0) != 0

/-- Does an entry break the layout of R202 at a level, or name what R197 and R358 do not allow? -/
def State.malformed (s : State) (e : W64) (lvl : Nat) : Bool :=
  bitsN e 61 52 != 0 ||
  match pteKind e with
  | 1 => lvl == 4 || bitsN e 7 0 != 0 || (decide (lvl < 3) && bitsN e 11 8 != 0)
  | 2 => decide (lvl < 2) || bitsN e 14 13 != 0 || bitsN e 7 6 != 0 || pteFrame e % 2 ^ pageLog lvl != 0 || !populated (pteFrame e)
  | _ => decide (lvl < 2) || bitsN e 14 13 != 0 || bitsN e 7 6 != 0 || bitsN e 51 26 != 0 || !s.reachable (bitsN e 25 16)

/-- R, W, X and U of a leaf against an access and a mode (R203). -/
def permits (e : W64) (k : AccKind) (mode : Nat) : Bool :=
  (match k with | .read => e.getLsbD 0 | .fetch => e.getLsbD 2 | _ => e.getLsbD 1) &&
  (mode != 0 || e.getLsbD 3) && !(mode == 1 && k == .fetch && e.getLsbD 3)

/-- Is the access a write or atomic (R203, R206)? -/
def accWrites : AccKind → Bool
  | .write => true | .atomic => true | _ => false

/-- A finished walk (R203): a fault with its reason and level, an entry that holds an uncorrectable word (R200), or a leaf with its level and where it stands. -/
inductive Walk where
  | fault (reason lvl : Nat)
  | bad (at_ : Nat)
  | leaf (e : W64) (lvl at_ : Nat)
  deriving DecidableEq, Repr

/-- Location code of a data error (R343). -/
def State.errCode (_s : State) (id key : Nat) : Nat :=
  if key < 2 ^ 51 then 0
  else if key < 2 ^ 52 then 3
  else if !isControl id && (key - 2 ^ 52) / 262144 == coreOf id then 1 else 2

/-- Bytes in an ECC word: 32 in device memory, 8 in a pool (R343). -/
def eccSize (key : Nat) : Nat := if key < 2 ^ 52 then 32 else 8
/-- First byte of the ECC word of a key (R343). -/
def eccWord (key : Nat) : Nat := key / eccSize key * eccSize key

/-- Is a byte in a pool unit that is marked retired and still held? Accesses to it keep returning data errors until the holding task ends (R343). -/
def State.unitLost (s : State) (key : Nat) : Bool :=
  let x := s.core ((key - 2 ^ 52) / 262144)
  let u := (key - 2 ^ 52) % 262144 / 4096
  decide (2 ^ 52 ≤ key) && x.retired.contains u && kget UnitUse.free x.units u != .free

/-- Does a read of n bytes find a data error: an uncorrectable word, or a retired pool unit that is still held (R343)? `State.bad` lists ECC words by their first byte / 8. -/
def State.badIn (s : State) (key n : Nat) : Bool :=
  (!s.bad.isEmpty && (List.range n).any fun i => kget false s.bad (eccWord (key + i) / 8)) ||
    (s.cores.any (fun p => !p.2.retired.isEmpty) && (List.range n).any fun i => s.unitLost (key + i))

/-- The leaf's own checks (R203): a device that requests can leave for (R358); permission, no write by an end-of-sequence predicate (R317), register space for machine mode of control harts only (R197), ownership of the frame named (R200). -/
def State.leafCheck (s : State) (rq : Req) (k : AccKind) (e : W64) (lvl at_ : Nat) (va : W64) : Walk :=
  if pteKind e = 3 then (if s.reachable (bitsN e 25 16) then .leaf e lvl at_ else .fault 3 lvl)
  else if !permits e k rq.mode then .fault 2 lvl
  else if accWrites k && rq.mode == 0 && isControl rq.id && (s.predOf rq.id).isSome then .fault 2 lvl
  else if isRegSpace (pteFrame e + va.toNat % 2 ^ pageLog lvl) && !(isControl rq.id && rq.mode == 3 && !rq.engine) then .fault 2 lvl
  else if !s.owns rq.part (pteFrame e + va.toNat % 2 ^ pageLog lvl) then .fault 5 lvl
  else .leaf e lvl at_

/-- The walk of R203 from a table at a level, `fuel` levels at most. DESIGN CHOICE: a PTROOT or table pointer into register space reads no register: the walk finds the entry 0 there, and so KIND 0 (log entry 29). -/
def State.walkFrom (s : State) (rq : Req) (va : W64) (k : AccKind) (t lvl : Nat) : Nat → Walk
  | 0 => .fault 3 lvl
  | fuel + 1 =>
    let a := t + 8 * vaIndex va lvl
    if !populated a then .fault 3 lvl
    else if !s.owns rq.part a then .fault 5 lvl
    else if s.badIn a 8 then .bad a
    else
      let e := w64 (s.rdN a 8)
      if pteKind e = 0 then .fault 1 lvl
      else if s.malformed e lvl then .fault 3 lvl
      else if pteKind e = 1 then s.walkFrom rq va k (bitsN e 51 8 * 256) (lvl + 1) fuel
      else s.leafCheck rq k e lvl a va

/-- The walk of R203. -/
def State.walk (s : State) (rq : Req) (va : W64) (k : AccKind) : Walk :=
  if bitsN va 62 56 ≠ 0 then .fault 4 0
  else s.walkFrom rq va k (bitsN (s.prt rq.part).ptroot 51 12 * 4096) 0 5

/-- May a partition's walk read the entry at an address (R200, R203)? -/
def State.tableOk (s : State) (part a : Nat) : Bool := populated a && s.owns part a
/-- Entries that a walk from a table asks for, the last of them perhaps one that it may not read (R203). -/
def State.walkReads (s : State) (part : Nat) (va : W64) (t lvl : Nat) : Nat → List Nat
  | 0 => []
  | fuel + 1 =>
    let a := t + 8 * vaIndex va lvl
    let e := w64 (s.rdN a 8)
    a :: (if s.tableOk part a && !s.badIn a 8 && pteKind e == 1 && !s.malformed e lvl then s.walkReads part va (bitsN e 51 8 * 256) (lvl + 1) fuel else [])
/-- Entries that the walk of an address in a partition asks for (R203). -/
def State.walkPath (s : State) (part : Nat) (va : W64) : List Nat := s.walkReads part va (bitsN (s.prt part).ptroot 51 12 * 4096) 0 5

/-- The local leaf of an address, whatever it permits: where it stands, its level. -/
def State.leafAt (s : State) (part : Nat) (va : W64) : Option (Nat × Nat) :=
  let l := s.walkPath part va
  match l.getLast? with
  | some a => let e := w64 (s.rdN a 8); if s.tableOk part a && !s.badIn a 8 && pteKind e == 2 && !s.malformed e (l.length - 1) then some (a, l.length - 1) else none
  | none => none

/-- Does a cached translation serve an address (R204)? -/
def TlbEnt.hits (e : TlbEnt) (part : Nat) (va : W64) : Bool := e.part == part && va.toNat / 2 ^ pageLog e.lvl == e.page

/-- The translations that a requester's accesses may use (R204): those of its core's TLB; for another device, those of the network interface. -/
def State.cacheOf (s : State) (rq : Req) : List TlbEnt :=
  if rq.id = fabricHart then (s.cluster 0).ni else if isControl rq.id then [] else (s.core (coreOf rq.id)).tlb

/-- The cached translation that serves an access (R203, R204): not one that denies it, nor one whose D is clear at a write, which are walked again. -/
def State.cached (s : State) (rq : Req) (va : W64) (k : AccKind) : Option TlbEnt :=
  match (s.cacheOf rq).find? (·.hits rq.part va) with
  | some t => if s.leafCheck rq k t.pte t.lvl 0 va = .leaf t.pte t.lvl 0 && !(accWrites k && !t.pte.getLsbD 5) then some t else none
  | none => none

/-- A translation through a cache, else by a walk (R203, R204). -/
def State.translate (s : State) (rq : Req) (va : W64) (k : AccKind) : Walk :=
  if bitsN va 62 56 ≠ 0 then .fault 4 0
  else match s.cached rq va k with
    | some t => .leaf t.pte t.lvl 0
    | none => s.walk rq va k

/-- TRAPVAL of a page fault or fetch fault (R206). -/
def faultVal (remote : Bool) (k : AccKind) (lvl reason : Nat) : W64 :=
  w64 (1024 * remote.toNat + 512 * (k == .fetch).toNat + 256 * (accWrites k).toNat + 16 * lvl + reason)

/-- Does a window admit n bytes at an offset, for a request kind and source class (R194, R195)? -/
def winAdmits (w : W64) (k : ReqKind) (cls o n : Nat) : Bool :=
  let len := bitsN w 14 8
  let start := bitsN w 5 0
  w.getLsbD 63 && len != 0 && decide (start + len ≤ 64) && decide (start * 4096 ≤ o) && decide (o + n ≤ (start + len) * 4096) &&
  (match k with | .read => w.getLsbD 59 | .write => w.getLsbD 58 | .atomic => w.getLsbD 57 | .fe => w.getLsbD 56) &&
  bitsN w 55 54 != 3 && decide (cls ≤ bitsN w 55 54)

/-- Pool units that n bytes at an offset touch. -/
def unitsOf (o n : Nat) : List Nat := (List.range (if n = 0 then 1 else (o + n - 1) / 4096 - o / 4096 + 1)).map (o / 4096 + ·)

/-- HOMEID and PIN of a saved context's image header (R345), read in the context pool. -/
def State.ctxPin (s : State) (die slot : Nat) : Option Nat :=
  let w3 := w64 (s.rdN (bitsN (s.getReg (regBase die + 0x3000008)) 51 12 * 4096 + slot * 0x4B000 + 24) 8)
  if w3.getLsbD 63 then some (bitsN w3 47 32) else none

/-- Does a resident handed range hold a unit of a core (R159)? -/
def handHolds (r : Option HandRange) (c u : Nat) : Bool := match r with | some x => !x.spilled && x.core == c && x.units.contains u | none => false

/-- Is a unit one of a task whose pre-emption has made its cut and whose context has not resumed: of its share, its backing, or a resident range handed to it (R346 step 3)? Of a saved context it is one that must be free for it again (R347). -/
def State.unitCut (s : State) (c u : Nat) : Bool :=
  let x := kget UnitUse.free (s.core c).units u
  ((List.range 4).any fun n =>
    let h := s.getHart (hartOf c n)
    (match h.pre with | some p => p.st == .cut | none => false) &&
      (x == .scratch n || x == .backing n || handHolds (h.task.bind Task.hand) c u)) ||
  (let saved (e : Entry) : Bool := match e.ctx with
    | some k => x == .free && (e.held.contains u || handHolds e.hand c u) && (match s.ctxPin (c / 4096) k with | some home => home / 4 == c | none => false)
    | none => false
  (s.clus.any fun p => p.1 / 512 == c / 4096 && p.2.basin.any fun q => match q.2 with | some e => saved e | none => false) ||
    (s.die (c / 4096)).waiting.any saved)

/-- Does the pool of a core accept a remote request (R195, R346)? -/
def State.admits (s : State) (c : Nat) (k : ReqKind) (cls o n : Nat) : Bool :=
  (s.core c).win.toList.any (winAdmits · k cls o n) && !(unitsOf o n).any (s.unitCut c)

/-- Is a core halted by debug (R377, R378)? HALTREQ is bit 63 of its debug register. -/
def State.coreHalted (s : State) (c : Nat) : Bool :=
  (s.getReg (dbgBase c)).getLsbD 63

/-- Source class of a requester at a core (R28, R194). -/
def srcClass (id core : Nat) : Nat :=
  if dieOf id ≠ core / 4096 then 2
  else if isControl id then 1
  else if clusOf id = core / 8 then 0 else 1

/-- Does every pool unit of n bytes at an offset meet a test? -/
def State.unitsAll (s : State) (core o n : Nat) (p : UnitUse → Bool) : Bool :=
  (unitsOf o n).all fun u => p (kget UnitUse.free (s.core core).units u)

/-- Local accesses that R192 allows: user mode inside the scratchpad run, but for ranges handed on (R159), or the resident handed range; supervisor mode outside vector backing and accumulators; machine mode everywhere. -/
def State.localOk (s : State) (rq : Req) (o n : Nat) : Bool :=
  let h := s.getHart rq.id
  let inRun (base len : W64) : Bool :=
    decide ((base.toNat % 262144) ≤ o) && decide (o + n ≤ base.toNat % 262144 + len.toNat % 2 ^ 32)
  rq.engine || rq.mode == 3 ||
  (if rq.mode == 0 then
    (h.reg .spbase != 0 && inRun (h.reg .spbase) (h.reg .splen) && s.unitsAll (coreOf rq.id) o n (· == .scratch (rq.id % 4))) ||
      (!(h.reg .handlen).getLsbD 32 && h.reg .handlen != 0 && inRun (h.reg .handin) (h.reg .handlen))
   else s.unitsAll (coreOf rq.id) o n fun u => match u with | .backing _ => false | _ => true)

/-- Does a core-space address break R190? -/
def coreMalformed (a : W64) : Bool := bitsN a 62 33 != 0 || (a.getLsbD 32 && bitsN a 31 18 != 0)
/-- The core that a core-space address names for a requester (R190). -/
def coreNamed (id : Nat) (a : W64) : Nat := if a.getLsbD 32 then coreOf id else bitsN a 31 18
/-- Is a core-space address local to an ordinary hart (R190)? -/
def isLocal (id : Nat) (a : W64) : Bool := !isControl id && coreNamed id a == coreOf id

/-- An access to core space (R28, R190 to R195). -/
def State.resolveCore (s : State) (rq : Req) (a : W64) (n : Nat) (k : ReqKind) : Res :=
  let o := bitsN a 17 0
  let c := coreNamed rq.id a
  if coreMalformed a || (isControl rq.id && a.getLsbD 32) || decide (262144 < o + n) then .trap ⟨5, 0, a⟩
  else if isLocal rq.id a then
    if s.localOk rq o n then .ok (.mem (poolKey c o)) 0 else .trap ⟨5, 0, a⟩
  else if s.gpart (c / 8) ≠ rq.part then .trap ⟨5, 0, a⟩
  else if s.coreHalted c then .wait
  else if s.admits c k (srcClass rq.id c) o n then .ok (.mem (poolKey c o)) 0
  else .trap ⟨7, 0, a⟩

/-- An access to virtual space (R203, R205, R206). -/
def State.resolveVirt (s : State) (rq : Req) (a : W64) (k : AccKind) : Res :=
  match s.translate rq a k with
  | .fault r l => .trap ⟨6, faultVal false k l r, a⟩
  | .bad at_ => .trap ⟨8, w64 (s.errCode rq.id at_), a⟩
  | .leaf e l _ =>
    if pteKind e = 3 then .ok (.remote (bitsN e 25 16) a) e
    else
      let pa := pteFrame e + a.toNat % 2 ^ pageLog l
      .ok (if isRegSpace pa then .reg pa else .mem pa) e

/-- The request kind of an access (R194). -/
def accReq : AccKind → ReqKind
  | .write => .write | .atomic => .atomic | _ => .read

/-- Resolves an address for an access of n bytes (R190 to R205). -/
def State.resolve (s : State) (rq : Req) (a : W64) (n : Nat) (k : AccKind) : Res :=
  if a.getLsbD 63 then s.resolveCore rq a n (accReq k) else s.resolveVirt rq a k

/-- Retires the frame or pool unit of a location where an uncorrectable word was found (R200, R343), which may trigger a snapshot (R376). -/
def State.retireAt (s : State) (key : Nat) : State :=
  if isDevMem key then { s with tags := kset 0 s.tags (key / 65536) 0x3F }.trigger (key / 0x3000000000) 2
  else if 2 ^ 52 ≤ key then
    let c := (key - 2 ^ 52) / 262144
    let u := (key - 2 ^ 52) % 262144 / 4096
    let x := s.core c
    (s.setCore c { x with retired := if x.retired.contains u then x.retired else u :: x.retired }).trigger (c / 4096) 2
  else s

/-- Retires the frames or units of the uncorrectable words among n bytes (R343). -/
def State.retireBad (s : State) (k n : Nat) : State :=
  (List.range n).foldl (fun t i => if kget false s.bad (eccWord (k + i) / 8) && (i == 0 || eccWord (k + i) == k + i) then t.retireAt (k + i) else t) s

/-- A write to memory (R343): one that covers a whole ECC word clears its error; one that covers part of a bad word is dropped there and retires the frame or unit. -/
def State.writeEcc (s : State) (key : Nat) (bs : List Byte) : State :=
  if !s.badIn key bs.length then s.wrBytes key bs
  else
    let whole (k : Nat) : Bool := decide (key ≤ eccWord k) && decide (eccWord k + eccSize k ≤ key + bs.length)
    let s1 := bs.zipIdx.foldl (fun t (b, i) =>
      if kget false s.bad (eccWord (key + i) / 8) && !whole (key + i) then t.retireAt (key + i) else t.wrB (key + i) b) s
    { s1 with bad := bs.zipIdx.foldl (fun m (_, i) => if whole (key + i) then kset false m (eccWord (key + i) / 8) false else m) s1.bad }

end Sys2Proof.Machine
end

