-- ==== Sys2Proof/Machine/Access.lean ====
section
/-! DEFINITION. Performing accesses: the hotness sketch of the controllers (R207, R208), reads and writes at a location, held writes of a dump (R380), completion counters (R218) and bookkeeping writes (R387). -/
namespace Sys2Proof.Machine

/-- Mix of R139, modulo 2^32. -/
def mix (c k : Nat) : Nat :=
  let m := 2 ^ 32
  let x := (c + k * 0x9B4D61C3) % m
  let x := (x ^^^ (x >>> 16)) * 0x8F3A2C6D % m
  let x := (x ^^^ (x >>> 13)) * 0xD1B54A37 % m
  let x := (x ^^^ (x >>> 15)) * 0xE35A7B1F % m
  x ^^^ (x >>> 16)

/-- Home die of a device-memory address (R197). -/
def homeDie (pa : Nat) : Nat := pa / 0x3000000000
/-- Home controller of a device-memory address on its die (R198). -/
def State.homeCtl (s : State) (pa : Nat) : Nat :=
  let o := pa % 0x3000000000
  if (s.die (homeDie pa)).interleave = 0 then o / 4096 % 12 else o / 0x400000000

/-- Registers of a controller's sketch (R209). -/
def hotReg (d c : Nat) : Nat := regBase d + 0x1000000 + c * 0x10000

/-- Row index of a frame in the sketch (R207). -/
def hotIndex (row f : Nat) : Nat := mix (f % 2 ^ 32) (row + 1 + 16 * (f / 2 ^ 32)) % 4096

/-- Inserts a frame's estimate in the hot list (R208). -/
def hotInsert (l : List (Nat × Nat)) (f est : Nat) : List (Nat × Nat) :=
  if l.any (·.1 == f) then l.map fun e => if e.1 = f then (f, est) else e
  else if l.length < 32 then l ++ [(f, est)]
  else match l.foldl (fun m e => match m with
      | none => some e
      | some x => if e.2 < x.2 ∨ (e.2 = x.2 ∧ x.1 < e.1) then some e else some x) none with
    | some x => if x.2 < est then l.filter (· != x) ++ [(f, est)] else l
    | none => l

/-- Counts one line of a frame at its controller (R207, R208). -/
def Hot.count (h : Hot) (f : Nat) : Hot :=
  let idx := (List.range 4).map fun i => 4096 * i + hotIndex i f
  let sk := idx.foldl (fun m i => kset 0 m i (min 65535 (kget 0 m i + 1))) h.sketch
  let est := idx.foldl (fun e i => min e (kget 0 sk i)) 65535
  ⟨sk, hotInsert h.list f est, h.since⟩

/-- Counts one 64 B line at its home controller, while its sketch runs (R198, R207). -/
def State.countLine (s : State) (key : Nat) : State :=
  let d := homeDie key
  let c := s.homeCtl key
  if isDevMem key && (s.getReg (hotReg d c)).getLsbD 63 then
    let x := s.die d
    s.setDie d { x with hot := kset ⟨[], [], 0⟩ x.hot c ((kget ⟨[], [], 0⟩ x.hot c).count (key / 65536)) }
  else s

/-- A request of n bytes: each 64 B line that it covers reaches its controller and counts once (R207). No sketch runs where no register has its top bit set. -/
def State.count (s : State) (key n : Nat) : State :=
  if !isDevMem key || !(s.regs.any fun p => p.2.getLsbD 63) then s
  else (List.range ((key + n + 63) / 64 - key / 64)).foldl (fun t i => t.countLine ((key / 64 + i) * 64)) s

/-- The walk of an address in a partition (R203): each entry asked for is a request at its controller (R207), and one read that holds an uncorrectable word retires its frame (R200). -/
def State.walked (s : State) (part : Nat) (a : W64) : State :=
  if a.getLsbD 63 || bitsN a 62 56 != 0 then s
  else (s.walkPath part a).foldl (fun t e => if t.tableOk part e && t.badIn e 8 then (t.count e 8).retireAt e else t.count e 8) s

/-- SetAD of R203: A, and D for a write or atomic, set in the entry where they are clear. -/
def State.setAD (s : State) (at_ : Nat) (e : W64) (k : AccKind) : W64 × State :=
  let e1 := e ||| 0x10 ||| (if accWrites k then 0x20 else 0)
  (e1, if pteKind e = 3 ∨ e1 = e then s else (s.count at_ 8).wrN at_ 8 e1.toNat)

/-- The walk for an access of an engine or of the device's own that no cached translation serves, with A and D of the entry that translated it (R203, R204, R207). -/
def State.adFor (s : State) (rq : Req) (a : W64) (k : AccKind) : State :=
  if a.getLsbD 63 || (s.cached rq a k).isSome then s
  else match s.walk rq a k with
    | .leaf e _ at_ => ((s.walked rq.part a).setAD at_ e k).2
    | _ => s.walked rq.part a

/-- Bytes that another device returns: free values (R359). -/
def remoteBytes (fv : Nat) : Nat → List Byte
  | 0 => []
  | n + 1 => remoteBytes fv n ++ [Config.remoteByte fv n]

/-- The bytes of memory as a unit of the device takes them that no data error can stop: those of an uncorrectable word are free values, numbered f (R343; log entry 27). -/
def State.rdFree (s : State) (f k n : Nat) : List Byte :=
  if s.badIn k n then (s.rdBytes k n).zipIdx.map fun (b, i) => if s.badIn (k + i) 1 then Config.remoteByte f i else b else s.rdBytes k n
/-- A number for free values that a function of the state takes. -/
def State.freeIx (s : State) : Nat := s.fv + 2 ^ 64 * s.tick

/-- Reads n bytes at a location, without the hart's own buffers; a register location reads through Mmio.lean. -/
def State.loadAt (s : State) (l : Loc) (n : Nat) : List Byte × State :=
  match l with
  | .mem k => (s.rdBytes k n, s.count k n)
  | .reg pa => (s.rdBytes pa n, s)
  | .remote _ _ => let (f, s1) := s.nextFv; (remoteBytes f n, s1)

/-- Writes bytes at a location of memory; a write to another device leaves this one (R358). -/
def State.storeAt (s : State) (l : Loc) (bs : List Byte) (full : Bool) : State :=
  match l with
  | .mem k =>
    let s1 := (s.count k bs.length).writeEcc k bs
    if full && decide (2 ^ 52 ≤ k) then s1.setFull k bs.length true else s1
  | _ => s

/-- Does the data read at a location hold an uncorrectable word (R343)? -/
def State.locBad (s : State) (l : Loc) (n : Nat) : Bool :=
  match l with
  | .mem k => s.badIn k n
  | _ => false

/-- Do two addresses of a partition share a leaf? -/
def State.sameLeaf (s : State) (part : Nat) (a b : W64) : Bool := (s.leafAt part a).isSome && s.leafAt part a == s.leafAt part b
/-- First byte of a 64 KiB unit. -/
def unitVa (u : Nat) : W64 := w64 (u * 65536)
/-- Is a virtual address under a leaf that a dump still protects (R380)? Answers the die. -/
def State.dumpHolds (s : State) (part : Nat) (a : W64) : Option Nat :=
  lowest 4 fun d => match (s.die d).dump with
    | some p => p.part == part && p.prot.any fun u => s.sameLeaf part (unitVa u) a
    | none => false

/-- Resolves an access, a write held by a dump waiting instead of faulting (R380). -/
def State.access (s : State) (rq : Req) (a : W64) (n : Nat) (k : AccKind) : Res :=
  match s.resolve rq a n k with
  | .trap e => if e.cause = 6 ∧ accWrites k ∧ (s.dumpHolds rq.part a).isSome ∧ bitsN e.val 3 0 = 2 then .wait else .trap e
  | r => r

/-- A held write asks for its unit to be copied next (R380). -/
def State.contend (s : State) (rq : Req) (a : W64) : State :=
  match s.dumpHolds rq.part a with
  | none => s
  | some d => match (s.die d).dump with
    | none => s
    | some p => s.setDie d { s.die d with dump := some { p with want := p.want ++ [a.toNat / 65536] } }

/-- Removes cached translations of a partition that meet a test, everywhere (R350, R380). -/
def State.purge (s : State) (part : Nat) (p : TlbEnt → Bool) : State :=
  let keep (l : List TlbEnt) : List TlbEnt := l.filter fun t => !(t.part == part && p t)
  let s1 := s.cores.foldl (fun t (c, _) => t.setCore c { t.core c with tlb := keep (t.core c).tlb }) s
  s.clus.foldl (fun t (c, _) => t.setCluster c { t.cluster c with ni := keep (t.cluster c).ni }) s1

/-- Sets or clears W of the leaf of a unit (R380). -/
def State.setW (s : State) (part u : Nat) (on : Bool) : State :=
  match s.leafAt part (unitVa u) with
  | some (a, _) => s.wrN a 8 (putBits (w64 (s.rdN a 8)) 1 1 on.toNat).toNat
  | none => s

/-- Bytes that a die's own unit writes at a physical address, if memory is there. -/
def State.physWrite (s : State) (pa : Nat) (bs : List Byte) : State :=
  if populated pa && !isRegSpace pa then s.storeAt (.mem pa) bs false else s

/-- The bytes of a unit: zeros where it is not mapped; `none` for a data error (R380). -/
def State.unitBytes (s : State) (part u : Nat) : Option (List Byte) :=
  let zeros := List.replicate 65536 0
  match s.leafAt part (unitVa u) with
  | some (a, lvl) =>
    let pa := pteFrame (w64 (s.rdN a 8)) + u * 65536 % 2 ^ pageLog lvl
    if isRegSpace pa || !s.owns part pa then some zeros
    else if s.badIn pa 65536 then none else some (s.rdBytes pa 65536)
  | none => some zeros

/-- The engine of a dump copies a unit (R380), which its controllers count (R207): it goes to the image; W is set again, and the page invalidated, once no protected unit of its leaf is left. -/
def State.dumpCopy (s : State) (d : Nat) (p : Dump) (u : Nat) : State :=
  let bs := s.unitBytes p.part u
  let seen : State := match s.leafAt p.part (unitVa u) with
    | some (a, lvl) =>
      let pa := pteFrame (w64 (s.rdN a 8)) + u * 65536 % 2 ^ pageLog lvl
      if isRegSpace pa || !s.owns p.part pa then s.walked p.part (unitVa u)
      else if s.badIn pa 65536 then ((s.walked p.part (unitVa u)).count pa 65536).retireBad pa 65536
      else (s.walked p.part (unitVa u)).count pa 65536
    | none => s.walked p.part (unitVa u)
  let s1 := seen.physWrite (p.dst + 65536 * (u - p.va)) (bs.getD (List.replicate 65536 0))
  let left := p.prot.filter (· != u)
  let free := p.prot.contains u && !left.any fun x => s.sameLeaf p.part (unitVa x) (unitVa u)
  let s2 := if free then (s1.setW p.part u true).purge p.part fun t => t.hits p.part (unitVa u) else s1
  let p1 : Dump := { p with
    prot := left, done := u :: p.done, err := p.err || bs.isNone
    next := if u = p.va + p.next then p.next + 1 else p.next
    want := if free then p.want.filter fun w => !s.sameLeaf p.part (unitVa w) (unitVa u) else p.want }
  s2.setDie d { s2.die d with dump := some p1 }

/-- The units of a leaf that a held write waits for are copied, at most n of them (R380). -/
def State.unhold (s : State) (part : Nat) (a : W64) : Nat → State
  | 0 => s
  | n + 1 => match s.dumpHolds part a with
    | none => s
    | some d => match (s.die d).dump with
      | none => s
      | some p => match p.prot.find? fun u => s.sameLeaf part (unitVa u) a with
        | none => s
        | some u => (s.dumpCopy d p u).unhold part a n

/-- Protected units of every dump. -/
def State.protCount (s : State) : Nat := (s.dies.map fun p => match p.2.dump with | some q => q.prot.length | none => 0).sum

/-- A write that no instruction repeats, where a dump holds it: the units that it waits for are copied at once, and it then proceeds (R380). -/
def State.unheld (s : State) (rq : Req) (a : W64) (n : Nat) (k : AccKind) : State :=
  match s.access rq a n k with
  | .wait => s.unhold rq.part a s.protCount
  | _ => s

/-- COUNT and ERR of a completion counter after an update (R218). -/
def counterAdd (c : W64) (inc err : Nat) : W64 :=
  w64 ((bitsN c 63 56 ||| err) * 2 ^ 56 + min (2 ^ 56 - 1) (bitsN c 55 0 + inc))

/-- The supervisor requester of a partition, for the device's own accesses (R205, R387). -/
def bookReq (part : Nat) : Req := ⟨outsider, 1, part, true⟩

/-- Reads bytes as a supervisor of a partition; the trap that the read meets, if any (R27, R150, R169). What such a read leaves behind is `superSeen`. -/
def State.superRead (s : State) (part : Nat) (a : W64) (n : Nat) : Except Exn (List Byte) :=
  match s.resolve (bookReq part) a n .read with
  | .ok (.mem k) _ => if s.badIn k n then .error ⟨8, w64 (s.errCode outsider k), a⟩ else .ok (s.rdBytes k n)
  | .ok (.remote _ _) _ =>
    let f := s.freeIx
    if Config.remoteBad f then .error ⟨8, 3, a⟩
    else if Config.remoteAccepts f then .ok ((List.range n).map fun i => Config.remoteByte f (a.toNat + i))
    else .error ⟨6, faultVal true .read ((Config.remoteByte f 0).toNat % 5) (1 + (Config.remoteByte f 1).toNat % 5), a⟩
  | .ok l _ => .ok (s.loadAt l n).1
  | .trap e => .error e
  | .wait => .error ⟨7, 0, a⟩

/-- What a read by the device's own leaves (R200, R203, R207): its lines and its walk count, A is set, and what it found uncorrectable is retired. -/
def State.superSeen (s : State) (part : Nat) (a : W64) (n : Nat) : State :=
  let t := s.adFor (bookReq part) a .read
  match s.resolve (bookReq part) a n .read with
  | .ok (.mem k) _ => if s.badIn k n then (t.count k n).retireBad k n else t.count k n
  | _ => t

/-- What reads of the lines of n bytes by the device's own leave. -/
def State.spanSeen (s : State) (part : Nat) (a : W64) (n : Nat) : State :=
  (List.range ((a.toNat % 64 + n + 63) / 64)).foldl (fun t i => t.superSeen part (putBits a 5 0 0 + w64 (64 * i)) 64) s

/-- Eight words of a 64 B line. -/
def lineWords (bs : List Byte) : Vector W64 8 := Vector.ofFn fun (i : Fin 8) => w64 (leNat ((bs.drop (8 * i.val)).take 8))

/-- Reads a 64 B image as a supervisor of a partition. -/
def State.superLine (s : State) (part : Nat) (a : W64) : Except Exn (Vector W64 8) :=
  (s.superRead part a 64).map lineWords

/-- Does the core of a hart trace it (R379): an ordinary hart, and TEN is set? -/
def State.traced (s : State) (id : Nat) : Bool := !isControl id && (s.getReg (dbgBase (coreOf id) + 0x10)).getLsbD 63

/-- Appends a trace record to the ring of a hart's core (R379), for an event at a clk: kind 1 transfer, 2 trap, 3 `eret`, 4 dispatch, 5 `halt`. A record that ownership refuses is dropped and counted. -/
def State.record (s : State) (id kind : Nat) (f clk : W64) : State :=
  let b := dbgBase (coreOf id)
  let r := s.getReg (b + 0x10)
  let head := bitsN r 19 0
  let pa := bitsN (s.getReg (b + 8)) 51 12 * 4096 + head
  if populated pa && !isRegSpace pa && s.owns (s.partOf id) pa then
    let rec_ := leBytes 8 (f.toNat / 8 * 8 + kind) ++ leBytes 8 (id % 65536 * 2 ^ 48 + bitsN clk 47 0)
    (s.storeAt (.mem pa) rec_ false).setReg (b + 0x10) (putBits r 19 0 ((head + 16) % 2 ^ (12 + bitsN r 23 20)))
  else s.setReg (b + 0x18) (w64 (min (2 ^ 32 - 1) (bitsN (s.getReg (b + 0x18)) 31 0 + 1)))

/-- The record of an event that nothing can discard (R379). -/
def State.trace (s : State) (id kind : Nat) (f : W64) : State := if s.traced id then s.record id kind f s.clk else s

/-- Records a failed bookkeeping write (R387). -/
def State.bookFault (s : State) (d kind part : Nat) (a : W64) : State :=
  let b := obsBase d + 0x5000
  let s1 := if (s.getReg b).getLsbD 63 then s
    else (s.setReg b (w64 (2 ^ 63 + kind * 2 ^ 48 + part))).setReg (b + 8) a
  s1.setReg (b + 16) (w64 (min (2 ^ 64 - 1) ((s1.getReg (b + 16)).toNat + 1)))

/-- Does a write of n bytes cover only part of an uncorrectable word (R343)? -/
def State.badPart (s : State) (key n : Nat) : Bool :=
  !s.bad.isEmpty && (List.range n).any fun i =>
    kget false s.bad (eccWord (key + i) / 8) && !(decide (key ≤ eccWord (key + i)) && decide (eccWord (key + i) + eccSize (key + i) ≤ key + n))

/-- A write of bytes by the device's own as a supervisor of a partition (R159, R387): the state after it, and whether it was made. It sets A and D (R203); one that a dump holds proceeds once its unit is copied (R380). -/
def State.superWrite (s0 : State) (part : Nat) (a : W64) (bs : List Byte) : Bool × State :=
  let s := s0.unheld (bookReq part) a bs.length .write
  let t := s.adFor (bookReq part) a .write
  match s.resolve (bookReq part) a bs.length .write with
  | .ok (.mem k) _ => if s.badPart k bs.length then (false, t.retireBad k bs.length) else (true, t.storeAt (.mem k) bs false)
  | .ok (.remote _ _) _ => let (f, t1) := t.nextFv; (Config.remoteAccepts f, t1)
  | _ => (false, t)

/-- A bookkeeping write of bytes by a die's unit (R387): lost, and recorded, if it faults. -/
def State.bookWrite (s : State) (d kind part : Nat) (a : W64) (bs : List Byte) : State :=
  let r := s.superWrite part a bs
  if r.1 then r.2 else r.2.bookFault d kind part a

/-- A bookkeeping update of an 8 B word (R146, R387). -/
def State.bookUpdate (s : State) (d kind part : Nat) (a : W64) (f : W64 → W64) : State :=
  match s.superRead part a 8 with
  | .ok bs => (s.superSeen part a 8).bookWrite d kind part a (leBytes 8 (f (w64 (leNat bs))).toNat)
  | .error _ => (s.superSeen part a 8).bookFault d kind part a

end Sys2Proof.Machine
end

