-- ==== Sys2Proof/Machine/Tracker.lean ====
section
/-! DEFINITION. The data of tracked sessions (R302 to R308): descriptor fields, the slot map and state array in memory, dependencies (R306), handles (R305). -/
namespace Sys2Proof.Machine

/-- Layers of a session (R302). -/
def Session.nl (x : Session) : Nat := bitsN x.w[0] 57 50 + 1
/-- Tokens per block, BT = 2^BTLOG (R302). -/
def Session.bt (x : Session) : Nat := 2 ^ bitsN x.w[0] 49 46
/-- Physical slots (R302). -/
def Session.nslot (x : Session) : Nat := bitsN x.w[0] 45 32
/-- Logical blocks of n tokens. -/
def Session.blocksOf (x : Session) (n : Nat) : Nat := (n + x.bt - 1) / x.bt
/-- NBLK (R302). -/
def Session.nblk (x : Session) : Nat := x.blocksOf x.ntok

/-- The session of a number, if it is open (R302). -/
def State.ses? (s : State) (n : Nat) : Option Session := kget none (s.die (n / 1024 % 4)).sessions (n % 1024)
/-- Writes a session. -/
def State.setSes (s : State) (n : Nat) (x : Option Session) : State :=
  let d := s.die (n / 1024 % 4)
  s.setDie (n / 1024 % 4) { d with sessions := kset none d.sessions (n % 1024) x }
/-- Changes a session that is open. -/
def State.mapSes (s : State) (n : Nat) (f : Session → Session) : State :=
  match s.ses? n with
  | some x => s.setSes n (some (f x))
  | none => s

/-- An 8 B word read for the tracker; 0 if it cannot be read (R387). -/
def State.superWord (s : State) (part : Nat) (a : W64) (n : Nat) : Nat :=
  match s.superRead part a n with
  | .ok bs => leNat bs
  | .error _ => 0

/-- Slot of a logical block: the slot map in memory (R302). -/
def State.slotOf (s : State) (x : Session) (b : Nat) : Nat := s.superWord x.part (x.w[2] + w64 (2 * b)) 2 % 8192
/-- Address of a state-array entry (R302). -/
def Session.stAddr (x : Session) (i : Nat) : W64 := x.w[4] + w64 (8 * i)
/-- Number of a block: layer * NSLOT + slot. -/
def State.blkNum (s : State) (x : Session) (l b : Nat) : Nat := l * x.nslot + s.slotOf x b
/-- State code and version of a block number (R302, R307). -/
def State.blkGet (s : State) (x : Session) (i : Nat) : Nat × Nat :=
  let e := w64 (s.superWord x.part (x.stAddr i) 8)
  (bitsN e 63 62, bitsN e 31 0)
/-- What the tracker's reads of a block's words leave, the slot map's and the state array's (R200, R203, R207): one event reads them once (log entry 58). -/
def State.blockRead (s : State) (x : Session) (l b : Nat) : State :=
  (s.superSeen x.part (x.w[2] + w64 (2 * b)) 2).superSeen x.part (x.stAddr (s.blkNum x l b)) 8
/-- What its reads of the slot map leave. -/
def State.mapRead (s : State) (x : Session) : State := s.spanSeen x.part x.w[2] (2 * x.nblk)

/-- Writes a state-array entry (R302). -/
def State.blkSet (s : State) (n : Nat) (x : Session) (i st ver : Nat) : State :=
  s.bookWrite (n / 1024 % 4) 5 x.part (x.stAddr i) (leBytes 8 (st * 2 ^ 62 + ver % 2 ^ 32))

/-- Words 9 to 12 of the descriptor as the tracker holds them (R302). -/
def Session.words (x : Session) (open_ : Bool) : List W64 :=
  [w64 (open_.toNat * 2 ^ 63 + x.ended.toNat * 2 ^ 62 + x.fault.toNat * 2 ^ 61 + x.ntok * 2 ^ 32 + x.held.length),
    w64 (x.audmax.toNat * 2 ^ 32 + x.audcnt), w64 (x.audover * 2 ^ 32 + x.sampctr), w64 (x.ptmo * 2 ^ 32)]

/-- Writes those of words 9 to 12 whose contents have changed (R302). -/
def State.sesFlush (s : State) (n : Nat) (open_ : Bool) (x : Session) : State :=
  (x.words open_).zipIdx.foldl (fun t (v, i) =>
    if x.shown[i]? = some v then t else t.bookWrite (n / 1024 % 4) 4 x.part (x.at_ + w64 (72 + 8 * i)) (leBytes 8 v.toNat)) s

/-- Changes a session and writes its descriptor words. -/
def State.putSes (s : State) (n : Nat) (x : Session) : State :=
  (s.setSes n (some { x with shown := x.words true })).sesFlush n true x

/-- A layer-table entry as the tracker last read it: at OPEN, or when a task of the layer was inserted (R303). -/
def Session.layer (x : Session) (l : Nat) : Vector W64 4 := x.layers.getD l (Vector.replicate 4 0)
/-- A layer-table entry in memory (R303); `none` where a read of it faults. -/
def State.readLayer (s : State) (x : Session) (l : Nat) : Option (Vector W64 4) :=
  match s.superRead x.part (x.w[3] + w64 (32 * l)) 32 with
  | .ok bs => some (Vector.ofFn fun (i : Fin 4) => w64 (leNat ((bs.drop (8 * i.val)).take 8)))
  | .error _ => none

/-- Reads that wait in session order and have no edit before them look again, before anything else happens (R308, R318, R320). -/
def State.sesLook (s : State) (n : Nat) : State :=
  match s.ses? n with
  | some x => { s with dev := { s.dev with urgent := s.dev.urgent ++ (x.waits.filter (·.2 == 0)).map Prod.fst } }
  | none => s

/-- Blocks of layer l whose inputs include block j of the layer before, below NBLK (R306): PAT and WIN of layer l. -/
def dependents (pat win j nblk : Nat) : List Nat :=
  let hi := match pat with | 0 => nblk | 1 => min nblk (j + win) | _ => min nblk (j + 1)
  (List.range (hi - j)).map (j + ·)
/-- Inputs of block b by PAT and WIN (R306). -/
def inputs (pat win b : Nat) : List Nat :=
  match pat with
  | 0 => List.range (b + 1)
  | 1 => (List.range (min win (b + 1))).map (b + 1 - min win (b + 1) + ·)
  | _ => [b]
/-- PAT of a layer-table entry (R303). -/
def layPat (e : Vector W64 4) : Nat := bitsN e[2] 31 30
/-- WIN of a layer-table entry; 0 means 256 (R303). -/
def layWin (e : Vector W64 4) : Nat := if bitsN e[2] 29 22 = 0 then 256 else bitsN e[2] 29 22

end Sys2Proof.Machine
end

