-- ==== Sys2Proof/Machine/Region.lean ====
section
/-! DEFINITION. The region tree (R146 to R149), Basin (R151 to R154), pool units (R155, R156), handed ranges (R159) and what the end of a task frees (R161, R163). -/
namespace Sys2Proof.Machine

/-- Does a region control block break R146? -/
def rcbBad (w : Vector W64 8) : Bool :=
  let inr (x lo hi inh : Nat) : Bool := x == inh || (decide (lo ≤ x) && decide (x ≤ hi))
  bitsN w[0] 5 0 != 0 || bitsN w[1] 5 0 != 0 || bitsN w[2] 45 0 != 0 || bitsN w[4] 2 0 != 0 ||
  bitsN w[6] 31 8 != 0 || bitsN w[7] 63 32 != 0 ||
  !inr (bitsN w[1] 63 48) 1 2048 0xFFFF || !inr (bitsN w[1] 47 40) 1 64 0xFF || !inr (bitsN w[1] 39 32) 1 128 0xFF ||
  !inr (bitsN w[1] 31 24) 1 128 0xFF || !inr (bitsN w[1] 23 16) 0 63 0xFF || !inr (bitsN w[1] 15 8) 0 15 0xFF ||
  bitsN w[1] 7 6 == 2 || bitsN w[2] 47 46 == 2 || (bitsN w[3] 63 12 != 0 && bitsN w[3] 11 0 == 0)

/-- Clusters that GPART assigns to a partition, ascending, on the dies listed (R367). -/
def State.clustersOf (s : State) (part : Nat) (dies : List Nat) : List Nat :=
  dies.flatMap fun d => (List.range 32).flatMap fun g =>
    if part ≠ 0x3E ∧ s.gpart (512 * d + 16 * g) = part then (List.range 16).map (512 * d + 16 * g + ·) else []

/-- A region's own effective values over its parent's (R147); `none` is the root default (R146). -/
def regionStep (all : Nat) (a : W64) (w : Vector W64 8) (p : Option RegionEff) : RegionEff :=
  let own (x inh dflt : Nat) (f : RegionEff → Nat) : Nat :=
    match p with
    | none => if x = inh then dflt else x
    | some e => if x = inh then f e else min x (f e)
  let plain {α : Type} (isInh : Bool) (x dflt : α) (f : RegionEff → α) : α :=
    if isInh then (match p with | none => dflt | some e => f e) else x
  let cl := own (bitsN w[1] 63 48) 0xFFFF all (·.clusters)
  let po := own (bitsN w[1] 47 40) 0xFF 64 (·.pool)
  { clusters := cl
    pool := po
    bw := own (bitsN w[1] 39 32) 0xFF 128 (·.bw)
    energy := own (bitsN w[1] 31 24) 0xFF 128 (·.energy)
    prio := plain (bitsN w[1] 23 16 == 0xFF) (bitsN w[1] 23 16) 0 (·.prio)
    vsh := plain (bitsN w[1] 15 8 == 0xFF) (bitsN w[1] 15 8) 4 (·.vsh)
    buffered := plain (bitsN w[1] 7 6 == 3) (bitsN w[1] 7 6 == 1) false (·.buffered)
    fdom := plain (bitsN w[2] 63 48 == 0xFFFF) (bitsN w[2] 63 48) 0 (·.fdom)
    quarantine := plain (bitsN w[2] 47 46 == 3) (bitsN w[2] 47 46 == 1) false (·.quarantine)
    spill := plain (bitsN w[3] 63 12 == 0) (putBits w[3] 11 0 0) 0 (·.spill)
    spunits := plain (bitsN w[3] 63 12 == 0) (bitsN w[3] 11 0) 0 (·.spunits)
    chain := (a, cl, po) :: (match p with | none => [] | some e => e.chain)
    donectr := w[4] }

/-- Effective values of the region at an address: `.ok none` is a rejected region (R148), an error is a read that trapped. `fuel` regions at most: 8 levels. -/
def State.regionAt (s : State) (part all : Nat) : Nat → W64 → Except Exn (Option RegionEff)
  | 0, _ => .ok none
  | fuel + 1, a =>
    match s.superLine part a with
    | .error e => .error e
    | .ok w =>
      if rcbBad w then .ok none
      else if bitsN w[0] 63 6 = 0 then .ok (some (regionStep all a w none))
      else match s.regionAt part all fuel (putBits w[0] 5 0 0) with
        | .ok (some p) => .ok (some (regionStep all a w (some p)))
        | r => r

/-- Effective values of a region (R147, R148). -/
def State.region (s : State) (part : Nat) (a : W64) : Except Exn (Option RegionEff) :=
  s.regionAt part (s.clustersOf part [0, 1, 2, 3]).length 8 a

/-- Adds to W5 or W7 fields of a region (R146), by the die given. -/
def State.rcbUpdate (s : State) (d part : Nat) (a : W64) (o : Nat) (f : W64 → W64) : State :=
  s.bookUpdate d 1 part (a + w64 o) f
/-- LIVE + 1 (R169). -/
def State.liveUp (s : State) (d part : Nat) (a : W64) : State :=
  s.rcbUpdate d part a 40 fun w => putBits w 63 32 (bitsN w 63 32 + 1)
/-- LIVE - 1; at 0 the region's DONECTR counts 1 (R161). DESIGN CHOICE: a LIVE that cannot be read counts as 0, so that DONECTR counts (log entry 40). -/
def State.liveDown (s : State) (d part : Nat) (eff : RegionEff) : State :=
  let a := (eff.chain.headD (0, 0, 0)).1
  let live := bitsN (w64 (s.superWord part (a + 40) 8)) 63 32
  let s1 := s.rcbUpdate d part a 40 fun w => putBits w 63 32 (bitsN w 63 32 - 1)
  if live ≤ 1 ∧ eff.donectr ≠ 0 then s1.bookUpdate d 2 part eff.donectr fun c => counterAdd c 1 0 else s1

/-- Pool units that a partition word takes (R155). -/
def partUnits (pw : Nat) : Nat := (if pw / 8192 % 2 = 1 then 0 else 3) + pw / 1024 % 8 + pw % 64
/-- Is a partition word refused (R155)? DESIGN CHOICE: SCR 62 or 63 with NOV 1, above the field's range and in none of the refusals, is accepted (log entry 37). -/
def partwBad (pw : Nat) : Bool := pw / 16384 != 0 || pw / 64 % 16 != 0 || decide (4 < pw / 1024 % 8) || decide (64 < partUnits pw)
/-- Does an image hold a non-zero reserved field (R151, R169 code 3)? -/
def imageBad (w : Vector W64 8) : Bool := bitsN w[0] 2 0 != 0 || bitsN w[5] 7 0 != 0 || bitsN w[7] 5 0 != 0
/-- TAG of an image (R151). -/
def imgTag (w : Vector W64 8) : W32 := BitVec.ofNat 32 (bitsN w[6] 63 32)
/-- COUNT of an image (R151). -/
def imgCount (w : Vector W64 8) : Nat := bitsN w[6] 31 16
/-- PARTW of an image (R151). -/
def imgPartw (w : Vector W64 8) : Nat := bitsN w[6] 15 0

/-- Does a region's control block hold a fault that no control hart has cleared (R146, R163)? -/
def State.faultOpen (s : State) (p : Nat × W64) : Bool := bitsN (w64 (s.superWord p.1 (p.2 + 48) 8)) 7 0 != 0
/-- Regions whose W6 has been cleared leave quarantine and the dies' lists (R163). -/
def State.reopen (s : State) : State :=
  let live : State := if s.dev.quarantine.isEmpty then s else { s with dev := { s.dev with quarantine := s.dev.quarantine.filter fun q => s.faultOpen (q.1, q.2.2) } }
  if live.dies.any (fun p => !p.2.faulted.isEmpty) then
    { live with dies := live.dies.map fun p => (p.1, { p.2 with faulted := p.2.faulted.filter s.faultOpen }) }
  else live

/-- After an atomic of the current hart: a control hart in machine mode may have cleared W6 (R146). -/
def State.cleared (s : State) : State := if s.ctl && s.hart.priv == 3 then s.reopen else s

/-- Are insertions into a fault domain refused (R163)? Until W6 of the region that faulted is cleared. -/
def State.quarantined (s : State) (part : Nat) (eff : RegionEff) : Bool :=
  s.dev.quarantine.any fun (p, f, a) => p == part && f == eff.fdom && s.faultOpen (p, a)

/-- What the checks of `tspawn` answer (R169). -/
inductive Spawn where
  | ok (eff : RegionEff)
  | refuse (code : Nat)
  | trap (e : Exn)
  deriving DecidableEq, Repr

/-- Checks of an image in the order of R169, code 5 apart: code 3, the region chain, code 2, code 4. -/
def State.checkImage (s : State) (part : Nat) (w : Vector W64 8) : Spawn :=
  if imageBad w then .refuse 3
  else match s.region part (putBits w[7] 5 0 0) with
    | .error e => .trap e
    | .ok none => .refuse 1
    | .ok (some eff) =>
      if partwBad (imgPartw w) then .refuse 2
      else if s.quarantined part eff then .refuse 4 else .ok eff

/-- What the reads of a region and its chain of parents leave (R148, R203). -/
def State.regionSeen (s : State) (part : Nat) : Nat → W64 → State
  | 0, _ => s
  | fuel + 1, a =>
    let t := s.superSeen part a 64
    match s.superLine part a with
    | .error _ => t
    | .ok w => if rcbBad w || bitsN w[0] 63 6 == 0 then t else t.regionSeen part fuel (putBits w[0] 5 0 0)

/-- What the checks of an image leave: the reads of its region's chain, unless a reserved field refused it before (R169). -/
def State.entrySeen (s : State) (part : Nat) (w : Vector W64 8) : State :=
  if imageBad w then s else s.regionSeen part 8 (putBits w[7] 5 0 0)

/-- A Basin entry of a cluster. -/
def Cluster.entry (c : Cluster) (i : Nat) : Option Entry := kget none c.basin i
/-- Lowest free index of a slice (R151). -/
def Cluster.freeIdx (c : Cluster) : Option Nat := lowest 512 fun i => (c.entry i).isNone
/-- The slice and index that an insertion takes (R151): from a start cluster on, wrapping on its die, over the slices of the partition. -/
def State.basinSlot (s : State) (part start : Nat) : Option (Nat × Nat) :=
  (List.range 512).findSome? fun i =>
    let cl := start / 512 * 512 + (start % 512 + i) % 512
    if part ≠ 0x3E ∧ s.gpart cl = part then ((s.cluster cl).freeIdx).map (cl, ·) else none

/-- Marks an entry ready once its arrivals meet COUNT (R152). -/
def Entry.settle (e : Entry) (now : W64) : Entry :=
  if e.ready.isNone ∧ imgCount e.image ≤ e.arrivals then { e with ready := some now } else e
/-- Adds one arrival, saturating (R152). -/
def Entry.arrive (e : Entry) (now : W64) : Entry := ({ e with arrivals := min 65535 (e.arrivals + 1) } : Entry).settle now

/-- Puts an entry in a slot; a waiting handed range with its tag and of its partition is bound to it (R159, R367). -/
def State.placeEntry (s : State) (cl i : Nat) (e : Entry) : State :=
  let c := s.cluster cl
  let e0 := e.settle s.clk
  match (if e0.hand.isNone && e0.ctx.isNone then c.hands.find? (fun p => p.1 == imgTag e.image && p.2.part == e.part) else none) with
  | some (t, r) =>
    let e1 := ({ e0 with hand := some { r with bound := s.clk, tried := false } } : Entry).arrive s.clk
    s.setCluster cl { c with basin := kset none c.basin i (some e1), hands := c.hands.filter (· != (t, r)) }
  | none => s.setCluster cl { c with basin := kset none c.basin i (some e0) }

/-- A new entry of a task image (R151). -/
def newEntry (w : Vector W64 8) (part : Nat) (eff : RegionEff) : Entry :=
  ⟨w, part, 0, none, eff, none, none, false, none, [], 0, none, [], [], 0, [], 0, 0⟩

/-- Inserts a waiting entry of a die, saved contexts and discarded tasks first, as soon as a slot frees (R162, R346). -/
def State.insertOrWait (s : State) (start : Nat) (e : Entry) : State :=
  match s.basinSlot e.part start with
  | some (cl, i) => s.placeEntry cl i e
  | none =>
    let d := s.die (start / 512)
    s.setDie (start / 512) { d with waiting := d.waiting ++ [e] }

/-- Entries that wait for a free slot of a die enter Basin, in the order they came (R162, R346). DESIGN CHOICE: one whose fault domain has been quarantined meanwhile enters too, because R162 and R346 never lose such an entry and R163 refuses insertions (log entry 39). -/
def State.serve (s : State) (d : Nat) : State :=
  let w := (s.die d).waiting
  w.foldl (fun t e => match t.basinSlot e.part (512 * d) with
    | some (cl, i) => t.placeEntry cl i e
    | none => let x := t.die d; t.setDie d { x with waiting := x.waiting ++ [e] }) (s.setDie d { s.die d with waiting := [] })

/-- Harts other than parked ones, with their ids: the current one and the listed ones. -/
def State.allHarts (s : State) : List (Nat × Hart) := (s.hid, s.hart) :: s.others.filter (·.1 != s.hid)
/-- Changes the entries of Basin, and those that wait to enter it, that meet a test. -/
def State.mapEntries (s : State) (p : Entry → Bool) (f : Entry → Entry) : State :=
  let one (e : Entry) : Entry := if p e then f e else e
  { s with
    clus := s.clus.map fun (k, c) => (k, { c with basin := c.basin.map fun (i, oe) => (i, oe.map one) })
    dies := s.dies.map fun (k, d) => (k, { d with waiting := d.waiting.map one }) }

/-- Running tasks with their harts. -/
def State.tasks (s : State) : List (Nat × Task) := s.allHarts.filterMap fun (i, h) => h.task.map (i, ·)

/-- Do n bytes from a core-space address on, as a hart names it, meet a pool unit of a core (R190)? A range may run on into the next core's pool. -/
def meetsUnit (hart : Nat) (a : W64) (n core unit : Nat) : Bool :=
  let u := (if a.getLsbD 32 then 2 ^ 63 + 2 ^ 32 else 2 ^ 63 + core * 2 ^ 18) + unit * 4096
  a.getLsbD 63 && (!a.getLsbD 32 || core == coreOf hart) && decide (a.toNat < u + 4096) && decide (u < a.toNat + n)

/-- Do rows of n bytes of a copy request meet a pool unit of a core (R268)? -/
def CopyReq.rowsMeet (q : CopyReq) (rows : List Nat) (n core unit : Nat) : Bool :=
  rows.any fun r => meetsUnit q.hart (q.w[1] + w64 (64 * r * bitsN q.w[2] 21 10)) n core unit

/-- Pool units of a core that a copy in flight has still to write (R156, R270). -/
def CopyFly.touches (f : CopyFly) (core unit : Nat) : Bool := f.req.rowsMeet f.todo f.out core unit
/-- Width of a Flint element format (R291). -/
def flintWidth (code : Nat) : Nat := if code = 0 ∨ code = 10 ∨ code = 14 then 32 else if [1, 2, 9, 13].contains code then 16 else 8
/-- The ranges of a Flint job (R292): the column, the weights, the record with its list. -/
def flintRanges (w : Vector W64 4) : List (W64 × Nat) :=
  let n := bitsN w[2] 47 32 + 1
  (w[0], n * flintWidth (bitsN w[2] 59 56) / 8) :: (if w[1] = 0 then [] else [(w[1], 4 * n)]) ++
    [(putBits w[3] 5 0 0, 64 + if bitsN w[2] 63 62 = 1 then 8 * bitsN w[2] 31 0 else 0)]

/-- Does a Flint job read or write a pool unit of a core (R156, R299)? -/
def FlintJob.touches (j : FlintJob) (core unit : Nat) : Bool :=
  (flintRanges j.w).any fun p => meetsUnit j.hart p.1 p.2 core unit

/-- Is a pool unit free for dispatch: held by nothing, not retired, and no copy line destined for it in flight, nor a Flint job that uses it (R156, R267, R270, R299)? -/
def State.unitFree (s : State) (core u : Nat) : Bool :=
  let x := s.core core
  kget UnitUse.free x.units u == .free && !x.retired.contains u &&
    !s.dev.copies.any (·.touches core u) && !(s.cluster (core / 8)).flint.any (·.touches core u) &&
    !(List.range 8).any fun i => (s.core (core / 8 * 8 + i)).flintq.any (·.touches core u)

/-- Resident units of a handed range (R159). -/
def residentUnits (h : Option HandRange) : List Nat := match h with | some r => if r.spilled then [] else r.units | none => []

/-- Units that a running task holds on its core (R149, R156): those it was given, but for the ones it handed on, and those handed to it. -/
def State.heldCount (s : State) (id : Nat) (t : Task) : Nat :=
  ((List.range 64).filter fun u => match kget UnitUse.free (s.core (coreOf id)).units u with
    | .scratch n => n == id % 4 | .backing n => n == id % 4 | _ => false).length + (residentUnits t.hand).length
/-- Units that an entry will hold once it is dispatched (R149, R156, R347). -/
def Entry.needs (e : Entry) : Nat :=
  (if e.ctx.isSome then partUnits (imgPartw e.image) - imgPartw e.image % 64 + e.held.length else partUnits (imgPartw e.image)) + (residentUnits e.hand).length

/-- Do the region budgets CLUSTERS and POOL let an entry run on a core (R149)? -/
def State.budgetsOk (s : State) (e : Entry) (core : Nat) : Bool :=
  e.eff.chain.all fun (a, cl, po) =>
    let ts := s.tasks.filter fun (_, t) => t.part == e.part && t.eff.chain.any (·.1 == a)
    let cls := (ts.map fun (i, _) => clusOf i).eraseDups
    decide ((if cls.contains (core / 8) then cls.length else cls.length + 1) ≤ cl) &&
      decide (((ts.filter fun (i, _) => coreOf i == core).map fun (i, t) => s.heldCount i t).sum + e.needs ≤ po)

/-- First unit of the lowest run of n free units (R156). -/
def State.freeRun (s : State) (core n : Nat) : Option Nat :=
  if n = 0 then some 0 else lowest (65 - n) fun b => (List.range n).all fun i => s.unitFree core (b + i)

/-- Where an entry's units go on a core (R156): the scratchpad run, then the other units. -/
def State.placeUnits (s : State) (core pw : Nat) : Option (Nat × List Nat) :=
  match s.freeRun core (pw % 64) with
  | none => none
  | some b =>
    let need := partUnits pw - pw % 64
    let out := (List.range 64).filter fun u => s.unitFree core u && !(decide (b ≤ u) && decide (u < b + pw % 64))
    if need ≤ out.length then some (b, out.take need) else none

/-- A parked hart of a core, lowest first (R154). -/
def State.freeHart (s : State) (core : Nat) : Option Nat :=
  lowest 4 fun n => (s.getHart (hartOf core n)).run == .parked

/-- Where the units of a saved context go: its scratchpad and handed units where they were, the others anywhere (R347). -/
def State.placeHeld (s : State) (core : Nat) (e : Entry) : Option (Nat × List Nat) :=
  let us := e.held ++ residentUnits e.hand
  let need := partUnits (imgPartw e.image) - imgPartw e.image % 64
  let out := (List.range 64).filter fun u => s.unitFree core u && !us.contains u
  if us.all (s.unitFree core) && decide (need ≤ out.length) then some (0, out.take need) else none

/-- The unit assignment of an entry on a core where it fits, a free hart apart (R154, R156, R159, R347). -/
def State.fitsUnits (s : State) (e : Entry) (core : Nat) : Option (Nat × List Nat) :=
  if !s.budgetsOk e core then none
  else match e.ctx with
    | some slot =>
      if (match s.ctxPin (core / 4096) slot with | some home => home / 4 == core | none => true) then s.placeHeld core e else none
    | none =>
      if (match e.hand with | some r => r.spilled || r.core == core | none => true) then s.placeUnits core (imgPartw e.image) else none
/-- The unit assignment of an entry on a core with a free hart (R154). -/
def State.fits (s : State) (e : Entry) (core : Nat) : Option (Nat × List Nat) :=
  if (s.freeHart core).isSome then s.fitsUnits e core else none

/-- Effective priority of a ready entry (R153). -/
def Entry.rank (e : Entry) (now : W64) : Nat :=
  e.eff.prio + (match e.ready with | some t => (now - t).toNat / 65536 | none => 0)

/-- Is an entry selectable: ready, and within CLUSTERS for some core of the slice (R149, R153)? -/
def State.selectable (s : State) (cl : Nat) (e : Entry) : Bool :=
  e.ready.isSome && e.eff.chain.all fun (a, n, _) =>
    let cls := ((s.tasks.filter fun (_, t) => t.part == e.part && t.eff.chain.any (·.1 == a)).map fun (i, _) => clusOf i).eraseDups
    cls.contains cl || decide (cls.length < n)

/-- The winning entry of a slice: greatest effective priority, lowest index on a tie (R153). -/
def State.winner (s : State) (cl : Nat) : Option (Nat × Entry) :=
  (s.cluster cl).basin.foldl (fun best (i, oe) =>
    match oe with
    | none => best
    | some e =>
      if s.selectable cl e then
        match best with
        | none => some (i, e)
        | some (_, b) => if b.rank s.clk < e.rank s.clk then some (i, e) else best
      else best) none

/-- Frees units of a hart, all but those kept (R161, R163). -/
def State.freeUnits (s : State) (id : Nat) (keep : List Nat) : State :=
  let c := coreOf id
  let x := s.core c
  let n := id % 4
  let us := (List.range 64).foldl (fun m u =>
    match kget UnitUse.free m u with
    | .scratch h => if h = n then kset .free m u (if keep.contains u then .kept else .free) else m
    | .backing h => if h = n then kset .free m u .free else m
    | _ => m) x.units
  s.setCore c { x with units := us }

/-- A hart that has ended its task: back on the free list (R161). -/
def Hart.parkedFrom (_h : Hart) : Hart := { Hart.reset with regs := Hart.reset.regs.setIfInBounds HReg.status.idx 0 }

/-- Results of commands that a task pushed are no longer owed to its hart once the task has ended (R173, R275). -/
def State.orphan (s : State) (id : Nat) : State :=
  let x := s.core (coreIx id)
  let mine (h : Nat) (o : Bool) : Bool := o && h != id
  let s1 := s.setCore (coreIx id) { x with
    fifo := x.fifo.map fun q => { q with owed := mine q.hart q.owed }
    flintq := x.flintq.map fun j => { j with owed := mine j.hart j.owed } }
  let c := s1.cluster (clusOf id)
  let s2 := s1.setCluster (clusOf id) { c with flint := c.flint.map fun j => { j with owed := mine j.hart j.owed } }
  { s2 with
    dev := { s2.dev with copies := s2.dev.copies.map fun f => { f with req := { f.req with owed := mine f.req.hart f.req.owed } } }
    dies := s2.dies.map fun (k, d) => (k, { d with tarnq := d.tarnq.map fun t => { t with owed := mine t.hart t.owed } }) }

/-- The matrix commands of a task that ends (R260): with `keep`, its queue runs on; started operations complete either way. Its accumulator units stay held until then. -/
def State.mxEnd (s : State) (id : Nat) (keep : Bool) : State :=
  let h := s.getHart id
  let cl := clusOf id
  let c := s.cluster cl
  let started := (c.ops.any fun o => o.members.any (·.own == id)) || s.dev.drains.any (·.own == id)
  let mq := if keep then h.mq else []
  if mq.isEmpty && !started then s
  else
    let (k, s1) := s.stamp
    let key := 2 ^ 20 + k
    let acc := match h.task with
      | some t => t.units.drop (t.units.length - bitsN t.image[6] 12 10)
      | none => []
    let out (o : Nat) : Nat := if o = id then key else o
    let s2 := s1.setCluster cl { c with
      ops := c.ops.map fun o => { o with members := o.members.map fun m => { m with own := out m.own } }
      tails := c.tails ++ [⟨key, coreOf id, mq, h.acc, acc⟩] }
    let x := s2.core (coreOf id)
    let s3 := s2.setCore (coreOf id) { x with units := acc.foldl (fun m u => kset .free m u .kept) x.units }
    { s3 with dev := { s3.dev with drains := s3.dev.drains.map fun d => { d with own := out d.own } } }

/-- The entry of a task that returns to Basin (R162, R346). -/
def Task.entry (t : Task) (now : W64) : Entry :=
  ⟨t.image, t.part, imgCount t.image, some now, t.eff, t.hand, none, t.exclusive, t.mere, [], t.ident, none, [], [], 0, [], 0, 0⟩

/-- The run of a partition's spill area that a spilled range takes (R159). -/
def spillRuns (part : Nat) (base : W64) (e : Option HandRange) : List (Nat × Nat) :=
  match e with
  | some r => if r.spilled && r.part == part && r.spill == base then [((r.addr - base).toNat / 4096, r.len / 4096)] else []
  | none => []
/-- All runs of a spill area in use: those of entries, waiting ones among them, hand tables and running tasks (R159). -/
def State.spillUsed (s : State) (part : Nat) (base : W64) : List (Nat × Nat) :=
  (s.clus.flatMap fun (_, c) => (c.basin.flatMap fun (_, oe) => match oe with | some e => spillRuns part base e.hand | none => []) ++
    (c.hands.flatMap fun (_, r) => spillRuns part base (some r))) ++
    (s.dies.flatMap fun (_, d) => d.waiting.flatMap fun e => spillRuns part base e.hand) ++
    s.tasks.flatMap fun (_, t) => spillRuns part base t.hand

/-- Copies n lines of a resident range from line i on to a spill area, as supervisor writes, up to the first that faults (R159): whether all were written. An uncorrectable word is a free value there (R343; log entry 27). -/
def State.spillLines (s : State) (r : HandRange) (dst : W64) (i : Nat) : Nat → Bool × State
  | 0 => (true, s)
  | n + 1 =>
    let k := poolKey r.core (r.addr.toNat % 262144 + 64 * i)
    let w := (s.retireBad k 64).superWrite r.part (dst + w64 (64 * i)) (s.rdFree (s.freeIx + 2 ^ 200 * i) k 64)
    if w.1 then w.2.spillLines r dst (i + 1) n else w

/-- The lowest free run of n units of a range's spill area (R159). -/
def State.spillRun (s : State) (r : HandRange) (n : Nat) : Option Nat :=
  if r.spunits = 0 then none
  else lowest (r.spunits + 1 - n) fun b => (s.spillUsed r.part r.spill).all fun (x, l) => decide (b + n ≤ x) || decide (x + l ≤ b)

/-- Spills a resident range: the copy is made and its units are freed; without an area or a free run, or where a write faults, it stays resident until the core takes the successor (R159). -/
def State.spill (s : State) (r : HandRange) : HandRange × State :=
  match s.spillRun r (r.len / 4096) with
  | none => ({ r with tried := true }, s)
  | some b =>
    let w := s.spillLines r (r.spill + w64 (4096 * b)) 0 (r.len / 64)
    if w.1 then
      let x := w.2.core r.core
      ({ r with addr := r.spill + w64 (4096 * b), spilled := true, units := [] },
        w.2.setCore r.core { x with units := r.units.foldl (fun m u => kset .free m u .free) x.units })
    else ({ r with tried := true }, w.2)

/-- Frees a range that a task received (R159, R163): resident units, or the run of the spill area. -/
def State.freeHand (s : State) (h : Option HandRange) : State :=
  match h with
  | some r =>
    if r.spilled then s
    else
      let x := s.core r.core
      s.setCore r.core { x with units := r.units.foldl (fun m u => kset .free m u .free) x.units }
  | none => s

/-- Withdraws what a waiting instruction left elsewhere: an arrival at a barrier that has not completed (R178), an `ldfe` held at a pool (R95, R104), an access in an inbound buffer (R378), a request that no port has delivered (R358), a read that waits in session order (R308). -/
def State.withdraw (s0 : State) (id : Nat) : State :=
  let mine (r : RemoteReq) : Bool := r.hart == some id && r.by_ == .access
  let s : State := { s0 with
    dev := { s0.dev with stuck := s0.dev.stuck.filter (·.hart != id) }
    dies := s0.dies.map fun p => if p.2.sessions.any (fun q => match q.2 with | some x => x.waits.any (·.1 == id) | none => false) then
      (p.1, { p.2 with sessions := p.2.sessions.map fun q => (q.1, q.2.map fun x => { x with waits := x.waits.filter (·.1 != id) }) }) else p
    cores := s0.cores.map fun p => if p.2.inbox.any mine then (p.1, { p.2 with inbox := p.2.inbox.filter (!mine ·) }) else p }
  let out (l : List Domain) : List Domain :=
    (l.map fun d => if d.release.isNone then { d with arrived := d.arrived.filter (· != id) } else d).filter fun d => !d.arrived.isEmpty
  let c := s.cluster (clusOf id)
  let d := s.die (dieOf id)
  match (s.getHart id).wait with
  | .fe k => let x := s.core k; s.setCore k { x with feq := x.feq.filter (·.2 != id) }
  | .bar none => (s.setCluster (clusOf id) { c with doms := out c.doms }).setDie (dieOf id) { d with doms := out d.doms }
  | _ => s

/-- Is a request that was written to PREEMPT of a die in progress for another hart (R348)? -/
def State.preOther (s : State) (d id : Nat) : Bool :=
  s.allHarts.any fun p => p.1 != id && dieOf p.1 == d && (match p.2.pre with | some q => q.byReg | none => false)
/-- LAST of PREEMPT, for a request of a hart that was written there; PEND stays set while another such request is in progress (R348). -/
def State.preLast (s : State) (id : Nat) (p : PreReq) (code : Nat) : State :=
  let r := regBase (dieOf id) + 0x3000018
  if p.byReg then s.setReg r (putBits (putBits (s.getReg r) 63 63 (s.preOther (dieOf id) id).toNat) 62 61 code) else s

/-- A pre-emption request of a hart ends with its task (R348). -/
def State.preEnd (s : State) (id : Nat) : State :=
  match (s.getHart id).pre with
  | some p => s.preLast id p 0
  | none => s

/-- Ends a hart's task: its matrix commands (`run` keeps those not started), its units but those kept, its handed range, the hart (R161, R163). -/
def State.endTask (s : State) (id : Nat) (keep : List Nat) (run : Bool) : State :=
  let h := s.getHart id
  let s1 := (((((s.withdraw id).preEnd id).orphan id).mxEnd id run).freeUnits id keep).freeHand (match h.task with | some t => t.hand | none => none)
  s1.setHart id h.parkedFrom

end Sys2Proof.Machine
end

