-- ==== Sys2Proof/Machine/Wave.lean ====
section
/-! DEFINITION. Events of tracked sessions on blocks: dirtying and aborts (R307, R312), insertion (R309), commit steps and audits (R311, R323), held blocks (R313). Each event is applied whole, in session order (R308). -/
namespace Sys2Proof.Machine

/-- Slots of the logical blocks, in order (R302). -/
def State.slotList (s : State) (x : Session) : List Nat := (List.range x.nblk).map (s.slotOf x)
/-- The logical block that a slot holds, if any. -/
def State.logical (s : State) (x : Session) (k : Nat) : Option Nat := (s.slotList x).idxOf? k
/-- Blocks of layer l + 1 whose inputs include block b of layer l (R306). -/
def Session.depsOf (x : Session) (l b : Nat) : List Nat :=
  if x.nl ≤ l + 1 then []
  else
    let e := x.layer (l + 1)
    dependents (layPat e) (layWin e) b x.nblk

/-- Does a task or entry work on a block of a session? -/
def onBlock (m : Option MereTask) (n l k : Nat) : Bool := match m with | some y => y.ses == n && y.layer == l && y.block == k | none => false
/-- The running task of a block. -/
def State.blkTask (s : State) (n l k : Nat) : Option (Nat × Task) := s.tasks.find? fun p => onBlock p.2.mere n l k
/-- The Basin entry of a block: cluster, index. -/
def State.blkEntry (s : State) (n l k : Nat) : Option (Nat × Nat × Entry) :=
  s.clus.findSome? fun (cl, c) => c.basin.findSome? fun (i, oe) => match oe with
    | some e => if onBlock e.mere n l k then some (cl, i, e) else none
    | none => none

/-- Every task, entry and waiting entry of a session: what it works on, and whether it is in exclusive mode. -/
def State.sesWork (s : State) (n : Nat) : List (MereTask × Bool) :=
  let pick (m : Option MereTask) (x : Bool) : List (MereTask × Bool) := match m with | some y => if y.ses = n then [(y, x)] else [] | none => []
  (s.tasks.flatMap fun p => pick p.2.mere p.2.exclusive) ++
    (s.clus.flatMap fun p => p.2.basin.flatMap fun q => match q.2 with | some e => pick e.mere e.exclusive | none => []) ++
    s.dies.flatMap fun p => p.2.waiting.flatMap fun e => pick e.mere e.exclusive

/-- The stores still in a hart's store buffer as its task ends otherwise than by `halt`: those bound for the commit buffer go with it (R162), the others are performed (R163, R172). -/
def State.flushStores (s : State) (id : Nat) : State :=
  let h := s.getHart id
  h.sbuf.foldl (fun t e =>
    if e.buffered then t
    else match e.loc with
      | .mem _ => (if e.va.getLsbD 63 then t else t.unhold (s.partOf id) e.va t.protCount).storeAt e.loc e.data e.setFull
      | _ => t) (s.setHart id { h with sbuf := [] })

/-- Aborts the task of a block (R162, R307): its buffer is discarded, hart and units are freed, its entry does not return to Basin. DESIGN CHOICE: a range handed to it is freed with it, as where a task ends (log entry 38). -/
def State.mereAbort (s : State) (n l k : Nat) : State :=
  match s.blkTask n l k with
  | some (id, t) => ((s.flushStores id).endTask id [] false).liveDown (dieOf id) t.part t.eff
  | none => match s.blkEntry n l k with
    | some (cl, i, e) =>
      let s1 := s.setCluster cl { s.cluster cl with basin := kset none (s.cluster cl).basin i none }
      ((s1.liveDown (cl / 512) e.part e.eff).serve (cl / 512)).freeHand e.hand
    | none =>
      let d := n / 1024 % 4
      match (s.die d).waiting.find? fun e => onBlock e.mere n l k with
      | some e => ((s.setDie d { s.die d with waiting := removeFirst (fun e => onBlock e.mere n l k) (s.die d).waiting }).liveDown d e.part e.eff).freeHand e.hand
      | none => s

/-- Is a block that of a task in exclusive mode, or an input of one (R312)? -/
def State.locked (s : State) (n : Nat) (x : Session) (l b : Nat) : Bool :=
  (s.sesWork n).any fun (m, excl) => excl &&
    ((m.layer == l && m.block == s.slotOf x b) || (m.layer == l + 1 && (x.depsOf l b).any fun d => s.slotOf x d == m.block))

/-- Is it the commit of a block? -/
def MereCommit.on (c : MereCommit) (l k : Nat) : Bool := c.layer == l && c.slot == k
/-- Marks the commit of a block that is dirtied before its commit step (R307). -/
def MereCommit.dirty (l k : Nat) (c : MereCommit) : MereCommit := if c.on l k then { c with redirty := true } else c
/-- See `MereCommit.dirty`. -/
def MereDefer.dirty (l k : Nat) (d : MereDefer) : MereDefer := match d with | .commit c => .commit (c.dirty l k) | d => d
/-- Is it the commit step of a block? -/
def MereDefer.commits (l k : Nat) (d : MereDefer) : Bool := match d with | .commit c => c.on l k | _ => false
/-- Has the task of a block committed, with its commit step still to come (R311)? -/
def Session.pends (x : Session) (l k : Nat) : Bool := x.commits.any (·.on l k) || (x.queue ++ x.deferred).any (·.commits l k)
/-- Has the task of a block faulted, with that event still to come? -/
def Session.faults (x : Session) (l k : Nat) : Bool := (x.queue ++ x.deferred).any (· == .fault l k)

/-- One event on one block (R307): `own` dirties the block itself, else an input of it has become DIRTY. Answers whether the block has become DIRTY. An event on a locked block is deferred (R312), one after the commit point waits for the commit step. -/
def State.blkEvent (s0 : State) (n l b : Nat) (own : Bool) : State × Bool :=
  match s0.ses? n with
  | none => (s0, false)
  | some x =>
    let s := s0.blockRead x l b
    let k := s.slotOf x b
    let i := l * x.nslot + k
    let sv := s.blkGet x i
    if sv.1 = 1 ∨ (sv.1 = 0 ∧ own = false) then (s, false)
    else if s.locked n x l b then (s.setSes n (some { x with deferred := x.deferred ++ [.event i own] }), false)
    else if x.pends l k then
      if sv.1 = 3 ∧ own = false then (s, false)
      else (s.setSes n (some { x with commits := x.commits.map (·.dirty l k), queue := x.queue.map (·.dirty l k), deferred := x.deferred.map (·.dirty l k) }), false)
    else
      let s1 := if sv.1 = 0 then s else s.mereAbort n l k
      if sv.1 = 3 ∧ own = false then (s1.blkSet n x i 0 sv.2, false) else (s1.blkSet n x i 1 sv.2, true)

/-- The dependents of blocks of layer l that have become DIRTY, layer by layer (R307). -/
def State.mereSpread (s : State) (n : Nat) : Nat → Nat → List Nat → State
  | 0, _, _ => s
  | fuel + 1, l, bs =>
    match bs, s.ses? n with
    | [], _ => s
    | _, none => s
    | _, some x =>
      let ds := (bs.flatMap (x.depsOf l)).eraseDups
      let r := ds.foldl (fun (q : State × List Nat) d => let p := q.1.blkEvent n (l + 1) d false; (p.1, if p.2 then q.2 ++ [d] else q.2)) (s, [])
      r.1.mereSpread n fuel (l + 1) r.2

/-- A block is dirtied (R307), and its dependents learn of it. -/
def State.mereHit (s : State) (n l b : Nat) : State :=
  let r := s.blkEvent n l b true
  if r.2 then r.1.mereSpread n 256 l [b] else r.1

/-- Is a block DIRTY, not held nor about to be, with every input clean (R307)? -/
def State.insertable (s : State) (x : Session) (l b : Nat) : Bool :=
  let i := s.blkNum x l b
  let clean (j : Nat) : Bool := let st := (s.blkGet x (s.blkNum x (l - 1) j)).1; st == 0 || st == 3
  let e := x.layer l
  (s.blkGet x i).1 == 1 && !x.held.contains i && !x.faults l (i % x.nslot) && (l == 0 || (inputs (layPat e) (layWin e) b).all clean)

/-- After an event: the insertions that R307 calls for, in layer and block order, behind those that wait already (R309), and the descriptor words as they now are (R302). -/
def State.mereNext (s : State) (n : Nat) : State :=
  match s.ses? n with
  | none => s
  | some x =>
    let new := (List.range x.nl).flatMap fun l => (List.range x.nblk).filterMap fun b =>
      let i := s.blkNum x l b
      if s.insertable x l b then some (n, i) else none
    let d := s.die (n / 1024 % 4)
    (s.setDie (n / 1024 % 4) { d with want := d.want ++ new.filter fun p => !d.want.contains p }).putSes n x

/-- Insertions of a session that are no longer called for. -/
def State.unwant (s : State) (n : Nat) (p : Nat → Bool) : State :=
  let d := s.die (n / 1024 % 4)
  s.setDie (n / 1024 % 4) { d with want := d.want.filter fun q => !(q.1 == n && p q.2) }

/-- TAG of a recompute entry (R309). -/
def mereTag (n l b : Nat) : Nat := 2 ^ 31 + n % 1024 * 2 ^ 21 + l * 2 ^ 13 + b
/-- Handle of a block, with OFFSET 0 (R305). -/
def mereHandle (n l b : Nat) : Nat := n * 2 ^ 52 + l * 2 ^ 44 + b * 2 ^ 31

/-- The image that the tracker builds for block b (R309). -/
def State.mereImage (s : State) (n : Nat) (x : Session) (l b : Nat) : Vector W64 8 :=
  let e := x.layer l
  let tok := putBits x.w[1] 5 0 0 + w64 (4 * s.slotOf x b * x.bt)
  ⟨#[putBits e[0] 2 0 0, w64 (mereHandle n l b), w64 (b * x.bt * 2 ^ 32 + x.ntok), tok, x.at_, putBits e[3] 7 0 0,
    w64 (mereTag n l b * 2 ^ 32 + bitsN e[2] 15 0), putBits x.w[5] 5 0 0], rfl⟩

/-- What an insertion by the tracker comes to (R309). -/
inductive Inserted where
  | made (s : State)
  | full
  | refused (s : State)

/-- Inserts a recompute or audit task (R309), for which the layer's entry is read (R303): buffered whatever the region's RETIRE. -/
def State.mereInsert (s0 : State) (n : Nat) (x0 : Session) (l b : Nat) (audit : Bool) : Inserted :=
  let x := match s0.readLayer x0 l with | some e => { x0 with layers := x0.layers.set l e } | none => x0
  let w := s0.mereImage n x l b
  let s := ((s0.superSeen x.part (x.w[3] + w64 (32 * l)) 32).entrySeen x.part w).setSes n (some x)
  let d := n / 1024 % 4
  match s.region x.part w[7] with
  | .ok (some eff) =>
    if partwBad (imgPartw w) || s.quarantined x.part eff then .refused s
    else match s.basinSlot x.part (512 * d + bitsN x.w[8] 63 55) with
      | none => .full
      | some (cl, i) =>
        let e := x.layer l
        let m : MereTask := ⟨n, l, s.slotOf x b, audit, bitsN e[2] 21 20, BitVec.ofNat 32 (bitsN e[2] 63 32)⟩
        let k := s.blkNum x l b
        let s1 := (s.placeEntry cl i { newEntry w x.part { eff with buffered := true } with mere := some m }).liveUp d x.part w[7]
        .made (s1.blkSet n x k (if audit then 3 else 2) (s.blkGet x k).2)
  | _ => .refused s

/-- A measure above a threshold (R311): a NaN is above every finite one, and nothing is above +inf. -/
def mAbove (m thr : W32) : Bool := thr != 0x7F800000 && decide (thr.toNat < m.toNat % 2 ^ 31)

/-- An audit's record (R323): AUDCNT, AUDMAX, AUDOVER, AEV and ASES. -/
def State.auditDone (s : State) (n : Nat) (x : Session) (m : W32) : State :=
  let above := mAbove m (BitVec.ofNat 32 (bitsN x.w[8] 31 0))
  let x1 := { x with
    audcnt := (x.audcnt + 1) % 2 ^ 32, audmax := if x.audmax < m then m else x.audmax
    audover := if above then (x.audover + 1) % 2 ^ 32 else x.audover }
  let s1 := s.setSes n (some x1)
  let d := n / 1024 % 4
  let r := regBase d + 0x2000018
  if above then ((if (s1.getReg r).getLsbD 63 then s1 else s1.setReg r (w64 (2 ^ 63 + n)))).trigger d 1 else s1

/-- A below-threshold decision (R311 step 3, R323): SAMPCTR, and an audit of the lowest VALID dependent when one is due. -/
def State.auditMaybe (s : State) (n l b : Nat) : State :=
  match s.ses? n with
  | none => s
  | some x =>
    let c := (x.sampctr + 1) % 2 ^ 32
    let a := bitsN x.w[8] 54 51
    let x1 := { x with sampctr := c }
    let s1 := s.setSes n (some x1)
    if a = 15 ∨ (c % 2 ^ a ≠ 0 ∧ x.auditNext = false) then s1
    else
      let next (t : State) (v : Bool) : State := t.mapSes n fun y => { y with auditNext := v }
      let s1 := (x1.depsOf l b).foldl (fun t d => t.blockRead x1 (l + 1) d) s1
      match (x1.depsOf l b).find? fun d => (s1.blkGet x1 (s1.blkNum x1 (l + 1) d)).1 == 0 with
      | none => next s1 true
      | some d => match s1.mereInsert n x1 (l + 1) d true with
        | .made t => next t false
        | .full => next s1 true
        | .refused t => next t true

/-- Puts events at the head of a session's order. -/
def State.mereFirst (s : State) (n : Nat) (l : List MereDefer) : State := s.mapSes n fun x => { x with queue := l ++ x.queue }
/-- The events that a task in exclusive mode deferred come next, in their session order (R312); one that another such task still locks is deferred again. -/
def State.mereFree (s : State) (n : Nat) : State := s.mapSes n fun x => { x with queue := x.deferred ++ x.queue, deferred := [] }

/-- The commit step of a block as one event (R308, R311): VALID and version + 1 with the dirtying of the dependents, or a below-threshold decision. Where a dependent that it dirties is locked, the whole event is deferred (R312); a dirtying since the commit point follows it as an event of its own (R307). -/
def State.commitEvent (s : State) (n : Nat) (c : MereCommit) : State :=
  match s.ses? n with
  | none => s
  | some x =>
    let i := c.layer * x.nslot + c.slot
    let above := decide (c.layer + 1 < x.nl) && mAbove c.m c.thr
    let deps := match s.logical x c.slot with | some b => if above then x.depsOf c.layer b else [] | none => []
    if deps.any (s.locked n x (c.layer + 1)) then s.setSes n (some { x with deferred := x.deferred ++ [.commit c] })
    else
      let s1 := s.blkSet n x i 0 ((s.blkGet x i).2 + 1)
      let s2 := if c.audit then s1.auditDone n x c.m else s1
      let s3 := match s2.logical x c.slot with
        | none => s2
        | some b =>
          let t :=
            if x.nl ≤ c.layer + 1 then s2
            else if above then deps.foldl (fun t d => t.mereHit n (c.layer + 1) d) s2
            else s2.auditMaybe n c.layer b
          if c.redirty then t.mereFirst n [.event i true] else t
      s3.mereFree n

/-- A block becomes DIRTY and held (R313), and its dependents learn of it; where it is an input of a task in exclusive mode the event is deferred (R312). -/
def State.faultEvent (s : State) (n l k : Nat) : State :=
  match s.ses? n with
  | none => s
  | some x =>
    let i := l * x.nslot + k
    let b := s.logical x k
    if (match b with | some b => s.locked n x l b | none => false) then s.setSes n (some { x with deferred := x.deferred ++ [.fault l k] })
    else
      let x1 := { x with fault := true, held := if x.held.contains i then x.held else i :: x.held }
      let s1 := (s.blkSet n x i 1 (s.blkGet x i).2).setSes n (some x1)
      (match b with | some b => s1.mereSpread n 256 l [b] | none => s1).mereFree n

/-- An event that dirties a block, by its number. -/
def State.dirtyEvent (s : State) (n i : Nat) (own : Bool) : State :=
  match s.ses? n with
  | none => s
  | some x =>
    let l := i / x.nslot
    match s.logical x (i % x.nslot) with
    | none => s
    | some b =>
      let r := s.blkEvent n l b own
      if r.2 then r.1.mereSpread n 256 l [b] else r.1

/-- One event of a session is applied; reads that wait look (R308, R318, R320). -/
def State.mereEvent (s : State) (n : Nat) (d : MereDefer) : State :=
  ((match d with
    | .commit c => s.commitEvent n c
    | .fault l k => s.faultEvent n l k
    | .event i own => s.dirtyEvent n i own).mereNext n).sesLook n

/-- The block of a task that completed as faulted, or of an entry that quarantine removed (R163, R313): an event of its session, in its turn (R308). -/
def State.mereHold (s : State) (m : MereTask) : State := s.mapSes m.ses fun x => { x with queue := x.queue ++ [.fault m.layer m.block] }

/-- Does a predicate judge the tokens of an edit of the session (R317)? -/
def Session.judging (x : Session) : Bool := x.pred.isSome || x.accepted != 0

/-- COMMIT_STEP (R308, R311, R312): the event that comes next in session order, else the oldest commit of the session whose step is still to come. -/
def execCommitStep (ses : BitVec 12) (s : State) : Out :=
  let n := ses.toNat
  match s.ses? n with
  | none => .next s
  | some x => match x.queue, x.commits with
    | d :: ds, _ => .next ((s.setSes n (some { x with queue := ds })).mereEvent n d)
    | [], c :: cs => .next ((s.setSes n (some { x with commits := cs })).mereEvent n (.commit c))
    | [], [] => .next s

/-- What the tracker's reads of a block and of its inputs leave, as it makes an insertion. -/
def State.insertRead (s : State) (x : Session) (l b : Nat) : State :=
  let e := x.layer l
  (if l = 0 then [] else inputs (layPat e) (layWin e) b).foldl (fun t j => t.blockRead x (l - 1) j) (s.blockRead x l b)

/-- RECOMPUTE_INSERT (R309): the task of a wanted block is inserted; a full Basin, or an edit whose tokens are being judged (R317), leaves it wanted, a refusal holds the block. -/
def execRecomputeInsert (ses : BitVec 12) (l b : Nat) (s : State) : Out :=
  let n := ses.toNat
  match s.ses? n with
  | none => .next s
  | some x =>
    let i := s.blkNum x l b
    .next (if !(s.die (n / 1024 % 4)).want.contains (n, i) || decide (x.nl ≤ l) || decide (x.nblk ≤ b) || x.judging then s
    else if !s.insertable x l b then s.unwant n (· == i)
    else match (s.insertRead x l b).mereInsert n x l b false with
      | .full => s
      | .made t => (t.unwant n (· == i)).mereNext n
      | .refused t => (t.unwant n (· == i)).mereEvent n (.fault l (s.slotOf x b)))

end Sys2Proof.Machine
end

