-- ==== Sys2Proof/Machine/Edit.lean ====
section
/-! DEFINITION. Edits of tracked sessions (R314 to R316) and the end-of-sequence predicate (R317), applied at their turn in session order. -/
namespace Sys2Proof.Machine

/-- Kinds of edit (R315, FUNC 0 to 3). -/
def editChgK : Nat := 0
/-- See `editChgK`. -/
def editInsK : Nat := 1
/-- See `editChgK`. -/
def editDelK : Nat := 2
/-- See `editChgK`. -/
def editAppK : Nat := 3

/-- Session of an edit record (R314). -/
def EditReq.session (e : EditReq) : Nat := bitsN e.w[0] 63 52
/-- POS of an edit record (R314). -/
def EditReq.pos (e : EditReq) : Nat := bitsN e.w[0] 20 0
/-- LEN of an edit record (R314). -/
def EditReq.len (e : EditReq) : Nat := bitsN e.w[1] 20 0
/-- TOKSRC of an edit record (R314). -/
def EditReq.src (e : EditReq) : W64 := putBits e.w[2] 1 0 0
/-- Is the edit one whose tokens the predicate sees (R317)? -/
def EditReq.judged (e : EditReq) (x : Session) : Bool := e.kind == editAppK && e.cb && bitsN x.w[6] 63 3 != 0

/-- Address of the token at offset `o` of slot `k` (R302). -/
def Session.tokAddr (x : Session) (k o : Nat) : W64 := putBits x.w[1] 5 0 0 + w64 (4 * (k * x.bt + o))
/-- Address of the token at a logical position. -/
def State.tokAt (s : State) (x : Session) (p : Nat) : W64 := x.tokAddr (s.slotOf x (p / x.bt)) (p % x.bt)
/-- The token at a logical position. -/
def State.token (s : State) (x : Session) (p : Nat) : Nat := s.superWord x.part (s.tokAt x p) 4
/-- Writes tokens from a logical position on (R316, R387). -/
def State.putTokens (s : State) (n : Nat) (x : Session) (p : Nat) (ts : List Nat) : State :=
  ts.zipIdx.foldl (fun t (v, i) => t.bookWrite (n / 1024 % 4) 5 x.part (t.tokAt x (p + i)) (leBytes 4 v)) s

/-- Ids `i` to `i + m - 1` of a request; `none` where a read of one faults (R316). -/
def State.readTokens (s : State) (x : Session) (e : EditReq) (i m : Nat) : Option (List Nat) :=
  (List.range m).foldr (fun j acc => match acc, s.superRead x.part (e.src + w64 (4 * (i + j))) 4 with
    | some l, .ok bs => some (leNat bs :: l)
    | _, _ => none) (some [])

/-- What reads of the ids of n tokens of the session from position p on leave (R203, R207). -/
def State.idsRead (s : State) (x : Session) (p n : Nat) : State := (List.range n).foldl (fun t i => t.superSeen x.part (s.tokAt x (p + i)) 4) s
/-- What the reads of an edit's token ids leave (R203, R207). -/
def State.tokensSeen (s : State) (x : Session) (e : EditReq) : State := if e.kind = editDelK then s else s.spanSeen x.part e.src (4 * e.len)

/-- Slots that hold no logical block, ascending (R316). -/
def State.freeSlots (s : State) (x : Session) : List Nat :=
  let used := s.slotList x
  (List.range x.nslot).filter fun k => !used.contains k

/-- Writes the slot map from logical block b on (R302). -/
def State.putMap (s : State) (n : Nat) (x : Session) (b : Nat) (ks : List Nat) : State :=
  ks.zipIdx.foldl (fun t (k, i) => t.bookWrite (n / 1024 % 4) 5 x.part (x.w[2] + w64 (2 * (b + i))) (leBytes 2 k)) s

/-- Newly allocated slots start at version 0, DIRTY in every layer (R307). -/
def State.newSlots (s : State) (n : Nat) (x : Session) (ks : List Nat) : State :=
  (List.range x.nl).foldl (fun t l => ks.foldl (fun t k => t.blkSet n x (l * x.nslot + k) 1 0) t) s

/-- Sets NTOK and writes the descriptor (R302). -/
def State.setNtok (s : State) (n m : Nat) : State :=
  match s.ses? n with
  | some x => s.putSes n { x with ntok := m }
  | none => s

/-- What a slot that an edit frees leaves behind in the tracker. -/
def Session.forget (x : Session) (ks : List Nat) : Session :=
  let gone (i : Nat) : Bool := ks.contains (i % x.nslot)
  let keep (d : MereDefer) : Bool := match d with | .event i _ => !gone i | .commit c => !ks.contains c.slot | .fault _ k => !ks.contains k
  { x with
    held := x.held.filter (!gone ·)
    commits := x.commits.filter fun c => !ks.contains c.slot
    queue := x.queue.filter keep
    deferred := x.deferred.filter keep }

/-- Changed token blocks dirty their dependents in layer 0 (R316). -/
def State.tokensChanged (s : State) (n : Nat) (bs : List Nat) : State :=
  match s.ses? n with
  | none => s
  | some x =>
    let e := x.layer 0
    let ds := (bs.flatMap fun b => dependents (layPat e) (layWin e) b x.nblk).eraseDups
    ds.foldl (fun t d => t.mereHit n 0 d) s

/-- Token blocks from the one of a position to the new end. -/
def Session.blocksFrom (x : Session) (p : Nat) : List Nat := (List.range x.nblk).drop (p / x.bt)

/-- The tasks at or after block b0 are aborted and each of their blocks becomes DIRTY (R316), also one that an input's dirtying before it has left VALID. -/
def State.abortFrom (s : State) (n : Nat) (x : Session) (b0 : Nat) : State :=
  let bs := (List.range x.nl).flatMap fun l => ((List.range x.nblk).drop b0).filterMap fun b =>
    let st := (s.blkGet x (s.blkNum x l b)).1
    if st = 2 ∨ st = 3 then some (l, b) else none
  bs.foldl (fun t p => t.mereHit n p.1 p.2) s

/-- After NTOK has changed: the blocks from that of position p on count as changed. -/
def State.endChanged (s : State) (n p : Nat) : State :=
  match s.ses? n with
  | some x => (s.tokensChanged n (x.blocksFrom p)).mereNext n
  | none => s

/-- Appends tokens (R316): new slots for the blocks they begin. -/
def State.editApp (s : State) (n : Nat) (x : Session) (ts : List Nat) : State :=
  let p := x.ntok
  let ks := (s.freeSlots x).take (x.blocksOf (p + ts.length) - x.nblk)
  let s1 := ((s.putMap n x x.nblk ks).newSlots n x ks).putTokens n x p ts
  (s1.setNtok n (p + ts.length)).endChanged n p

/-- Replaces tokens (R316): blocks in which an id differs count as changed. -/
def State.editChg (s : State) (n : Nat) (x : Session) (p : Nat) (ts : List Nat) : State :=
  let bs := (ts.zipIdx.filterMap fun (v, i) => if s.token x (p + i) = v then none else some ((p + i) / x.bt)).eraseDups
  ((((s.idsRead x p ts.length).putTokens n x p ts)).tokensChanged n bs).mereNext n

/-- Inserts tokens (R316): whole blocks are spliced into the slot map, else the tokens above move up. -/
def State.editIns (s : State) (n : Nat) (x : Session) (p : Nat) (ts : List Nat) : State :=
  let m := x.ntok + ts.length
  let b0 := p / x.bt
  let old := s.slotList x
  let ks := (s.freeSlots x).take (x.blocksOf m - x.nblk)
  let up := (List.range (x.ntok - p)).map fun i => s.token x (p + i)
  let s1 := s.abortFrom n x b0
  let s2 :=
    if p % x.bt = 0 ∧ ts.length % x.bt = 0 then (s1.putMap n x b0 (ks ++ old.drop b0)).putTokens n x p ts
    else ((s1.idsRead x p (x.ntok - p)).putMap n x x.nblk ks).putTokens n x p (ts ++ up)
  ((s2.newSlots n x ks).setNtok n m).endChanged n p

/-- Deletes `len` tokens (R316): whole blocks leave the slot map, else the tokens above move down; slots left unused are freed. -/
def State.editDel (s : State) (n : Nat) (x : Session) (p len : Nat) : State :=
  let m := x.ntok - len
  let b0 := p / x.bt
  let old := s.slotList x
  let down := (List.range (m - p)).map fun i => s.token x (p + len + i)
  let s1 := s.abortFrom n x b0
  let splice := p % x.bt = 0 ∧ len % x.bt = 0
  let gone := if splice then (old.drop b0).take (len / x.bt) else old.drop (x.blocksOf m)
  let s2 := if splice then s1.putMap n x b0 (old.drop (b0 + len / x.bt)) else (s1.idsRead x (p + len) (m - p)).putTokens n x p down
  (((s2.mapSes n (·.forget gone)).unwant n fun i => gone.contains (i % x.nslot)).setNtok n m).endChanged n p

/-- The check of R316 that an edit fails, as its OUTCOME; else its token ids. -/
def State.editCheck (s : State) (x : Session) (e : EditReq) : Except Nat (List Nat) :=
  let room := decide (x.blocksOf (x.ntok + e.len) - x.nblk ≤ (s.freeSlots x).length)
  let bad : Option Nat :=
    match e.kind with
    | 0 => if x.ntok < e.pos + e.len then some 3 else none
    | 1 => if x.ntok < e.pos then some 3 else if room then none else some 4
    | 2 => if x.ntok < e.pos + e.len then some 3 else none
    | _ => if x.ended then some 5 else if room then none else some 4
  match bad with
  | some c => .error c
  | none =>
    if e.kind = editDelK then .ok []
    else match s.readTokens x e 0 e.len with
      | some l => .ok l
      | none => .error 6

/-- The edit at the head is finished (R315): W4 to W7, then W3 with DONE; NAPP, and the token that ended processing. The reads behind it come next in session order (R308). -/
def State.editFinish (s : State) (n : Nat) (e : EditReq) (outcome napp tidx tok : Nat) : State :=
  let d := n / 1024 % 4
  let late := match s.ses? n with | some x => x.timedOut | none => false
  let s1 := s.bookWrite d 6 e.part (e.recAt + 32) (leBytes 8 napp ++ leBytes 8 (tidx * 2 ^ 32 + tok % 2 ^ 32) ++ List.replicate 16 0)
  let s2 := s1.bookWrite d 6 e.part (e.recAt + 24) (leBytes 8 (outcome * 2 ^ 60 + late.toNat * 2 ^ 59 + 1))
  (s2.mapSes n fun x => { x with
    edits := x.edits.drop 1, accepted := 0, timedOut := false
    waits := x.waits.map fun w => (w.1, w.2 - 1) }).sesLook n

/-- EDIT_APPLY (R316): the edit at the head of the session order. One that the predicate judges is checked, and its first token handed to it. -/
def execEditApply (ses : BitVec 12) (s : State) : Out :=
  let n := ses.toNat
  .next (match s.ses? n with
    | none => s
    | some x => match x.edits with
      | [] => s
      | e :: _ =>
        if x.judging || !x.queue.isEmpty then s
        else match s.editCheck x e with
          | .error c => (if c = 6 then s.tokensSeen x e else s).editFinish n e c 0 0 0
          | .ok ts =>
            let s := (s.mapRead x).tokensSeen x e
            if e.judged x then s.soon [.predicateRun ses]
            else
              let s1 := match e.kind with
                | 0 => s.editChg n x e.pos ts
                | 1 => s.editIns n x e.pos ts
                | 2 => s.editDel n x e.pos e.len
                | _ => s.editApp n x ts
              s1.editFinish n e 0 e.len 0 0)

/-- May a control hart run a predicate: it runs, waits for nothing, and nothing of it is under way elsewhere? -/
def State.predFree (s : State) (id : Nat) : Bool :=
  let h := s.getHart id
  let mine (q : CopyReq) : Bool := q.owed && q.hart == id
  h.run == .running && (s.predOf id).isNone && !h.older && h.sbuf.isEmpty && h.flight.isEmpty && h.walks.isEmpty &&
    h.trap.isNone && h.redo.isNone && h.wait == .none && h.flintOut == 0 && h.tarnOut == 0 &&
    !(s.core (coreIx id)).fifo.any mine && !s.dev.copies.any (mine ·.req)

/-- The control hart as it starts a predicate (R317): user mode in the session's partition, with the token, the session, the position and PREDARG. -/
def predHart (h : Hart) (x : Session) (n tok : Nat) : Hart :=
  let h0 := ({ Hart.reset with
    run := .running, fno := h.fno, pc := putBits x.w[6] 2 0 0
    g := (((Hart.reset.g.set 1 (w64 tok)).set 2 (w64 n)).set 3 (w64 x.ntok)).set 4 x.w[7] } : Hart)
  h0.setReg .partid (w64 x.part)

/-- PREDICATE_RUN (R317): the next token goes to the lowest control hart of the home die that is free for it. -/
def execPredicateRun (ses : BitVec 12) (s : State) : Out :=
  let n := ses.toNat
  let d := n / 1024 % 4
  .next (match s.ses? n with
    | none => s
    | some x => match x.edits, x.pred with
      | e :: _, none =>
        if !e.judged x then s
        else match lowest 4 fun i => s.predFree (ctlHart d i) with
          | none => s
          | some i =>
            let id := ctlHart d i
            let h := s.getHart id
            let tok := s.superWord x.part (e.src + w64 (4 * x.accepted)) 4
            ((s.superSeen x.part (e.src + w64 (4 * x.accepted)) 4).setSes n (some { x with pred := some ⟨id, s.clk, h, x.accepted⟩ })).setHart id (predHart h x n tok)
      | _, _ => s)

/-- The hart goes on as it stood before the predicate, with the interrupts and stores that came since. -/
def PredRun.back (p : PredRun) (h : Hart) : Hart :=
  { p.saved.setReg .intpend (p.saved.reg .intpend ||| h.reg .intpend) with fno := h.fno + 1, sbuf := h.sbuf }

/-- A predicate ends (R317): `res` is (g10, g11) of its `ecall`; a timeout, another trap or another code counts as ACCEPT. -/
def State.predEnd (s : State) (n : Nat) (res : Option (W64 × W64)) : State :=
  match s.ses? n with
  | none => s
  | some x => match x.pred, x.edits with
    | some p, e :: _ =>
      let s0 := ((s.withdraw p.hart).orphan p.hart).setHart p.hart (p.back (s.getHart p.hart))
      let tok := s.superWord x.part (e.src + w64 (4 * p.idx)) 4
      let code : Nat := match res with | some (c, _) => if c.toNat ≤ 3 then c.toNat else 4 | none => 4
      let put : Nat := match res with | some (_, r) => if code = 3 then bitsN r 31 0 else tok | none => tok
      let x1 := { x with
        pred := none, timedOut := x.timedOut || code == 4, ptmo := if code = 4 then (x.ptmo + 1) % 2 ^ 32 else x.ptmo
        ended := x.ended || code == 2, accepted := if code = 1 then x.accepted else x.accepted + 1 }
      let s1 := s0.putSes n x1
      if code = 1 then s1.editFinish n e 1 x1.accepted p.idx tok
      else
        let s2 := s1.editApp n x1 [put]
        if code = 2 then s2.editFinish n e 2 x1.accepted p.idx tok
        else if e.len ≤ x1.accepted then s2.editFinish n e 0 x1.accepted 0 0
        else s2.soon [.predicateRun (BitVec.ofNat 12 n)]
    | _, _ => s

/-- PREDICATE_TIMEOUT (R317): 20 µs are 36,000 clk. -/
def execPredicateTimeout (ses : BitVec 12) (s : State) : Out :=
  let n := ses.toNat
  .next (match s.ses? n with
    | some x => match x.pred with
      | some p => if 36000 < (s.clk - p.start).toNat then s.predEnd n none else s
      | none => s
    | none => s)

end Sys2Proof.Machine
end

