-- ==== Sys2Proof/Machine/Retire.lean ====
section
/-! DEFINITION. How tasks end otherwise than by `halt`: completion as faulted and quarantine (R163), discard (R162); and signals (R152). -/
namespace Sys2Proof.Machine

/-- A region's first fault sets FTAG and FCAUSE and is reported to the die (R163). -/
def State.firstFault (s : State) (d : Nat) (t : Task) (fc : Nat) : State :=
  let a := (t.eff.chain.headD (0, 0, 0)).1
  if s.faultOpen (t.part, a) then s
  else
    let s1 := s.reopen.rcbUpdate d t.part a 48 fun _ => w64 ((imgTag t.image).toNat * 2 ^ 32 + fc)
    let x := s1.die d
    s1.setDie d { x with faulted := if x.faulted.contains (t.part, a) then x.faulted else (t.part, a) :: x.faulted }

/-- Removes a Basin entry that quarantine takes (R163): LIVE, a Mere block, a context slot. -/
def State.dropEntry (s : State) (cl i : Nat) (e : Entry) : State :=
  let c := s.cluster cl
  let s1 := (s.setCluster cl { c with basin := kset none c.basin i none }).liveDown (cl / 512) e.part e.eff
  let s2 := match e.mere with | some m => s1.mereHold m | none => s1
  let s3 := s2.serve (cl / 512)
  match e.ctx with
  | none => s3.freeHand e.hand
  | some k => let x := s3.die (cl / 512); s3.setDie (cl / 512) { x with ctx := x.ctx.filter (· != k) }

/-- Quarantine of a fault domain (R163): every entry of the partition with its FDOM leaves Basin. -/
def State.quarantine (s : State) (t : Task) : State :=
  let s0 := { s with dev := { s.dev with quarantine := (t.part, t.eff.fdom, (t.eff.chain.headD (0, 0, 0)).1) :: s.dev.quarantine } }
  s0.clus.foldl (fun s (cl, c) => c.basin.foldl (fun s (i, oe) => match oe with
    | some e => if e.part = t.part ∧ e.eff.fdom = t.eff.fdom ∧ (s.cluster cl).entry i = some e then s.dropEntry cl i e else s
    | none => s) s) s0

/-- Completion of a task as faulted (R163): FAULTS, the first fault, LIVE, quarantine, its Mere block. -/
def State.completeFaulted (s : State) (id fc : Nat) : State :=
  match (s.getHart id).task with
  | none => s.setHart id (s.getHart id).parkedFrom
  | some t =>
    let d := dieOf id
    let a := (t.eff.chain.headD (0, 0, 0)).1
    let s1 := ((s.flushStores id).endTask id [] false).rcbUpdate d t.part a 40 fun w => putBits w 31 0 (bitsN w 31 0 + 1)
    let s2 := (s1.firstFault d t fc).liveDown d t.part t.eff
    let s3 := match t.mere with | some m => s2.mereHold m | none => s2
    if t.eff.quarantine then s3.quarantine t else s3

/-- A buffered task is discarded and its entry returns to Basin; its stores to core space stand (R162). -/
def State.discardTask (s : State) (id : Nat) (exclusive : Bool) : State :=
  match (s.getHart id).task with
  | none => s
  | some t =>
    let e : Entry := { t.entry s.clk with exclusive := exclusive }
    -- the handed range stays with the entry, so it is not freed
    let s1 := ((((((s.flushStores id).withdraw id).preEnd id).orphan id).mxEnd id false).freeUnits id []).setHart id (s.getHart id).parkedFrom
    s1.insertOrWait (clusOf id) e

/-- A signal reaches every slice of the device (R152): matching entries count it, else LOSTSIG of the region of the issuing task. DESIGN CHOICE: LOSTSIG saturates at 2^32 - 1, where FAULTS and LIVE wrap; the spec says neither (log entry 18). -/
def State.signal (s : State) (tag : W32) (part : Nat) (region : Option W64) (d : Nat) : State :=
  let hit (e : Entry) : Bool := imgTag e.image == tag && e.part == part
  let any := s.clus.any fun (_, c) => c.basin.any fun (_, oe) => match oe with | some e => hit e | none => false
  if any then
    { s with clus := s.clus.map fun (k, c) => (k, { c with basin := c.basin.map fun (i, oe) =>
        (i, match oe with | some e => some (if hit e then e.arrive s.clk else e) | none => none) }) }
  else match region with
    | none => s
    | some a => s.rcbUpdate d part a 56 fun w => putBits w 31 0 (min (2 ^ 32 - 1) (bitsN w 31 0 + 1))

end Sys2Proof.Machine
end

