-- ==== Sys2Proof/Machine/Ops.lean ====
section
/-! DEFINITION. The named operations of a hart: waiting (R104), retiring a frame's A word and sending its B word (R14, R83, R86), rollback (R23), taking a trap (R25, R340) and returning from one (R102), the cut of an interrupt (R342), retiring a B word (R85). -/
namespace Sys2Proof.Machine

/-- Counts a capture event on the counters that select it (R354). -/
def Hart.capCount (h : Hart) (ev : Nat) : Hart :=
  if (h.reg .capstat).getLsbD 63 then
    let sel := h.reg .capsel
    let up (h : Hart) (r : HReg) (i : Nat) : Hart := if bitsN sel (8 * i + 7) (8 * i) = ev then h.setReg r (h.reg r + 1) else h
    up (up (up (up h .capctr0 0) .capctr1 1) .capctr2 2) .capctr3 3
  else h

/-- The access stream waits: nothing else of the hart changes (R104). -/
def Hart.stallA (h : Hart) (now : W64) (w : Why) : Hart :=
  { h with aStall := some w, aWhy := some w, stallAt := if h.aStall.isSome then h.stallAt else now }
/-- The execute stream waits (R110). -/
def Hart.stallB (h : Hart) (w : Why) : Hart := { h with bStall := some w, bWhy := some w }
/-- The A instruction waits and executes again (R104). -/
def State.waitA (s : State) (w : Why) : State := s.mapHart (·.stallA s.clk w)
/-- The B instruction waits and issues again (R110). -/
def State.waitB (s : State) (w : Why) : State := s.mapHart (·.stallB w)

/-- What R83 does when the frame at F completes without a taken control transfer: the next frame and the loop stack. -/
def loopNext (f : W64) : List LoopEnt → W64 × List LoopEnt
  | [] => (f + 8, [])
  | e :: es =>
    if e.last = f then
      if e.count - 1 = 0 then loopNext f es else (e.start, { e with count := e.count - 1 } :: es)
    else (f + 8, e :: es)

/-- What R84 does at a taken control transfer from F to a target: the loop stack. `call` is a call, whose second rule does not apply. -/
def loopTaken (f target : W64) (call : Bool) (l : List LoopEnt) : List LoopEnt :=
  let l1 := match l with | e :: es => if e.last = f then es else e :: es | [] => []
  if call then l1
  else l1.dropWhile fun e => decide (e.start ≤ f) && decide (f ≤ e.last) && !(decide (e.start ≤ target) && decide (target ≤ e.last))

/-- The access-stream state that a B word of the frame carries (R23). -/
def Hart.snap (h : Hart) (npc : W64) : Snap := ⟨h.g, npc, h.loops, h.reg .fmode, h.reg .lperm, h.reg .vshare, h.reg .mstat &&& 0xFF0⟩

/-- The B word that stands beside the A word in the frame at PC (R14): none in a lone A frame or beside a zero word. -/
def Hart.bWord? (h : Hart) : Option W32 :=
  match h.fr with
  | some (w0, w1) => if w0.getLsbD 31 || w1 == 0 then none else some w1
  | none => none

/-- Sequencer entries of repetitions of a B word, from repetition `j` on (R15, R86). -/
def repEntries (e : SeqEnt) (j : Nat) : Nat → List SeqEnt
  | 0 => []
  | n + 1 => { e with rep := j } :: repEntries e (j + 1) n

/-- Sends repetitions to the sequencer: the first at once, the others one by one (R15). -/
def Hart.send (h : Hart) (es : List SeqEnt) : Hart := { h with seq := h.seq ++ es.take 1, enter := es.drop 1 }

/-- The frame at PC ends: next frame, loop stack, its B word to the sequencer `n` times with the register steps of `rep` (R14, R15, R86); `solo` marks a B word that R100 makes illegal. -/
def Hart.endFrame (h : Hart) (npc : W64) (loops : List LoopEnt) (n sd s1 s2 : Nat) (solo : Bool) : Hart :=
  let h1 := ({ h with pc := npc, loops := loops, fr := none, fno := h.fno + 1, aStall := none, bStall := none, aWhy := none, wait := .none } : Hart).capCount 1
  match h.bWord? with
  | none => h1
  | some w => h1.send (repEntries ⟨h.pc, h.fno, w, none, if solo then some w else none, 0, sd, s1, s2, h1.snap npc, none⟩ 0 n)

/-- The A word completes without a taken control transfer (R83). -/
def Hart.retire (h : Hart) : Hart :=
  h.endFrame (loopNext h.pc h.loops).1 (loopNext h.pc h.loops).2 1 0 0 0 false
/-- The A word completes and its frame's B word, if any, is illegal (R100, R349). -/
def Hart.retireSolo (h : Hart) : Hart :=
  h.endFrame (loopNext h.pc h.loops).1 (loopNext h.pc h.loops).2 1 0 0 0 true
/-- The A word completes with a taken control transfer (R84). -/
def Hart.retireTo (h : Hart) (target : W64) (call : Bool) : Hart :=
  h.endFrame target (loopTaken h.pc target call h.loops) 1 0 0 0 false
/-- Could a trap of an older B word or store still discard what a frame does (R23)? -/
def Hart.discardable (h : Hart) (fno : Nat) : Bool :=
  ((h.seq ++ h.enter).any fun e => decide (e.fno < fno)) || h.walks.any fun w => w.back.isSome && decide (w.fno < fno)

/-- The record of a transfer that the A word at PC takes (R379): it is held while an older word may still discard it (R23). -/
def State.traceJump (s : State) : State :=
  if !s.traced s.hid then s
  else if s.hart.discardable s.hart.fno then s.mapHart fun h => { h with traces := h.traces ++ [(h.fno, h.pc, s.clk)] }
  else s.record s.hid 1 s.hart.pc s.clk

/-- Writes the held trace records of the current hart that nothing can discard any more, in order (R23, R379). -/
def State.traceDue (s : State) : State :=
  let due := s.hart.traces.takeWhile fun x => !s.hart.discardable x.1
  due.foldl (fun t x => t.record s.hid 1 x.2.1 x.2.2) (s.mapHart fun h => { h with traces := h.traces.drop due.length })

/-- The A word of the current hart completes with a taken control transfer, which a trace records (R379). -/
def State.retireTo (s : State) (target : W64) (call : Bool) : State :=
  s.traceJump.mapHart (·.retireTo target call)
/-- The A word of the current hart completes. -/
def State.retire (s : State) : State := s.mapHart Hart.retire
/-- The A word completes with a result in gd. -/
def State.retireG (s : State) (d : GReg) (x : W64) : State := s.mapHart fun h => (h.setG d x).retire

/-- The mode that takes a trap (R340). -/
def trapMode (ctl : Bool) (priv cause : Nat) : Nat :=
  if ctl then 3 else if priv = 0 then 1 else if priv = 1 then (if cause = 0x0A then 3 else 1) else 3

/-- The registers of a mode's trap bank: TVEC, TRAPCAUSE, TRAPPC, TRAPVAL, TRAPADDR, TRAPNPC, REPSTAT (R9, R72, R87). -/
structure Bank where
  tvec : HReg
  cause : HReg
  pc : HReg
  val : HReg
  addr : HReg
  npc : HReg
  rep : HReg
  deriving DecidableEq, Repr

/-- The bank of a mode: machine, else supervisor. -/
def bank (m : Nat) : Bank :=
  if m = 3 then ⟨.mtvec, .mcause, .mpc, .mval, .maddr, .mnpc, .mrep⟩ else ⟨.stvec, .scause, .spc, .sval, .saddr, .snpc, .srep⟩

/-- STATUS after entry into mode m (R25). -/
def trapStatus (st : W64) (m : Nat) (trb : Bool) : W64 :=
  let p := bitsN st 6 5
  let ie := bitsN st 3 3
  putBits (putBits (putBits (putBits (putBits (putBits st 11 11 trb.toNat) 10 9 (bitsN st 10 9 + 1)) 8 7 p) 6 5 m) 4 4 ie) 3 3 0

/-- Trap entry of R25 into mode m: the frame, the exception, TRB, the frame to continue at and the repetition. A stream fault so raised lets the `eret` from this depth restart its unit (R93). The handler's frames count on, so that a STEP of the trapped frame is not one of them (R377). -/
def Hart.enterTrap (h : Hart) (m : Nat) (e : Exn) (trb : Bool) (f npc : W64) (rep : Nat) : Hart :=
  let b := bank m
  let h1 := ((((((h.setReg b.cause (w64 e.cause)).setReg b.pc (putBits f 2 0 0)).setReg b.val e.val).setReg b.addr e.addr).setReg b.npc
    (putBits (if trb then npc else f + 8) 2 0 0)).setReg b.rep (if trb then w64 rep else 1)).setReg .status (trapStatus (h.reg .status) m trb)
  let h2 := if e.cause = 14 then h1.setStream (BitVec.ofNat 3 (bitsN e.val 2 0)) { h1.stream (BitVec.ofNat 3 (bitsN e.val 2 0)) with told := h.td + 1 } else h1
  ({ h2 with pc := h.reg b.tvec + w64 (64 * e.cause), fno := h.fno + 1, seq := [], enter := [], fr := none, redo := none, trap := none, aStall := none, bStall := none, aWhy := none, bWhy := none, lanes := 0, wait := .none, undo := [] } : Hart).capCount 7

/-- Takes a trap (R25, R340): depth exhausted or TVEC 0 completes the task as faulted (R163); on a control hart it stops the hart, sets recovery REASON 5 and interrupts the host (R384). Any trap ends an end-of-sequence predicate, an `ecall` with its result (R317). -/
def State.takeTrap (s : State) (e : Exn) (trb : Bool) (f npc : W64) (rep : Nat) : State :=
  let h := s.hart
  let m := trapMode s.ctl h.priv e.cause
  let s1 := s.withdraw s.hid
  match (if s.ctl then s.predOf s.hid else none) with
  | some n => s.predEnd n (if e.cause = 9 then some (h.rg 10, h.rg 11) else none)
  | none =>
  if 2 ≤ h.td ∨ h.reg (bank m).tvec = 0 then
    if s.ctl then
      let r := hostPage 0 + 0x2000
      let s2 := (s1.mapHart fun h => { h with run := .stopped, fr := none, aStall := none, bStall := none, aWhy := none, bWhy := none }).setReg r (putBits (s.getReg r) 7 0 5)
      { s2 with dev := { s2.dev with hostIrq := true } }
    else s1.completeFaulted s.hid (if 2 ≤ h.td then 0x80 + e.cause else e.cause)
  else (s1.trace s1.hid 2 f).mapHart (·.enterTrap m e trb f npc rep)

/-- Groups of a descriptor: N0, N1, N2 by DIMS (R91). -/
def Stream.total (x : Stream) : Nat :=
  bitsN x.desc[1] 15 0 * (if x.dims = 0 then 1 else bitsN x.desc[1] 31 16) * (if x.dims = 2 then bitsN x.desc[1] 47 32 else 1)

/-- Address of group g of a descriptor (R92). -/
def Stream.groupAddr (x : Stream) (g : Nat) : W64 :=
  let n0 := bitsN x.desc[1] 15 0
  let n1 := bitsN x.desc[1] 31 16
  let i1 := g / n0
  let mul (i : Nat) (st : BitVec 32) : W64 := w64 i * st.signExtend 64
  x.desc[0] + mul (g % n0) (x.desc[2].setWidth 32) + (if x.dims = 0 then 0 else mul (if x.dims = 1 then i1 else i1 % n1) (x.desc[3].setWidth 32))
    + (if x.dims = 2 then mul (i1 / n1) ((x.desc[3] >>> 32).setWidth 32) else 0)

/-- Bytes of a group: GLEN, 0 means 64 (R91). -/
def Stream.glen (x : Stream) : Nat := if bitsN x.desc[2] 38 32 = 0 then 64 else bitsN x.desc[2] 38 32
/-- Where the byte that an address of the current hart names lies, whatever the hart may do there: in a pool (R190), or in the frame of a local leaf (R203). -/
def State.landing (s : State) (a : W64) : Option Nat :=
  if a.getLsbD 63 then some (poolKey (coreNamed s.hid a) (bitsN a 17 0))
  else (s.leafAt s.part a).map fun p => pteFrame (w64 (s.rdN p.1 8)) + a.toNat % 2 ^ pageLog p.2

/-- Do m bytes at one address meet n bytes at another (R213): as they are written, or where they land, since a pool byte has two names (R190) and a frame may have two pages? -/
def State.meets (s : State) (a : W64) (m : Nat) (b : W64) (n : Nat) : Bool :=
  let share (x y : Nat) : Bool := decide (x < y + n) && decide (y < x + m)
  share a.toNat b.toNat || match s.landing a, s.landing b with
    | some x, some y => share x y
    | _, _ => false

/-- Queues whose stream began before a frame and holds a group not yet moved that meets n bytes at an address (R17, R214). -/
def State.queuesAhead (s : State) (fno : Nat) (a : W64) (n : Nat) : List Nat :=
  (List.range 8).filter fun q =>
    let x := s.hart.str[q]?.getD Stream.idle
    x.active && decide (x.fno < fno) && (List.range (x.total - x.next)).any fun i => s.meets (x.groupAddr (x.next + i)) x.glen a n
/-- Does an older stream still hold a group that meets n bytes at an address? -/
def State.groupAhead (s : State) (fno : Nat) (a : W64) (n : Nat) : Bool := !(s.queuesAhead fno a n).isEmpty

/-- Queues whose stream began before a frame and holds a group that has not moved (R212, R214). -/
def Hart.queuesBefore (h : Hart) (fno : Nat) : List Nat :=
  (List.range 8).filter fun q =>
    let x := h.str[q]?.getD Stream.idle
    x.active && decide (x.fno < fno) && decide (x.next < x.total)
/-- Does a stream of a frame before `fno` still hold a group that has not moved? -/
def Hart.groupsBefore (h : Hart) (fno : Nat) : Bool := !(h.queuesBefore fno).isEmpty

/-- Queues whose groups a buffered store waits for: those that meet it, and, if it releases, every older one (R214). -/
def State.storeQueues (s : State) (e : StoreEnt) : List Nat :=
  s.queuesAhead e.fno e.va e.data.length ++ if e.rel then s.hart.queuesBefore e.fno else []
/-- Does a buffered store wait for a group of an older stream? -/
def State.storeBehind (s : State) (e : StoreEnt) : Bool := !(s.storeQueues e).isEmpty

/-- The buffered stores that wait for no stream group, oldest first, `held` being the older ones that do: a store may pass those (R214), unless it meets one, releases, or is of the same frame. -/
def State.loose (s : State) (held : List StoreEnt) : List StoreEnt → List StoreEnt
  | [] => []
  | e :: es =>
    if s.storeBehind e || (!held.isEmpty && (e.rel || held.any fun x => x.fno == e.fno || s.meets x.va x.data.length e.va e.data.length)) then s.loose (held ++ [e]) es
    else e :: s.loose held es
/-- The stores of the current hart that no stream group holds up. -/
def State.looseStores (s : State) : List StoreEnt := s.loose [] s.hart.sbuf

/-- Is a store of a frame before `fno` still to be performed before a trap at `fno` is taken (R23)? One held behind a stream group is not awaited, because the group may need a B word that the trap discards (log entry 67). -/
def State.storing (s : State) (fno : Nat) : Bool := s.looseStores.any fun e => decide (e.fno < fno)

/-- A trap of the A word at PC (R23): taken once every older frame has retired its loads have landed and its stores are visible, else held by executing the word again; a data error, which has already retired its frame or unit, is held as found (R343), and so is a tracker fault, whose ground may be gone later (R318). -/
def State.trapA (s : State) (e : Exn) : State :=
  if s.hart.older || !s.hart.flight.isEmpty || s.storing s.hart.fno then
    (if e.cause = 8 ∨ e.cause = 0x19 then s.mapHart fun h => { h with trap := some e } else s.waitA .other)
  else s.takeTrap e false s.hart.pc (s.hart.pc + 8) 1

/-- Word 0 of the frame at PC, for TRAPVAL (R69). -/
def Hart.word0 (h : Hart) : W64 := match h.fr with | some (w0, _) => w0.setWidth 64 | none => 0
/-- An illegal-instruction trap at the A word, TRAPVAL its word 0 (R69). -/
def State.illegalA (s : State) : State := s.trapA ⟨2, s.hart.word0, 0⟩
/-- A misaligned-data trap at the A word (R89). -/
def State.misaligned (s : State) (a : W64) : State := s.trapA ⟨4, 0, a⟩

/-- Gives back what the frames from `n` on took from or put into the queues, the branch queue and the buffers (R22, R23). DESIGN CHOICE: where older B words have refilled the place of a popped bit or slot meanwhile, the popped one comes back in front of what they put, so that bq may hold 17 bits and a tail slot the older bytes (log entry 19). -/
def Hart.dropFrom (h : Hart) (n : Nat) : Hart :=
  let keep (e : QEnt) : Bool := match e with | .pend k => decide (k < n) | .full k => decide (k < n) | .fault k => decide (k < n)
  let q1 := h.q.map fun q => { q with ents := q.ents.filter keep }
  let back (h : Hart) (u : Undo) : Hart :=
    match u with
    | .bqPop k b => if n ≤ k then { h with bq := b :: h.bq } else h
    | .qPop k i x =>
      if n ≤ k then
        let q := h.rq i
        h.setQ i ⟨q.head - 1, .full 0 :: q.ents, q.slots.set (q.head - 1).toNat x⟩
      else h
    | .landed k i j x => if n ≤ k then h.setQ i { h.rq i with slots := (h.rq i).slots.set j.toNat x } else h
  let h1 := h.undo.foldl back { h with q := q1 }
  { h1 with
    seq := [], enter := [], fr := none, redo := none, undo := [], trap := none, aStall := none, bStall := none, aWhy := none, bWhy := none, lanes := 0
    sbuf := h1.sbuf.filter fun e => decide (e.fno < n)
    flight := h1.flight.filter fun e => decide (e.fno < n)
    walks := h1.walks.filter fun e => decide (e.fno < n)
    traces := h1.traces.filter fun e => decide (e.1 < n)
    mq := h1.mq.filter fun e => decide (e.fno < n)
    str := h1.str.map fun x => if n ≤ x.fno then Stream.idle else x }

/-- Sets the access stream back to what it was when the frames from `n` on had not begun (R23). -/
def Hart.restoreFrom (h : Hart) (n : Nat) (x : Snap) : Hart :=
  let h1 := h.dropFrom n
  (((({ h1 with g := x.g, pc := x.npc, loops := x.loops } : Hart).setReg .fmode x.fmode).setReg .lperm x.lperm).setReg .vshare x.vshare).setReg
    .mstat ((h1.reg .mstat &&& ~~~0xFF0) ||| x.gang)

/-- Sets the access stream back to what it was after the A word of a frame (R23). -/
def Hart.restore (h : Hart) (fno : Nat) (x : Snap) : Hart := h.restoreFrom (fno + 1) x

/-- The loop stack and next frame of a B word's frame as R85 builds them for a resident loop: at a trap of iteration i of n. -/
def SeqEnt.resume (e : SeqEnt) : Snap :=
  match e.res with
  | none => e.snap
  | some r =>
    if e.pc ≠ r.last then { e.snap with npc := e.pc + 8, loops := ⟨r.start, r.last, r.n - r.iter + 1⟩ :: e.snap.loops }
    else if r.n - r.iter = 0 then { e.snap with npc := r.last + 8 }
    else { e.snap with npc := r.start, loops := ⟨r.start, r.last, r.n - r.iter⟩ :: e.snap.loops }

/-- A trap of the B word at the head of the sequencer (R23, R72, R85, R87): younger frames are discarded, TRAPNPC is the frame the A word selected, REPSTAT its repetition. -/
def State.trapB (s : State) (e : Exn) : State :=
  match s.hart.seq with
  | [] => s.takeTrap e true s.hart.pc s.hart.pc 1
  | x :: _ =>
    if !(s.hart.flight.filter fun f => decide (f.fno ≤ x.fno)).isEmpty then s.waitB .queue
    else if s.storing x.fno then s.waitB .other
    else
      let sn := x.resume
      (s.mapHart (·.restore x.fno sn)).takeTrap e true x.pc sn.npc (x.rep + 1)

/-- The cut of R342: frame, TRB, next frame and first repetition, and the hart with younger frames discarded; a resident loop is cut at its body frame with TRB 0 (R85). -/
def Hart.cutAt (h : Hart) : (W64 × Bool × W64 × Nat) × Hart :=
  match h.seq ++ h.enter with
  | [] => match h.redo with
    | some (f, n) => ((f, true, h.pc, n), { h with redo := none, fr := none, aStall := none, bStall := none, aWhy := none, bWhy := none })
    | none => ((h.pc, false, h.pc + 8, 1), { h with fr := none, aStall := none, bStall := none, aWhy := none, bWhy := none, undo := [] })
  | e :: _ =>
    match e.res with
    | some r =>
      let h1 := h.restore e.fno { e.snap with npc := e.pc, loops := ⟨r.start, r.last, r.n - r.iter + 1⟩ :: e.snap.loops }
      ((e.pc, false, e.pc + 8, 1), h1)
    | none => ((e.pc, true, e.snap.npc, e.rep + 1), h.restore e.fno e.snap)

/-- The return of R102 from mode m's registers: STATUS, then PC, or the B word at TRAPPC from repetition REPSTAT.NEXT and PC := TRAPNPC. -/
def eretStatus (st : W64) : W64 :=
  let pp := bitsN st 8 7
  let pie := bitsN st 4 4
  putBits (putBits (putBits (putBits (putBits (putBits st 11 11 0) 10 9 (bitsN st 10 9 - 1)) 8 7 0) 6 5 pp) 4 4 0) 3 3 pie

/-- Return from a stream fault (R93): the unit of a queue that stopped at a fault whose trap this `eret` leaves issues the group again, into the same slot. -/
def Hart.resumeStream (h : Hart) (q : BitVec 3) : Hart :=
  let x := h.stream q
  if x.faulted && x.told != 0 && x.told == h.td then
    let keep (e : QEnt) : Bool := match e with | .fault _ => false | _ => true
    (h.setQ q { h.rq q with ents := (h.rq q).ents.filter keep }).setStream q { x with faulted := false, told := 0 }
  else h

/-- `eret` of the current mode (R102). -/
def Hart.returnFrom (h : Hart) : Hart :=
  let b := bank h.priv
  let trb := (h.reg .status).getLsbD 11
  let h0 := ((List.range 8).map (BitVec.ofNat 3)).foldl Hart.resumeStream h
  let h1 := h0.setReg .status (eretStatus (h.reg .status))
  if trb then { h1 with pc := h.reg b.npc, redo := some (h.reg b.pc, bitsN (h.reg b.rep) 6 0) }
  else { h1 with pc := h.reg b.pc }

/-- Removes the head of the words on their way; a B word of a resident loop with iterations left goes behind the loop's other words (R85). -/
def seqPop : List SeqEnt → List SeqEnt
  | [] => []
  | e :: es =>
    match e.res with
    | none => es
    | some r =>
      if r.iter = r.n then es
      else
        let same (x : SeqEnt) : Bool := match x.res with | some y => y.id == r.id | none => false
        es.takeWhile same ++ { e with res := some { r with iter := r.iter + 1 } } :: es.dropWhile same

/-- The sequencer, and the words still to enter it, once the head has retired (R15): a word of a resident loop that issues again leaves no place free (R85). -/
def Hart.seqNext (h : Hart) : List SeqEnt × List SeqEnt :=
  let l := seqPop (h.seq ++ h.enter)
  let n := if l.length = (h.seq ++ h.enter).length then h.seq.length else h.seq.length - 1
  (l.take n, l.drop n)

/-- The B word at the head of the sequencer retires (R23); the waiting access stream looks again. What younger frames took is kept while an older word or store could still discard them. -/
def Hart.retireB (h : Hart) : Hart :=
  let q := h.seqNext
  ({ h with
    seq := q.1, enter := q.2, bStall := none, aStall := none, bWhy := none, lanes := 0
    undo := if q.1.isEmpty && q.2.isEmpty && !(h.walks.any (·.back.isSome)) then [] else h.undo } : Hart).capCount 2

/-- Rounding mode of the B word at the head of the sequencer (R13). -/
def Hart.bRm (h : Hart) : Nat := bitsN (match h.seq with | e :: _ => e.snap.fmode | [] => h.reg .fmode) 1 0
/-- LPERM of the B word at the head of the sequencer (R13). -/
def Hart.bLperm (h : Hart) : W64 := match h.seq with | e :: _ => e.snap.lperm | [] => h.reg .lperm

/-- Nothing older is unretired, no store is buffered, no load is in flight and every A and D update is made (R203): a strong access may be performed (R22, R214). -/
def Hart.quiet (h : Hart) : Bool := !h.older && h.sbuf.isEmpty && h.flight.isEmpty && h.walks.isEmpty

/-- TRAPVAL of a stream fault: queue in [2:0], group in [47:16] (R93). -/
def streamVal (q : BitVec 3) (g : Nat) : W64 := w64 (q.toNat + g % 2 ^ 32 * 65536)
/-- The stream-fault trap of a stopped stream, raised at a later A instruction (R93); `eret` lets the unit go on. -/
def State.trapUnit (s : State) (q : BitVec 3) : State :=
  let x := s.hart.stream q
  s.trapA ⟨14, streamVal q x.next, x.groupAddr x.next⟩

/-- An instruction waits for the streams of some queues. DESIGN CHOICE: the fault of one that has stopped is raised at it, though R93 names other instructions, because the hart could not go on (log entry 67). -/
def State.waitStreams (s : State) (qs : List Nat) : State :=
  match qs.find? fun q => (s.hart.str[q]?.getD Stream.idle).faulted with
  | some q => s.trapUnit (BitVec.ofNat 3 q)
  | none => s.waitA .other
/-- An instruction waits for the hart's older words, stores, loads and walks, and for the streams that its stores wait for. -/
def State.waitDrain (s : State) : State := s.waitStreams (s.hart.sbuf.flatMap s.storeQueues)

/-- A meaning of an instruction that may not run ahead of older B words (R23). -/
def State.whenRetired (s : State) (f : State → State) : State := if s.hart.older then s.waitA .other else f s
/-- A meaning that is strong (R22, R214). -/
def State.whenQuiet (s : State) (f : State → State) : State := if s.hart.quiet then f s else s.waitDrain
/-- Is every earlier access performed: is the hart quiet, and has every stream moved its groups (R212, R214)? -/
def Hart.settled (h : Hart) : Bool := h.quiet && !h.groupsBefore h.fno
/-- A meaning that waits for every group of the hart's streams, at a scope beyond the hart: at `.hart` a release has no other observer (R210). -/
def State.whenMoved (s : State) (c : Scope) (f : State → State) : State :=
  if c ≠ .hart ∧ s.hart.groupsBefore s.hart.fno then s.waitStreams (s.hart.queuesBefore s.hart.fno) else f s
/-- A meaning that releases at a scope (R214). -/
def State.whenReleased (s : State) (c : Scope) (f : State → State) : State := s.whenMoved c (·.whenQuiet f)
/-- A meaning that touches n bytes, after the older stream groups that meet them (R17, R213). -/
def State.whenClear (s : State) (a : W64) (n : Nat) (f : State → State) : State :=
  if s.groupAhead s.hart.fno a n then s.waitStreams (s.queuesAhead s.hart.fno a n) else f s

/-- Wakes the streams of a hart, because something that they may wait on has moved. -/
def Hart.wake (h : Hart) : Hart := { h with aStall := none, bStall := none }
/-- Is it a wait that only the hart's own streams, loads and stream units end? What ends it wakes the hart at once, so its start stands (R19). -/
def Why.own : Why → Bool
  | .queue => true
  | .bq => true
  | .seqFull => true
  | .halt => true
  | _ => false
/-- Lets a waiting instruction look again, unless its wait is the hart's own affair. -/
def Hart.look (h : Hart) : Hart :=
  { h with
    aStall := match h.aStall with | some w => if w.own then some w else none | none => none
    bStall := match h.bStall with | some w => if w.own then some w else none | none => none }
/-- Every waiting instruction looks again. -/
def State.wakeAll (s : State) : State :=
  { s with hart := s.hart.look, others := s.others.map fun (i, h) => (i, h.look) }

end Sys2Proof.Machine
end

