-- ==== Sys2Proof/Machine/Alu.lean ====
section
/-! DEFINITION. Integer arithmetic of the access stream (R73 to R77): results modulo 2^64, no flag, no trap; the frame then completes (R83). -/
namespace Sys2Proof.Machine

/-- Signed quotient of R73 and R74: 0 for b = 0, and -2^63 for -2^63 by -1. -/
def divS (a b : W64) : W64 := if b = 0 then 0 else BitVec.ofInt 64 (a.toInt.tdiv b.toInt)
/-- Unsigned quotient of R73 and R74: 0 for b = 0. -/
def divU (a b : W64) : W64 := if b = 0 then 0 else w64 (a.toNat / b.toNat)

/-- The binary operations of major 0x01 (R73). -/
inductive AluOp where
  | add | sub | and | or | xor | sll | srl | sra | slt | sltu | mul | mulh | mulhu | div | divu | rem | remu | min | max | minu | maxu
  deriving DecidableEq, Repr

/-- g[gd] of R73 from a = g[gs1] and b = g[gs2]. -/
def alu (op : AluOp) (a b : W64) : W64 :=
  match op with
  | .add => a + b
  | .sub => a - b
  | .and => a &&& b
  | .or => a ||| b
  | .xor => a ^^^ b
  | .sll => a <<< (b.toNat % 64)
  | .srl => a >>> (b.toNat % 64)
  | .sra => a.sshiftRight (b.toNat % 64)
  | .slt => w64b (a.slt b)
  | .sltu => w64b (a.ult b)
  | .mul => a * b
  | .mulh => BitVec.ofInt 64 (a.toInt * b.toInt / 2 ^ 64)
  | .mulhu => w64 (a.toNat * b.toNat / 2 ^ 64)
  | .div => divS a b
  | .divu => divU a b
  | .rem => a - b * divS a b
  | .remu => a - b * divU a b
  | .min => if b.slt a then b else a
  | .max => if a.slt b then b else a
  | .minu => if b.ult a then b else a
  | .maxu => if a.ult b then b else a

/-- A register instruction of R73. -/
def State.aluReg (s : State) (op : AluOp) (d a b : GReg) : Out := .next (s.retireG d (alu op (s.g a) (s.g b)))
/-- An instruction with a second operand from its word (R75, R77). -/
def State.aluImm (s : State) (op : AluOp) (d a : GReg) (i : W64) : Out := .next (s.retireG d (alu op (s.g a) i))

/-- `add` (R73). -/
def execAdd (d a b : GReg) (s : State) : Out := s.aluReg .add d a b
/-- `sub` (R73). -/
def execSub (d a b : GReg) (s : State) : Out := s.aluReg .sub d a b
/-- `and` (R73). -/
def execAnd (d a b : GReg) (s : State) : Out := s.aluReg .and d a b
/-- `or` (R73). -/
def execOr (d a b : GReg) (s : State) : Out := s.aluReg .or d a b
/-- `xor` (R73). -/
def execXor (d a b : GReg) (s : State) : Out := s.aluReg .xor d a b
/-- `sll` (R73). -/
def execSll (d a b : GReg) (s : State) : Out := s.aluReg .sll d a b
/-- `srl` (R73). -/
def execSrl (d a b : GReg) (s : State) : Out := s.aluReg .srl d a b
/-- `sra` (R73). -/
def execSra (d a b : GReg) (s : State) : Out := s.aluReg .sra d a b
/-- `slt` (R73). -/
def execSlt (d a b : GReg) (s : State) : Out := s.aluReg .slt d a b
/-- `sltu` (R73). -/
def execSltu (d a b : GReg) (s : State) : Out := s.aluReg .sltu d a b
/-- `mul` (R73). -/
def execMul (d a b : GReg) (s : State) : Out := s.aluReg .mul d a b
/-- `mulh` (R73). -/
def execMulh (d a b : GReg) (s : State) : Out := s.aluReg .mulh d a b
/-- `mulhu` (R73). -/
def execMulhu (d a b : GReg) (s : State) : Out := s.aluReg .mulhu d a b
/-- `div` (R73). -/
def execDiv (d a b : GReg) (s : State) : Out := s.aluReg .div d a b
/-- `divu` (R73). -/
def execDivu (d a b : GReg) (s : State) : Out := s.aluReg .divu d a b
/-- `rem` (R73). -/
def execRem (d a b : GReg) (s : State) : Out := s.aluReg .rem d a b
/-- `remu` (R73). -/
def execRemu (d a b : GReg) (s : State) : Out := s.aluReg .remu d a b
/-- `min` (R73). -/
def execMin (d a b : GReg) (s : State) : Out := s.aluReg .min d a b
/-- `max` (R73). -/
def execMax (d a b : GReg) (s : State) : Out := s.aluReg .max d a b
/-- `minu` (R73). -/
def execMinu (d a b : GReg) (s : State) : Out := s.aluReg .minu d a b
/-- `maxu` (R73). -/
def execMaxu (d a b : GReg) (s : State) : Out := s.aluReg .maxu d a b
/-- `addi` (R75): the immediate is sign-extended. -/
def execAddi (d a : GReg) (i : BitVec 14) (s : State) : Out := s.aluImm .add d a (i.signExtend 64)
/-- `andi` (R75): the immediate is sign-extended. -/
def execAndi (d a : GReg) (i : BitVec 14) (s : State) : Out := s.aluImm .and d a (i.signExtend 64)
/-- `ori` (R75): the immediate is sign-extended. -/
def execOri (d a : GReg) (i : BitVec 14) (s : State) : Out := s.aluImm .or d a (i.signExtend 64)
/-- `xori` (R75): the immediate is sign-extended. -/
def execXori (d a : GReg) (i : BitVec 14) (s : State) : Out := s.aluImm .xor d a (i.signExtend 64)
/-- `slti` (R75): the immediate is sign-extended. -/
def execSlti (d a : GReg) (i : BitVec 14) (s : State) : Out := s.aluImm .slt d a (i.signExtend 64)
/-- `sltiu` (R75): the immediate is sign-extended. -/
def execSltiu (d a : GReg) (i : BitVec 14) (s : State) : Out := s.aluImm .sltu d a (i.signExtend 64)
/-- `slli` (R75). -/
def execSlli (d a : GReg) (i : BitVec 6) (s : State) : Out := s.aluImm .sll d a (i.setWidth 64)
/-- `srli` (R75). -/
def execSrli (d a : GReg) (i : BitVec 6) (s : State) : Out := s.aluImm .srl d a (i.setWidth 64)
/-- `srai` (R75). -/
def execSrai (d a : GReg) (i : BitVec 6) (s : State) : Out := s.aluImm .sra d a (i.setWidth 64)
/-- The literal form of `addi` (R77). -/
def execAddiLiteral (d a : GReg) (w : W32) (s : State) : Out := s.aluImm .add d a (w.signExtend 64)
/-- The literal form of `andi` (R77). -/
def execAndiLiteral (d a : GReg) (w : W32) (s : State) : Out := s.aluImm .and d a (w.signExtend 64)
/-- The literal form of `ori` (R77). -/
def execOriLiteral (d a : GReg) (w : W32) (s : State) : Out := s.aluImm .or d a (w.signExtend 64)
/-- The literal form of `xori` (R77). -/
def execXoriLiteral (d a : GReg) (w : W32) (s : State) : Out := s.aluImm .xor d a (w.signExtend 64)
/-- `lih` (R62, R76): SignExtend(imm19 * 2^13). -/
def execLih (d : GReg) (i : BitVec 19) (s : State) : Out := .next (s.retireG d ((i.setWidth 32 <<< 13).signExtend 64))
/-- `addpc` (R62, R76): F plus the sign-extended byte offset. -/
def execAddpc (d : GReg) (i : BitVec 19) (s : State) : Out := .next (s.retireG d (s.hart.pc + i.signExtend 64))
/-- The literal form of `lih` (R77). -/
def execLihLiteral (d : GReg) (w : W32) (s : State) : Out := .next (s.retireG d (w.signExtend 64))
/-- `nop` as an A word (R59). -/
def execNopA (s : State) : Out := .next s.retire

end Sys2Proof.Machine
end

