-- ==== Sys2Proof/WellFormed.lean ====
section
/-! DEFINITION. Well-formed instructions: the operand values that an encoding of spec/04 admits (R60 to R69, R108, R126, R127, R140, R237). The decoder answers no other instruction. -/
namespace Sys2Proof

/-- The number of a g register that starts a group of four (R67). -/
def groupOk (a : GReg) : Bool := 1 ≤ a.toNat && a.toNat ≤ 28

/-- The number of a g register that starts a pair (R237). -/
def pairOk (a : GReg) : Bool := 1 ≤ a.toNat && a.toNat ≤ 30

/-- q0 to q5 are the load queues, q6 and q7 the store queues (R7, R67). -/
def loadQ (q : BitVec 3) : Bool := q.toNat < 6
/-- See `loadQ`. -/
def storeQ (q : BitVec 3) : Bool := 6 ≤ q.toNat

/-- A vs1 operand names only q0 to q5 (R8, R64). -/
def VSrc.ok : VSrc → Bool
  | .v _ => true
  | .q n _ => loadQ n

/-- A vs2 operand names only q0 to q5; the literal 0xFFFF_FFFF is illegal (R59, R64). -/
def VSrc2.ok : VSrc2 → Bool
  | .v _ _ => true
  | .q n _ => loadQ n
  | .k _ => true
  | .lit w => w != 0xFFFFFFFF

/-- A literal stands only in a lone frame, whose B word has mask select 0 (R58, R64). -/
def VSrc2.fits (h : BMask) : VSrc2 → Bool
  | .lit _ => h.sel == 0
  | _ => true

/-- The literal of a lone A frame may not be 0xFFFF_FFFF (R59). -/
def litOk (w : W32) : Bool := w != 0xFFFFFFFF

/-- Element width of a type (R44). -/
def ETy.width : ETy → Nat
  | .f32 => 32 | .f16 => 16 | .bf16 => 16 | .l8e4 => 8 | .l8e5 => 8 | .l4 => 4
  | .i8 => 8 | .i16 => 16 | .i32 => 32 | .i64 => 64
  | .n8 => 8 | .n16 => 16 | .n32 => 32 | .n64 => 64

/-- Is this one of the three BR floating types? (R140) -/
def ETy.isF : ETy → Bool
  | .f32 => true | .f16 => true | .bf16 => true | _ => false

/-- Is this a low-precision format with a `.nan` rule? (R49, R125) -/
def ETy.isL : ETy → Bool
  | .l8e4 => true | .l8e5 => true | .l4 => true | _ => false

/-- Types of `vabs` and `vneg` (R140). -/
def ETy.absOk : ETy → Bool
  | .i8 => true | .i16 => true | .i32 => true | .i64 => true | t => t.isF

/-- Types of `vredsum` (R140). -/
def ETy.sumOk : ETy → Bool
  | .i32 => true | .i64 => true | t => t.isF

/-- Types of `vredmax`, `vredmin`, `vargmax`, `vargmin` (R140). -/
def ETy.maxOk : ETy → Bool
  | .i32 => true | .n32 => true | t => t.isF

/-- Types of `vcompress` (R140). -/
def ETy.compressOk : ETy → Bool
  | .i8 => true | .i16 => true | .i32 => true | .i64 => true | _ => false

/-- Element width of a mask width (R63). -/
def MW.width : MW → Nat
  | .i8 => 8 | .i16 => 16 | .i32 => 32 | .i64 => 64

/-- Elements of a mask width (R105). -/
def MW.elems : MW → Nat
  | .i8 => 64 | .i16 => 32 | .i32 => 16 | .i64 => 8

/-- Is this an operand combination that some word of spec/04 encodes? Events are not words; they are all well formed. -/
def Instr.wf : Instr → Bool
  | .deviceReset => true
  | .clusterWavePowerUp => true
  | .matrixSliceEnable _ => true
  | .recoveryGo => true
  | .attestationRequest => true
  | .trapEntry => true
  | .interrupt => true
  | .timerCompare => true
  | .streamDeadlock => true
  | .loadLanding _ => true
  | .streamGroup _ => true
  | .storePerformed => true
  | .pageWalk _ _ => true
  | .remoteRequestArrival _ => true
  | .remoteNack => true
  | .stythnetRequestArrival _ => true
  | .stythnetDeliveryTimeout => true
  | .hostWrite _ _ => true
  | .hostRead _ _ => true
  | .hostAtomic _ _ _ _ _ => true
  | .hostRing _ _ => true
  | .dbpendClear _ _ => true
  | .launch _ _ => true
  | .signalDelivery => true
  | .dispatch _ => true
  | .priorityPromotion _ _ => true
  | .preemptionCut _ => true
  | .contextSaveComplete _ => true
  | .handSpill _ => true
  | .laneGrant _ => true
  | .barrierComplete _ => true
  | .clockRebalance => true
  | .exchangePhaseEnd => true
  | .xsendInject => true
  | .packetArrival _ => true
  | .mbwaitTimeout => true
  | .linkNotReadyTimeout => true
  | .waitgePoll => true
  | .hotnessIntervalEnd _ _ => true
  | .hotnessControlWrite _ _ _ => true
  | .copyStart _ => true
  | .copyLine _ _ => true
  | .copyComplete _ => true
  | .tarnLoad _ => true
  | .tarnUnload _ => true
  | .tarnQuery _ => true
  | .gangForm _ => true
  | .mmaComplete _ => true
  | .matrixCommandStart _ => true
  | .drainComplete _ => true
  | .flintJobStart _ => true
  | .flintJobComplete _ => true
  | .editApply _ => true
  | .predicateRun _ => true
  | .predicateTimeout _ => true
  | .recomputeInsert _ _ _ => true
  | .commitStep _ => true
  | .mereOpen _ => true
  | .mereOpend _ => true
  | .mereClose _ => true
  | .mereClear _ => true
  | .migreqWrite _ => true
  | .migreqRead _ => true
  | .hostMigreq _ _ => true
  | .migrationComplete _ => true
  | .preempt _ _ => true
  | .softint _ _ => true
  | .bddataWrite _ => true
  | .gpartWrite _ _ _ => true
  | .gridIntervalEnd _ => true
  | .gridControlWrite _ _ => true
  | .monitorControlWrite _ _ _ => true
  | .monitorSample _ _ _ => true
  | .snaptrig _ _ => true
  | .snapshotRemoteLatch _ => true
  | .snapshotValidClear _ => true
  | .haltreqSet _ => true
  | .haltreqClear _ => true
  | .debugStep _ => true
  | .dumpStart _ => true
  | .dumpUnitCopy _ => true
  | .dumpAbort _ => true
  | .powerAverageUpdate _ _ => true
  | .readClear _ _ => true
  | .registerWrite _ _ _ => true
  | .nopA => true
  | .add _ _ _ => true
  | .sub _ _ _ => true
  | .and _ _ _ => true
  | .or _ _ _ => true
  | .xor _ _ _ => true
  | .sll _ _ _ => true
  | .srl _ _ _ => true
  | .sra _ _ _ => true
  | .slt _ _ _ => true
  | .sltu _ _ _ => true
  | .mul _ _ _ => true
  | .mulh _ _ _ => true
  | .mulhu _ _ _ => true
  | .div _ _ _ => true
  | .divu _ _ _ => true
  | .rem _ _ _ => true
  | .remu _ _ _ => true
  | .min _ _ _ => true
  | .max _ _ _ => true
  | .minu _ _ _ => true
  | .maxu _ _ _ => true
  | .addi _ _ _ => true
  | .andi _ _ _ => true
  | .ori _ _ _ => true
  | .xori _ _ _ => true
  | .slti _ _ _ => true
  | .sltiu _ _ _ => true
  | .slli _ _ _ => true
  | .srli _ _ _ => true
  | .srai _ _ _ => true
  | .lih _ _ => true
  | .addpc _ _ => true
  | .addiLiteral _ _ w => litOk w
  | .andiLiteral _ _ w => litOk w
  | .oriLiteral _ _ w => litOk w
  | .xoriLiteral _ _ w => litOk w
  | .lihLiteral _ w => litOk w
  | .beq _ _ _ => true
  | .bne _ _ _ => true
  | .blt _ _ _ => true
  | .bge _ _ _ => true
  | .bltu _ _ _ => true
  | .bgeu _ _ _ => true
  | .jal _ _ => true
  | .jalr _ _ _ => true
  | .bqb _ => true
  | .loop _ n => n != 0
  | .loopi _ n => n != 0
  | .ld _ _ _ _ => true
  | .st _ _ _ _ => true
  | .ldq q _ _ => loadQ q
  | .stq q _ _ => storeQ q
  | .sld q a n _ => loadQ q && groupOk a && n != 3
  | .sst q a n _ => storeQ q && groupOk a && n != 3
  | .swait _ => true
  | .ldfe _ _ _ _ => true
  | .stfe _ _ _ => true
  | .feclr _ _ => true
  | .rep _ _ _ _ => true
  | .csrr _ _ => true
  | .csrw _ _ => true
  | .csrs _ _ => true
  | .csrc _ _ => true
  | .ecall => true
  | .eret => true
  | .brk => true
  | .wfi => true
  | .lnkr _ _ => true
  | .lnkw _ _ => true
  | .lnkrFwd _ _ => true
  | .amoaddI64 _ _ _ _ _ => true
  | .amoswapI64 _ _ _ _ _ => true
  | .amocasI64 _ _ _ _ _ => true
  | .amominI64 _ _ _ _ _ => true
  | .amomaxI64 _ _ _ _ _ => true
  | .amominuI64 _ _ _ _ _ => true
  | .amomaxuI64 _ _ _ _ _ => true
  | .amoandI64 _ _ _ _ _ => true
  | .amoorI64 _ _ _ _ _ => true
  | .amoxorI64 _ _ _ _ _ => true
  | .amoaddI32 _ _ _ _ _ => true
  | .amoswapI32 _ _ _ _ _ => true
  | .amocasI32 _ _ _ _ _ => true
  | .amominI32 _ _ _ _ _ => true
  | .amomaxI32 _ _ _ _ _ => true
  | .amominuI32 _ _ _ _ _ => true
  | .amomaxuI32 _ _ _ _ _ => true
  | .amoandI32 _ _ _ _ _ => true
  | .amoorI32 _ _ _ _ _ => true
  | .amoxorI32 _ _ _ _ _ => true
  | .fence e _ => e != 0
  | .waitge _ _ => true
  | .tspawn _ => true
  | .tsig _ => true
  | .halt => true
  | .haltRetain _ => true
  | .tabort => true
  | .hand _ _ => true
  | .bar _ => true
  | .sstep _ => true
  | .xsend _ _ _ => true
  | .mbwait _ _ _ _ => true
  | .mgang _ => true
  | .mma _ a b _ => pairOk a && pairOk b
  | .mzero _ => true
  | .mpre _ _ _ => true
  | .mswap => true
  | .mdrain _ _ b _ => pairOk b
  | .mxsave _ => true
  | .mxrest _ => true
  | .cpy _ a => groupOk a
  | .cpynb _ _ a => groupOk a
  | .engpush _ a _ => groupOk a
  | .engpop _ _ => true
  | .sel _ a => groupOk a
  | .selwait _ => true
  | .editChg _ => true
  | .editIns _ => true
  | .editDel _ => true
  | .editApp _ _ => true
  | .dmap _ _ => true
  | .settle _ _ => true
  | .tvers _ _ => true
  | .ldt q _ _ => loadQ q
  | .ldtNb _ q _ _ => loadQ q
  | .stt q _ _ => storeQ q
  | .tlbinv _ _ => true
  | .ctxsave _ => true
  | .ctxrest _ => true
  | .yield => true
  | .capstart _ => true
  | .capstop => true
  | .nopB => true
  | .vaddF32 h _ a b => a.ok && b.ok && b.fits h
  | .vaddF16 h _ a b => a.ok && b.ok && b.fits h
  | .vaddBf16 h _ a b => a.ok && b.ok && b.fits h
  | .vaddI32 h _ a b => a.ok && b.ok && b.fits h
  | .vsubF32 h _ a b => a.ok && b.ok && b.fits h
  | .vsubF16 h _ a b => a.ok && b.ok && b.fits h
  | .vsubBf16 h _ a b => a.ok && b.ok && b.fits h
  | .vsubI32 h _ a b => a.ok && b.ok && b.fits h
  | .vmulF32 h _ a b => a.ok && b.ok && b.fits h
  | .vmulF16 h _ a b => a.ok && b.ok && b.fits h
  | .vmulBf16 h _ a b => a.ok && b.ok && b.fits h
  | .vmulI32 h _ a b => a.ok && b.ok && b.fits h
  | .vfmaF32 h _ a b => a.ok && b.ok && b.fits h
  | .vfmaF16 h _ a b => a.ok && b.ok && b.fits h
  | .vfmaBf16 h _ a b => a.ok && b.ok && b.fits h
  | .vfmsF32 h _ a b => a.ok && b.ok && b.fits h
  | .vfmsF16 h _ a b => a.ok && b.ok && b.fits h
  | .vfmsBf16 h _ a b => a.ok && b.ok && b.fits h
  | .vfnmaF32 h _ a b => a.ok && b.ok && b.fits h
  | .vfnmaF16 h _ a b => a.ok && b.ok && b.fits h
  | .vfnmaBf16 h _ a b => a.ok && b.ok && b.fits h
  | .vfnmsF32 h _ a b => a.ok && b.ok && b.fits h
  | .vfnmsF16 h _ a b => a.ok && b.ok && b.fits h
  | .vfnmsBf16 h _ a b => a.ok && b.ok && b.fits h
  | .vminF32 h _ a b => a.ok && b.ok && b.fits h
  | .vminF16 h _ a b => a.ok && b.ok && b.fits h
  | .vminBf16 h _ a b => a.ok && b.ok && b.fits h
  | .vminI32 h _ a b => a.ok && b.ok && b.fits h
  | .vminN32 h _ a b => a.ok && b.ok && b.fits h
  | .vmaxF32 h _ a b => a.ok && b.ok && b.fits h
  | .vmaxF16 h _ a b => a.ok && b.ok && b.fits h
  | .vmaxBf16 h _ a b => a.ok && b.ok && b.fits h
  | .vmaxI32 h _ a b => a.ok && b.ok && b.fits h
  | .vmaxN32 h _ a b => a.ok && b.ok && b.fits h
  | .vcmpeqF32 h _ a b => a.ok && b.ok && b.fits h
  | .vcmpeqF16 h _ a b => a.ok && b.ok && b.fits h
  | .vcmpeqBf16 h _ a b => a.ok && b.ok && b.fits h
  | .vcmpeqI32 h _ a b => a.ok && b.ok && b.fits h
  | .vcmpeqN32 h _ a b => a.ok && b.ok && b.fits h
  | .vcmpltF32 h _ a b => a.ok && b.ok && b.fits h
  | .vcmpltF16 h _ a b => a.ok && b.ok && b.fits h
  | .vcmpltBf16 h _ a b => a.ok && b.ok && b.fits h
  | .vcmpltI32 h _ a b => a.ok && b.ok && b.fits h
  | .vcmpltN32 h _ a b => a.ok && b.ok && b.fits h
  | .vcmpleF32 h _ a b => a.ok && b.ok && b.fits h
  | .vcmpleF16 h _ a b => a.ok && b.ok && b.fits h
  | .vcmpleBf16 h _ a b => a.ok && b.ok && b.fits h
  | .vcmpleI32 h _ a b => a.ok && b.ok && b.fits h
  | .vcmpleN32 h _ a b => a.ok && b.ok && b.fits h
  | .vcmpunF32 h _ a b => a.ok && b.ok && b.fits h
  | .vcmpunF16 h _ a b => a.ok && b.ok && b.fits h
  | .vcmpunBf16 h _ a b => a.ok && b.ok && b.fits h
  | .vselI8 h _ a b => a.ok && b.ok && b.fits h
  | .vselI16 h _ a b => a.ok && b.ok && b.fits h
  | .vselI32 h _ a b => a.ok && b.ok && b.fits h
  | .vselI64 h _ a b => a.ok && b.ok && b.fits h
  | .vand h _ a b => a.ok && b.ok && b.fits h
  | .vor h _ a b => a.ok && b.ok && b.fits h
  | .vxor h _ a b => a.ok && b.ok && b.fits h
  | .vshlI32 h _ a b => a.ok && b.ok && b.fits h
  | .vshlI64 h _ a b => a.ok && b.ok && b.fits h
  | .vshrI32 h _ a b => a.ok && b.ok && b.fits h
  | .vshrI64 h _ a b => a.ok && b.ok && b.fits h
  | .vsraI32 h _ a b => a.ok && b.ok && b.fits h
  | .vsraI64 h _ a b => a.ok && b.ok && b.fits h
  | .vmulhI32 h _ a b => a.ok && b.ok && b.fits h
  | .vmulhN32 h _ a b => a.ok && b.ok && b.fits h
  | .vmulhI16 h _ a b => a.ok && b.ok && b.fits h
  | .vmulhN16 h _ a b => a.ok && b.ok && b.fits h
  | .vpaddL8e4 h _ a b => a.ok && b.ok && b.fits h
  | .vpaddL8e5 h _ a b => a.ok && b.ok && b.fits h
  | .vpaddL8e4Nan h _ a b => a.ok && b.ok && b.fits h
  | .vpaddL8e5Nan h _ a b => a.ok && b.ok && b.fits h
  | .vpaddI8 h _ a b => a.ok && b.ok && b.fits h
  | .vpaddN8 h _ a b => a.ok && b.ok && b.fits h
  | .vpmulL8e4 h _ a b => a.ok && b.ok && b.fits h
  | .vpmulL8e5 h _ a b => a.ok && b.ok && b.fits h
  | .vpmulL8e4Nan h _ a b => a.ok && b.ok && b.fits h
  | .vpmulL8e5Nan h _ a b => a.ok && b.ok && b.fits h
  | .vpmulI8 h _ a b => a.ok && b.ok && b.fits h
  | .vpmulN8 h _ a b => a.ok && b.ok && b.fits h
  | .vmix h _ a b => a.ok && b.ok && b.fits h
  | .vtempF32 h _ a b => a.ok && b.ok && b.fits h
  | .vtempF16 h _ a b => a.ok && b.ok && b.fits h
  | .vtempBf16 h _ a b => a.ok && b.ok && b.fits h
  | .vrcpr h _ a b => a.ok && b.ok && b.fits h
  | .vrsqr h _ a b => a.ok && b.ok && b.fits h
  | .vpermI8 h _ a b => a.ok && b.ok && b.fits h
  | .vpermI16 h _ a b => a.ok && b.ok && b.fits h
  | .vpermI32 h _ a b => a.ok && b.ok && b.fits h
  | .vpermI64 h _ a b => a.ok && b.ok && b.fits h
  | .vmergeI32 h _ a b => a.ok && b.ok && b.fits h
  | .vmergeI64 h _ a b => a.ok && b.ok && b.fits h
  | .vabs h _ t b => b.ok && b.fits h && t.absOk
  | .vneg h _ t b => b.ok && b.fits h && t.absOk
  | .vordkey h _ _ b => b.ok && b.fits h
  | .vrcpa h _ t b => b.ok && b.fits h && t.isF
  | .vrsqa h _ t b => b.ok && b.fits h && t.isF
  | .vlog2 h _ t b => b.ok && b.fits h && t.isF
  | .vexp2 h _ t b => b.ok && b.fits h && t.isF
  | .vredsum h _ t r b => b.ok && b.fits h && t.sumOk && (t.isF || r == .dyn)
  | .vredmax h _ t b => b.ok && b.fits h && t.maxOk
  | .vredmin h _ t b => b.ok && b.fits h && t.maxOk
  | .vargmax h _ t b => b.ok && b.fits h && t.maxOk
  | .vargmin h _ t b => b.ok && b.fits h && t.maxOk
  | .vcompress h _ t b => b.ok && b.fits h && t.compressOk
  | .vmov h _ b => b.ok && b.fits h
  | .vcvt _ _ t _ _ n _ => (!n || t.isL)
  | .vpack _ _ t u _ n _ => (!n || t.isL) && decide (t.width < u.width)
  | .vunpack _ _ t u _ => decide (u.width < t.width)
  | .vslide _ _ w i a => a.ok && decide (i.toNat < w.elems)
  | .vbcast _ _ w i a => a.ok && decide (i.toNat < w.elems)
  | .mand _ _ _ _ _ => true
  | .mor _ _ _ _ _ => true
  | .mxor _ _ _ _ _ => true
  | .mnot _ _ _ _ => true
  | .mpop _ _ _ _ => true
  | .mfirst _ _ _ _ => true
  | .qadv _ n => 1 ≤ n.toNat && n.toNat ≤ 16
  | .bqput _ b => b.ok
  | .vaddiLow _ _ _ => true
  | .vaddiHigh _ _ _ => true
  | .vmuliLow _ _ _ => true
  | .vmuliHigh _ _ _ => true
  | .vsplatLow _ _ _ => true
  | .vsplatHigh _ _ _ => true
  | .stythnetPortTrainingChange _ _ => true
  | .matrixArrayIdle _ => true
  | .ownershipTagWrite _ _ => true

/-- Is this constructor an A word, a B word, or an event (spec/95)? -/
inductive Instr.Side where
  | a | b | event
  deriving DecidableEq, Repr

/-- The stream that an instruction belongs to (R14). -/
def Instr.side : Instr → Instr.Side
  | .deviceReset => .event
  | .clusterWavePowerUp => .event
  | .matrixSliceEnable _ => .event
  | .recoveryGo => .event
  | .attestationRequest => .event
  | .trapEntry => .event
  | .interrupt => .event
  | .timerCompare => .event
  | .streamDeadlock => .event
  | .loadLanding _ => .event
  | .streamGroup _ => .event
  | .storePerformed => .event
  | .pageWalk _ _ => .event
  | .remoteRequestArrival _ => .event
  | .remoteNack => .event
  | .stythnetRequestArrival _ => .event
  | .stythnetDeliveryTimeout => .event
  | .hostWrite _ _ => .event
  | .hostRead _ _ => .event
  | .hostAtomic _ _ _ _ _ => .event
  | .hostRing _ _ => .event
  | .dbpendClear _ _ => .event
  | .launch _ _ => .event
  | .signalDelivery => .event
  | .dispatch _ => .event
  | .priorityPromotion _ _ => .event
  | .preemptionCut _ => .event
  | .contextSaveComplete _ => .event
  | .handSpill _ => .event
  | .laneGrant _ => .event
  | .barrierComplete _ => .event
  | .clockRebalance => .event
  | .exchangePhaseEnd => .event
  | .xsendInject => .event
  | .packetArrival _ => .event
  | .mbwaitTimeout => .event
  | .linkNotReadyTimeout => .event
  | .waitgePoll => .event
  | .hotnessIntervalEnd _ _ => .event
  | .hotnessControlWrite _ _ _ => .event
  | .copyStart _ => .event
  | .copyLine _ _ => .event
  | .copyComplete _ => .event
  | .tarnLoad _ => .event
  | .tarnUnload _ => .event
  | .tarnQuery _ => .event
  | .gangForm _ => .event
  | .mmaComplete _ => .event
  | .matrixCommandStart _ => .event
  | .drainComplete _ => .event
  | .flintJobStart _ => .event
  | .flintJobComplete _ => .event
  | .editApply _ => .event
  | .predicateRun _ => .event
  | .predicateTimeout _ => .event
  | .recomputeInsert _ _ _ => .event
  | .commitStep _ => .event
  | .mereOpen _ => .event
  | .mereOpend _ => .event
  | .mereClose _ => .event
  | .mereClear _ => .event
  | .migreqWrite _ => .event
  | .migreqRead _ => .event
  | .hostMigreq _ _ => .event
  | .migrationComplete _ => .event
  | .preempt _ _ => .event
  | .softint _ _ => .event
  | .bddataWrite _ => .event
  | .gpartWrite _ _ _ => .event
  | .gridIntervalEnd _ => .event
  | .gridControlWrite _ _ => .event
  | .monitorControlWrite _ _ _ => .event
  | .monitorSample _ _ _ => .event
  | .snaptrig _ _ => .event
  | .snapshotRemoteLatch _ => .event
  | .snapshotValidClear _ => .event
  | .haltreqSet _ => .event
  | .haltreqClear _ => .event
  | .debugStep _ => .event
  | .dumpStart _ => .event
  | .dumpUnitCopy _ => .event
  | .dumpAbort _ => .event
  | .powerAverageUpdate _ _ => .event
  | .readClear _ _ => .event
  | .registerWrite _ _ _ => .event
  | .nopA => .a
  | .add _ _ _ => .a
  | .sub _ _ _ => .a
  | .and _ _ _ => .a
  | .or _ _ _ => .a
  | .xor _ _ _ => .a
  | .sll _ _ _ => .a
  | .srl _ _ _ => .a
  | .sra _ _ _ => .a
  | .slt _ _ _ => .a
  | .sltu _ _ _ => .a
  | .mul _ _ _ => .a
  | .mulh _ _ _ => .a
  | .mulhu _ _ _ => .a
  | .div _ _ _ => .a
  | .divu _ _ _ => .a
  | .rem _ _ _ => .a
  | .remu _ _ _ => .a
  | .min _ _ _ => .a
  | .max _ _ _ => .a
  | .minu _ _ _ => .a
  | .maxu _ _ _ => .a
  | .addi _ _ _ => .a
  | .andi _ _ _ => .a
  | .ori _ _ _ => .a
  | .xori _ _ _ => .a
  | .slti _ _ _ => .a
  | .sltiu _ _ _ => .a
  | .slli _ _ _ => .a
  | .srli _ _ _ => .a
  | .srai _ _ _ => .a
  | .lih _ _ => .a
  | .addpc _ _ => .a
  | .addiLiteral _ _ _ => .a
  | .andiLiteral _ _ _ => .a
  | .oriLiteral _ _ _ => .a
  | .xoriLiteral _ _ _ => .a
  | .lihLiteral _ _ => .a
  | .beq _ _ _ => .a
  | .bne _ _ _ => .a
  | .blt _ _ _ => .a
  | .bge _ _ _ => .a
  | .bltu _ _ _ => .a
  | .bgeu _ _ _ => .a
  | .jal _ _ => .a
  | .jalr _ _ _ => .a
  | .bqb _ => .a
  | .loop _ _ => .a
  | .loopi _ _ => .a
  | .ld _ _ _ _ => .a
  | .st _ _ _ _ => .a
  | .ldq _ _ _ => .a
  | .stq _ _ _ => .a
  | .sld _ _ _ _ => .a
  | .sst _ _ _ _ => .a
  | .swait _ => .a
  | .ldfe _ _ _ _ => .a
  | .stfe _ _ _ => .a
  | .feclr _ _ => .a
  | .rep _ _ _ _ => .a
  | .csrr _ _ => .a
  | .csrw _ _ => .a
  | .csrs _ _ => .a
  | .csrc _ _ => .a
  | .ecall => .a
  | .eret => .a
  | .brk => .a
  | .wfi => .a
  | .lnkr _ _ => .a
  | .lnkw _ _ => .a
  | .lnkrFwd _ _ => .a
  | .amoaddI64 _ _ _ _ _ => .a
  | .amoswapI64 _ _ _ _ _ => .a
  | .amocasI64 _ _ _ _ _ => .a
  | .amominI64 _ _ _ _ _ => .a
  | .amomaxI64 _ _ _ _ _ => .a
  | .amominuI64 _ _ _ _ _ => .a
  | .amomaxuI64 _ _ _ _ _ => .a
  | .amoandI64 _ _ _ _ _ => .a
  | .amoorI64 _ _ _ _ _ => .a
  | .amoxorI64 _ _ _ _ _ => .a
  | .amoaddI32 _ _ _ _ _ => .a
  | .amoswapI32 _ _ _ _ _ => .a
  | .amocasI32 _ _ _ _ _ => .a
  | .amominI32 _ _ _ _ _ => .a
  | .amomaxI32 _ _ _ _ _ => .a
  | .amominuI32 _ _ _ _ _ => .a
  | .amomaxuI32 _ _ _ _ _ => .a
  | .amoandI32 _ _ _ _ _ => .a
  | .amoorI32 _ _ _ _ _ => .a
  | .amoxorI32 _ _ _ _ _ => .a
  | .fence _ _ => .a
  | .waitge _ _ => .a
  | .tspawn _ => .a
  | .tsig _ => .a
  | .halt => .a
  | .haltRetain _ => .a
  | .tabort => .a
  | .hand _ _ => .a
  | .bar _ => .a
  | .sstep _ => .a
  | .xsend _ _ _ => .a
  | .mbwait _ _ _ _ => .a
  | .mgang _ => .a
  | .mma _ _ _ _ => .a
  | .mzero _ => .a
  | .mpre _ _ _ => .a
  | .mswap => .a
  | .mdrain _ _ _ _ => .a
  | .mxsave _ => .a
  | .mxrest _ => .a
  | .cpy _ _ => .a
  | .cpynb _ _ _ => .a
  | .engpush _ _ _ => .a
  | .engpop _ _ => .a
  | .sel _ _ => .a
  | .selwait _ => .a
  | .editChg _ => .a
  | .editIns _ => .a
  | .editDel _ => .a
  | .editApp _ _ => .a
  | .dmap _ _ => .a
  | .settle _ _ => .a
  | .tvers _ _ => .a
  | .ldt _ _ _ => .a
  | .ldtNb _ _ _ _ => .a
  | .stt _ _ _ => .a
  | .tlbinv _ _ => .a
  | .ctxsave _ => .a
  | .ctxrest _ => .a
  | .yield => .a
  | .capstart _ => .a
  | .capstop => .a
  | .nopB => .b
  | .vaddF32 _ _ _ _ => .b
  | .vaddF16 _ _ _ _ => .b
  | .vaddBf16 _ _ _ _ => .b
  | .vaddI32 _ _ _ _ => .b
  | .vsubF32 _ _ _ _ => .b
  | .vsubF16 _ _ _ _ => .b
  | .vsubBf16 _ _ _ _ => .b
  | .vsubI32 _ _ _ _ => .b
  | .vmulF32 _ _ _ _ => .b
  | .vmulF16 _ _ _ _ => .b
  | .vmulBf16 _ _ _ _ => .b
  | .vmulI32 _ _ _ _ => .b
  | .vfmaF32 _ _ _ _ => .b
  | .vfmaF16 _ _ _ _ => .b
  | .vfmaBf16 _ _ _ _ => .b
  | .vfmsF32 _ _ _ _ => .b
  | .vfmsF16 _ _ _ _ => .b
  | .vfmsBf16 _ _ _ _ => .b
  | .vfnmaF32 _ _ _ _ => .b
  | .vfnmaF16 _ _ _ _ => .b
  | .vfnmaBf16 _ _ _ _ => .b
  | .vfnmsF32 _ _ _ _ => .b
  | .vfnmsF16 _ _ _ _ => .b
  | .vfnmsBf16 _ _ _ _ => .b
  | .vminF32 _ _ _ _ => .b
  | .vminF16 _ _ _ _ => .b
  | .vminBf16 _ _ _ _ => .b
  | .vminI32 _ _ _ _ => .b
  | .vminN32 _ _ _ _ => .b
  | .vmaxF32 _ _ _ _ => .b
  | .vmaxF16 _ _ _ _ => .b
  | .vmaxBf16 _ _ _ _ => .b
  | .vmaxI32 _ _ _ _ => .b
  | .vmaxN32 _ _ _ _ => .b
  | .vcmpeqF32 _ _ _ _ => .b
  | .vcmpeqF16 _ _ _ _ => .b
  | .vcmpeqBf16 _ _ _ _ => .b
  | .vcmpeqI32 _ _ _ _ => .b
  | .vcmpeqN32 _ _ _ _ => .b
  | .vcmpltF32 _ _ _ _ => .b
  | .vcmpltF16 _ _ _ _ => .b
  | .vcmpltBf16 _ _ _ _ => .b
  | .vcmpltI32 _ _ _ _ => .b
  | .vcmpltN32 _ _ _ _ => .b
  | .vcmpleF32 _ _ _ _ => .b
  | .vcmpleF16 _ _ _ _ => .b
  | .vcmpleBf16 _ _ _ _ => .b
  | .vcmpleI32 _ _ _ _ => .b
  | .vcmpleN32 _ _ _ _ => .b
  | .vcmpunF32 _ _ _ _ => .b
  | .vcmpunF16 _ _ _ _ => .b
  | .vcmpunBf16 _ _ _ _ => .b
  | .vselI8 _ _ _ _ => .b
  | .vselI16 _ _ _ _ => .b
  | .vselI32 _ _ _ _ => .b
  | .vselI64 _ _ _ _ => .b
  | .vand _ _ _ _ => .b
  | .vor _ _ _ _ => .b
  | .vxor _ _ _ _ => .b
  | .vshlI32 _ _ _ _ => .b
  | .vshlI64 _ _ _ _ => .b
  | .vshrI32 _ _ _ _ => .b
  | .vshrI64 _ _ _ _ => .b
  | .vsraI32 _ _ _ _ => .b
  | .vsraI64 _ _ _ _ => .b
  | .vmulhI32 _ _ _ _ => .b
  | .vmulhN32 _ _ _ _ => .b
  | .vmulhI16 _ _ _ _ => .b
  | .vmulhN16 _ _ _ _ => .b
  | .vpaddL8e4 _ _ _ _ => .b
  | .vpaddL8e5 _ _ _ _ => .b
  | .vpaddL8e4Nan _ _ _ _ => .b
  | .vpaddL8e5Nan _ _ _ _ => .b
  | .vpaddI8 _ _ _ _ => .b
  | .vpaddN8 _ _ _ _ => .b
  | .vpmulL8e4 _ _ _ _ => .b
  | .vpmulL8e5 _ _ _ _ => .b
  | .vpmulL8e4Nan _ _ _ _ => .b
  | .vpmulL8e5Nan _ _ _ _ => .b
  | .vpmulI8 _ _ _ _ => .b
  | .vpmulN8 _ _ _ _ => .b
  | .vmix _ _ _ _ => .b
  | .vtempF32 _ _ _ _ => .b
  | .vtempF16 _ _ _ _ => .b
  | .vtempBf16 _ _ _ _ => .b
  | .vrcpr _ _ _ _ => .b
  | .vrsqr _ _ _ _ => .b
  | .vpermI8 _ _ _ _ => .b
  | .vpermI16 _ _ _ _ => .b
  | .vpermI32 _ _ _ _ => .b
  | .vpermI64 _ _ _ _ => .b
  | .vmergeI32 _ _ _ _ => .b
  | .vmergeI64 _ _ _ _ => .b
  | .vabs _ _ _ _ => .b
  | .vneg _ _ _ _ => .b
  | .vordkey _ _ _ _ => .b
  | .vrcpa _ _ _ _ => .b
  | .vrsqa _ _ _ _ => .b
  | .vlog2 _ _ _ _ => .b
  | .vexp2 _ _ _ _ => .b
  | .vredsum _ _ _ _ _ => .b
  | .vredmax _ _ _ _ => .b
  | .vredmin _ _ _ _ => .b
  | .vargmax _ _ _ _ => .b
  | .vargmin _ _ _ _ => .b
  | .vcompress _ _ _ _ => .b
  | .vmov _ _ _ => .b
  | .vcvt _ _ _ _ _ _ _ => .b
  | .vpack _ _ _ _ _ _ _ => .b
  | .vunpack _ _ _ _ _ => .b
  | .vslide _ _ _ _ _ => .b
  | .vbcast _ _ _ _ _ => .b
  | .mand _ _ _ _ _ => .b
  | .mor _ _ _ _ _ => .b
  | .mxor _ _ _ _ _ => .b
  | .mnot _ _ _ _ => .b
  | .mpop _ _ _ _ => .b
  | .mfirst _ _ _ _ => .b
  | .qadv _ _ => .b
  | .bqput _ _ => .b
  | .vaddiLow _ _ _ => .b
  | .vaddiHigh _ _ _ => .b
  | .vmuliLow _ _ _ => .b
  | .vmuliHigh _ _ _ => .b
  | .vsplatLow _ _ _ => .b
  | .vsplatHigh _ _ _ => .b
  | .stythnetPortTrainingChange _ _ => .event
  | .matrixArrayIdle _ => .event
  | .ownershipTagWrite _ _ => .event

end Sys2Proof
end

