-- ==== Sys2Proof/Machine/Flags.lean ====
section
/-! DEFINITION. Number formats and rounding (R45 to R52, R54, R56): decoding and encoding of elements, the flags of FFLAGS, exact sums and products rounded once, conversions, order keys, and the special functions (R129, R130). An element is a number below 2^w. -/
namespace Sys2Proof.Machine

/-- The flags of FFLAGS (R11, R51). -/
abbrev FFl := BitVec 5
/-- Invalid operation. -/
def fNV : FFl := 0x01
/-- Divide by zero. -/
def fDZ : FFl := 0x02
/-- Overflow. -/
def fOF : FFl := 0x04
/-- Underflow. -/
def fUF : FFl := 0x08
/-- Inexact. -/
def fNX : FFl := 0x10
/-- A flag if a condition holds. -/
def flIf (c : Bool) (f : FFl) : FFl := if c then f else 0

/-- A result element and its flags. -/
abbrev Rl := Nat × FFl

/-- A floating format: exponent and fraction widths, and whether it follows R46 (else R48). -/
structure FFmt where
  eb : Nat
  mb : Nat
  ieee : Bool
  deriving DecidableEq, Repr

/-- FP32 (R46). -/
def fF32 : FFmt := ⟨8, 23, true⟩
/-- FP16 (R46). -/
def fF16 : FFmt := ⟨5, 10, true⟩
/-- BF16 (R46). -/
def fBf16 : FFmt := ⟨8, 7, true⟩
/-- A56 in float mode (R54). -/
def fA56 : FFmt := ⟨9, 46, true⟩
/-- L8E4 (R48). -/
def fL8e4 : FFmt := ⟨4, 3, false⟩
/-- L8E5 (R48). -/
def fL8e5 : FFmt := ⟨5, 2, false⟩
/-- L4 (R48). -/
def fL4 : FFmt := ⟨2, 1, false⟩

/-- Exponent bias (R46, R48, R54). -/
def FFmt.bias (f : FFmt) : Int := if f.ieee then 2 ^ (f.eb - 1) - 1 else 2 ^ (f.eb - 1)
/-- Exponent of the smallest normal value. -/
def FFmt.emin (f : FFmt) : Int := 1 - f.bias
/-- Exponent of the largest values. -/
def FFmt.emax (f : FFmt) : Int := 2 ^ f.eb - (if f.ieee then 2 else 1) - f.bias
/-- The sign bit, if set. -/
def FFmt.sign (f : FFmt) (s : Bool) : Nat := s.toNat * 2 ^ (f.eb + f.mb)
/-- The canonical NaN (R46, R48, R54). -/
def FFmt.nan (f : FFmt) : Nat := if f.ieee then (2 ^ f.eb - 1) * 2 ^ f.mb + 2 ^ (f.mb - 1) else 2 ^ (f.eb + f.mb)
/-- Infinity (R46). -/
def FFmt.inf (f : FFmt) (s : Bool) : Nat := f.sign s + (2 ^ f.eb - 1) * 2 ^ f.mb
/-- The largest finite value (R46, R48). -/
def FFmt.largest (f : FFmt) (s : Bool) : Nat := f.sign s + (2 ^ (f.eb + f.mb) - 1 - if f.ieee then 2 ^ f.mb else 0)
/-- Zero: a narrow format has +0 only (R49). -/
def FFmt.zero (f : FFmt) (s : Bool) : Nat := if f.ieee then f.sign s else 0

/-- The value of an element: (-1)^s * m * 2^e, an infinity, or NaN. -/
inductive FV where
  | nan
  | inf (s : Bool)
  | num (s : Bool) (m : Nat) (e : Int)
  deriving DecidableEq, Repr

/-- Decodes an element (R46, R48). -/
def FFmt.dec (f : FFmt) (x : Nat) : FV :=
  let s := (x >>> (f.eb + f.mb)) % 2 == 1
  let e := (x >>> f.mb) % 2 ^ f.eb
  let m := x % 2 ^ f.mb
  if f.ieee && e == 2 ^ f.eb - 1 then (if m = 0 then .inf s else .nan)
  else if !f.ieee && s && e == 0 && m == 0 then .nan
  else if e = 0 then .num s m (f.emin - f.mb)
  else .num s (2 ^ f.mb + m) (e - f.bias - f.mb)

/-- A number to be rounded: (-1)^s times m * 2^e, plus, if `more`, something positive below 2^e. -/
structure Exact where
  s : Bool
  m : Nat
  e : Int
  more : Bool
  deriving DecidableEq, Repr

/-- Rounds to a multiple of 2^q in mode rm: 0 RNE, 1 RTZ, 2 RUP, 3 RDN (R50); the multiple, and whether it is inexact. -/
def Exact.grid (x : Exact) (rm : Nat) (q : Int) : Nat × Bool :=
  if q ≤ x.e then (x.m <<< (x.e - q).toNat + (x.more && (rm == 2 && !x.s || rm == 3 && x.s)).toNat, x.more)
  else
    let k := (q - x.e).toNat
    let n := x.m >>> k
    let r := x.m % 2 ^ k
    let half := 2 ^ (k - 1)
    let up := match rm with
      | 0 => decide (half < r) || (r == half && (x.more || n % 2 == 1))
      | 1 => false
      | 2 => !x.s
      | _ => x.s
    let inexact := r != 0 || x.more
    (n + (inexact && up).toNat, inexact)

/-- Is a * 2^p above b * 2^q? -/
def pow2Lt (b : Nat) (q : Int) (a : Nat) (p : Int) : Bool :=
  if q ≤ p then decide (b < a <<< (p - q).toNat) else decide (b <<< (q - p).toNat < a)

/-- The code of (-1)^s * n * 2^q, which the format holds exactly. -/
def FFmt.code (f : FFmt) (s : Bool) (n : Nat) (q : Int) : Nat :=
  let l := Nat.log2 n
  if f.emin ≤ l + q then
    f.sign s + (l + q + f.bias).toNat * 2 ^ f.mb + ((if l ≤ f.mb then n <<< (f.mb - l) else n >>> (l - f.mb)) - 2 ^ f.mb)
  else f.sign s + n <<< (q - (f.emin - f.mb)).toNat

/-- Writes a number into a format with `prec` significant bits (R49, R50, R129). -/
def FFmt.roundAt (f : FFmt) (prec rm : Nat) (nanm : Bool) (x : Exact) : Rl :=
  if x.m = 0 ∧ !x.more then (f.zero x.s, 0)
  else
    let q0 : Int := Nat.log2 x.m + x.e + 1 - prec
    let n0 := (x.grid rm q0).1
    if pow2Lt (2 ^ (f.mb + 1) - 1) (f.emax - f.mb) n0 q0 then
      (if !f.ieee then (if nanm then f.nan else f.largest x.s)
       else if rm = 1 ∨ (rm = 2 ∧ x.s) ∨ (rm = 3 ∧ !x.s) then f.largest x.s else f.inf x.s, fOF ||| fNX)
    else
      let q := max q0 (f.emin - f.mb)
      let n := x.grid rm q
      let tiny := decide (Nat.log2 n0 + q0 < f.emin)
      (if n.1 = 0 then f.zero x.s else f.code x.s n.1 q, flIf n.2 fNX ||| flIf (n.2 && tiny) fUF)

/-- Writes a number into a format (R49, R50). -/
def FFmt.round (f : FFmt) (rm : Nat) (nanm : Bool) (x : Exact) : Rl := f.roundAt (f.mb + 1) rm nanm x

/-- Writes a value into a format, with flags that its computation raised (R47, R49, R50). -/
def FFmt.put (f : FFmt) (rm : Nat) (nanm : Bool) (v : FV × FFl) : Rl :=
  match v.1 with
  | .nan => (f.nan, v.2)
  | .inf s => if f.ieee then (f.inf s, v.2) else if nanm then (f.nan, v.2 ||| fNV) else (f.largest s, v.2 ||| fOF ||| fNX)
  | .num s m e => let r := f.round rm nanm ⟨s, m, e, false⟩; (r.1, r.2 ||| v.2)

/-- Negation of a value. -/
def FV.neg : FV → FV
  | .nan => .nan
  | .inf s => .inf !s
  | .num s m e => .num (!s) m e
/-- Is a value NaN? -/
def FV.isNan : FV → Bool
  | .nan => true | _ => false
/-- Is a value a zero? -/
def FV.isZero : FV → Bool
  | .num _ m _ => m == 0 | _ => false
/-- Is a value an infinity? -/
def FV.isInf : FV → Bool
  | .inf _ => true | _ => false

/-- The integer (-1)^s * m. -/
def sgn (s : Bool) (m : Nat) : Int := if s then -m else m

/-- An exact sum (R50, R114): an exact zero of opposite signs is -0 under RDN. -/
def fvAdd (rm : Nat) (a b : FV) : FV × FFl :=
  match a, b with
  | .nan, _ => (.nan, 0)
  | _, .nan => (.nan, 0)
  | .inf s, .inf t => if s = t then (.inf s, 0) else (.nan, fNV)
  | .inf s, _ => (.inf s, 0)
  | _, .inf s => (.inf s, 0)
  | .num s m e, .num t n d =>
    let q := min e d
    let v := sgn s (m <<< (e - q).toNat) + sgn t (n <<< (d - q).toNat)
    (.num (if v = 0 then (if s = t then s else rm == 3) else decide (v < 0)) v.natAbs q, 0)

/-- An exact product (R114). -/
def fvMul (a b : FV) : FV × FFl :=
  match a, b with
  | .inf s, .num t m _ => if m = 0 then (.nan, fNV) else (.inf (s != t), 0)
  | .num s m _, .inf t => if m = 0 then (.nan, fNV) else (.inf (s != t), 0)
  | .inf s, .inf t => (.inf (s != t), 0)
  | .num s m e, .num t n d => (.num (s != t) (m * n) (e + d), 0)
  | _, _ => (.nan, 0)

/-- An exact product plus an addend (R113, R114): 0 times infinity is invalid whatever the addend. -/
def fvFma (rm : Nat) (a b c : FV) : FV × FFl :=
  let p := fvMul a b
  if p.2 ≠ 0 then p else fvAdd rm p.1 c

/-- A floating operation of R112 and R113. -/
inductive FOp where
  | add | sub | mul | fma | fms | fnma | fnms
  deriving DecidableEq, Repr

/-- The exact value of an operation on d, a and b, before its rounding (R112 to R114). -/
def FOp.exact (op : FOp) (rm : Nat) (d a b : FV) : FV × FFl :=
  let neg (v : FV × FFl) : FV × FFl := (v.1.neg, v.2)
  match op with
  | .add => fvAdd rm a b
  | .sub => fvAdd rm a b.neg
  | .mul => fvMul a b
  | .fma => fvFma rm d a b
  | .fms => fvFma rm d a b.neg
  | .fnma => neg (fvFma rm d a b)
  | .fnms => neg (fvFma rm d a b.neg)

/-- A floating operation on elements (R112 to R114). -/
def FFmt.op (f : FFmt) (op : FOp) (rm d a b : Nat) : Rl := f.put rm false (op.exact rm (f.dec d) (f.dec a) (f.dec b))

/-- x / y for a finite non-zero y, 64 bits finer than y (R132). -/
def fvDiv (rm : Nat) (f : FFmt) (x y : FV) : Rl :=
  match x, y with
  | .num s m e, .num t n d =>
    if m = 0 then (f.zero (s != t), 0)
    else
      let k := Nat.log2 n + 65
      f.round rm false ⟨s != t, (m <<< k) / n, e - d - k, (m <<< k) % n != 0⟩
  | .inf s, .num t _ _ => (f.inf (s != t), 0)
  | _, _ => (f.nan, 0)

end Sys2Proof.Machine

namespace Sys2Proof

/-- The floating format of a type. -/
def ETy.float? : ETy → Option Machine.FFmt
  | .f32 => some Machine.fF32 | .f16 => some Machine.fF16 | .bf16 => some Machine.fBf16
  | .l8e4 => some Machine.fL8e4 | .l8e5 => some Machine.fL8e5 | .l4 => some Machine.fL4 | _ => none
/-- Is the type a signed integer (R45)? -/
def ETy.signed : ETy → Bool
  | .i8 => true | .i16 => true | .i32 => true | .i64 => true | _ => false
/-- The number an integer element stands for (R45). -/
def ETy.ival (t : ETy) (x : Nat) : Int := if t.signed then Machine.toSigned t.width x else ((x % 2 ^ t.width : Nat) : Int)
/-- Least and greatest number of an integer type (R45). -/
def ETy.range (t : ETy) : Int × Int :=
  if t.signed then (-(2 ^ (t.width - 1)), 2 ^ (t.width - 1) - 1) else (0, 2 ^ t.width - 1)
/-- The value of an element. -/
def ETy.value (t : ETy) (x : Nat) : Machine.FV :=
  match t.float? with
  | some f => f.dec x
  | none => .num (decide (t.ival x < 0)) (t.ival x).natAbs 0
/-- Is an element NaN? -/
def ETy.isNan (t : ETy) (x : Nat) : Bool := (t.value x).isNan
/-- The canonical NaN of a type; 0 for an integer type. -/
def ETy.nan (t : ETy) : Nat := match t.float? with | some f => f.nan | none => 0

end Sys2Proof

namespace Sys2Proof.Machine

/-- A value clamped to an integer type. -/
def clampTo (t : ETy) (v : Int) : Nat := ofSigned t.width (max t.range.1 (min t.range.2 v))

/-- Conversion of a floating value to an integer type (R52): NaN gives 0 with NV, out of range the nearest end with NV. -/
def toInteger (u : ETy) (rm : Nat) : FV → Rl
  | .nan => (0, fNV)
  | .inf s => (clampTo u (if s then u.range.1 else u.range.2), fNV)
  | .num s m e =>
    let n := (Exact.mk s m e false).grid rm 0
    let v := sgn s n.1
    if v < u.range.1 ∨ u.range.2 < v then (clampTo u v, fNV) else (ofSigned u.width v, flIf n.2 fNX)

/-- Conversion of an element of type t to type u (R52). DESIGN CHOICE: between f16 and bf16, which R52's row of exact conversions cannot cover, the value is rounded as R50 rounds, with OF, UF and NX (log entry 35). -/
def convert (t u : ETy) (rm : Nat) (nanm : Bool) (x : Nat) : Rl :=
  match t.float?, u.float? with
  | _, some f => f.put rm nanm (t.value x, 0)
  | some f, none => toInteger u rm (f.dec x)
  | none, none => (ofSigned u.width (t.ival x), 0)

/-- OrderKey of R56. -/
def orderKey (t : ETy) (x : Nat) : Nat :=
  let w := t.width
  match t.float? with
  | some f => if (f.dec x).isNan then 0 else if x >>> (w - 1) % 2 = 0 then x + 2 ^ (w - 1) else 2 ^ w - 1 - x
  | none => if t.signed then x ^^^ 2 ^ (w - 1) else x

/-- Does x rank below y, with -0 below +0 (R115, R133)? For elements that are not NaN. -/
def ranksBelow (t : ETy) (x y : Nat) : Bool := decide (orderKey t x < orderKey t y)

/-- Are two elements that are not NaN equal (R118)? -/
def elemEq (t : ETy) (x y : Nat) : Bool := x == y || ((t.value x).isZero && (t.value y).isZero)
/-- Is x below y (R118)? For elements that are not NaN. -/
def elemLt (t : ETy) (x y : Nat) : Bool := ranksBelow t x y && !elemEq t x y

/-- Special functions of R129. -/
inductive SFn where
  | rcp | rsq | log2 | exp2
  deriving DecidableEq, Repr

/-- The largest r below 2^n, from r on, whose square does not exceed x. -/
def isqrt (x : Nat) : Nat → Nat → Nat
  | 0, r => r
  | n + 1, r => isqrt x n (if (r + 2 ^ n) * (r + 2 ^ n) ≤ x then r + 2 ^ n else r)

/-- Bits of the fraction of log2 of y / 2^128, from y in 2^128 to 2^129, by squaring. -/
def log2Bits : Nat → Nat → Nat → Nat
  | 0, _, r => r
  | n + 1, y, r =>
    let z := (y * y) >>> 128
    if z >>> 129 = 0 then log2Bits n z (2 * r) else log2Bits n (z >>> 1) (2 * r + 1)

/-- ln 2 to 160 bits. -/
def ln2 : Nat := 0xB17217F7D1CF79ABC9E3B39803F2F6AF40F34326

/-- Terms of e^z from the k-th on, for z scaled by 2^160: the sum. -/
def expTerms (z : Nat) : Nat → Nat → Nat → Nat
  | 0, _, _ => 0
  | n + 1, k, t => t + expTerms z n (k + 1) ((t * z) >>> 160 / k)

/-- 2^x for x = v / 2^k, rounded (R129): 2^⌊x⌋ times e^(fraction * ln 2); beyond 2^±2000 the end decides. -/
def exp2Round (f : FFmt) (prec : Nat) (v : Int) (k : Nat) : Rl :=
  let i := v / (2 ^ k : Nat)
  let r := (v % (2 ^ k : Nat)).toNat
  if 2000 < i then f.roundAt prec 0 false ⟨false, 1, 2000, true⟩
  else if i < -2000 then f.roundAt prec 0 false ⟨false, 1, -2000, true⟩
  else if r = 0 then f.roundAt prec 0 false ⟨false, 1, i, false⟩
  else f.roundAt prec 0 false ⟨false, expTerms ((r * ln2) >>> k) 64 1 (2 ^ 160), i - 160, true⟩

/-- A special function of a finite non-zero number in its domain (R129): computed 64 bits or more beyond the grid and rounded once, RNE (log entry 22). -/
def SFn.finite (g : SFn) (f : FFmt) (prec : Nat) (s : Bool) (m : Nat) (e : Int) : Rl :=
  match g with
  | .rcp =>
    let k := 65 + Nat.log2 m
    f.roundAt prec 0 false ⟨s, 2 ^ k / m, -k - e, 2 ^ k % m != 0⟩
  | .rsq =>
    let n := if e % 2 = 0 then m else 2 * m
    let d := if e % 2 = 0 then e / 2 else (e - 1) / 2
    let k := 65 + Nat.log2 n
    let r := isqrt (2 ^ (2 * k) / n) (k + 1) 0
    f.roundAt prec 0 false ⟨false, r, -k - d, r * r * n != 2 ^ (2 * k)⟩
  | .log2 =>
    let l := Nat.log2 m
    if m = 2 ^ l then (let v := e + l; f.roundAt prec 0 false ⟨decide (v < 0), v.natAbs, 0, false⟩)
    else
      let v := (e + l) * (2 ^ 100 : Nat) + log2Bits 100 (m <<< (128 - l)) 0
      if v < 0 then f.roundAt prec 0 false ⟨true, (-v - 1).toNat, -100, true⟩ else f.roundAt prec 0 false ⟨false, v.toNat, -100, true⟩
  | .exp2 => if 0 ≤ e then exp2Round f prec (sgn s (m <<< (min e 64).toNat)) 0 else exp2Round f prec (sgn s m) (-e).toNat

/-- A special function (R129, R130). -/
def SFn.apply (g : SFn) (f : FFmt) (x : Nat) : Rl :=
  let prec := if f.mb = 23 then (match g with | .rcp => 12 | .rsq => 12 | _ => 16) else f.mb + 1
  match f.dec x with
  | .nan => (f.nan, 0)
  | .inf s =>
    match g with
    | .rcp => (f.zero s, 0)
    | .rsq => if s then (f.nan, fNV) else (f.zero false, 0)
    | .log2 => if s then (f.nan, fNV) else (f.inf false, 0)
    | .exp2 => (if s then f.zero false else f.inf false, 0)
  | .num s m e =>
    if m = 0 then
      match g with
      | .rcp => (f.inf s, fDZ)
      | .rsq => (f.inf s, fDZ)
      | .log2 => (f.inf true, fDZ)
      | .exp2 => (f.code false 1 0, 0)
    else if s && (g == .rsq || g == .log2) then (f.nan, fNV)
    else g.finite f prec s m e

end Sys2Proof.Machine
end

