-- ==== Sys2Proof/Machine/Delta.lean ====
section
/-! DEFINITION. What DELTA graphs compute (R279, R284): absolute differences and the measure of a line. -/
namespace Sys2Proof.Machine

/-- AbsDiff of R279: an infinity or an overflow in a narrow format follows R49 under NAN. -/
def absDiff (t : ETy) (nanm : Bool) (x y : Nat) : Nat :=
  match t.float? with
  | none => ofSigned t.width ((t.ival x - t.ival y).natAbs : Nat)
  | some f =>
    let inf : Nat := (f.put 2 nanm (.inf false, 0)).1
    match f.dec x, f.dec y with
    | .nan, .nan => f.zero false
    | .nan, _ => inf
    | _, .nan => inf
    | .inf s, .inf t => if s = t then f.zero false else inf
    | .inf _, _ => inf
    | _, .inf _ => inf
    | a, b => (f.put 2 nanm (match fvAdd 2 a b.neg with | (.num _ m e, fl) => (.num false m e, fl) | v => v)).1

/-- |x| of an element, which orders as an unsigned number; the canonical NaN for a NaN. -/
def magElem (t : ETy) (x : Nat) : Nat :=
  match t.float? with
  | some f => if (f.dec x).isNan then f.nan else x % 2 ^ (t.width - 1)
  | none => (t.ival x).natAbs

/-- The measure that a 512-bit output of the measuring unit gives (R279): the largest |A| as an FP32 pattern, which orders as an unsigned number. -/
def measureOf (t : ETy) (x : V512) : W32 :=
  BitVec.ofNat 32 ((elemsOf t.width (512 / t.width) x.toNat).foldl (fun m e =>
    max m (match t.float? with
      | some _ => (convert t .f32 0 false (magElem t e)).1
      | none => (fF32.round 2 false ⟨false, magElem t e, 0, false⟩).1)) 0)

/-- Type of the fixed graph in slot 1, 2 or 3 (R276). -/
def deltaTy (slot : Nat) : ETy := if slot = 1 then .f16 else if slot = 2 then .bf16 else .f32
/-- Measure of a 64 B line that passes DELTA in a slot (R284). -/
def deltaMeasure (slot : Nat) (new old : V512) : W32 :=
  let t := deltaTy slot
  let xs := List.zipWith (absDiff t false) (elemsOf t.width (512 / t.width) new.toNat) (elemsOf t.width (512 / t.width) old.toNat)
  measureOf t (BitVec.ofNat 512 (packElems t.width xs))

end Sys2Proof.Machine
end

