-- ==== Sys2Proof/Machine/Mmio.lean ====
section
/-! DEFINITION. The register space and the host pages (R197, R209, R304, R348, R357, R364, R365, R367, R374 to R387): which bits a write changes, what a read clears, and which writes start a command (R386). -/
namespace Sys2Proof.Machine

/-- Bits [hi:lo] as a mask. -/
def maskBits (hi lo : Nat) : W64 := w64 (2 ^ (hi + 1) - 2 ^ lo)

/-- RW, W1C and RC bits of a register. -/
structure RegSpec where
  rw : W64
  w1c : W64
  rc : W64
  deriving DecidableEq, Repr

/-- A register with RW bits only. -/
def rwOnly (m : W64) : RegSpec := ⟨m, 0, 0⟩

/-- The register at offset `o` of a die's register space; reserved offsets have no writable bit. -/
def dieSpec (d o : Nat) : RegSpec :=
  if 0x1000000 ≤ o ∧ o < 0x10C0000 then
    match o % 0x10000 with
    | 0x00 => rwOnly (maskBits 63 63 ||| maskBits 4 0)
    | 0x08 => rwOnly (maskBits 51 9)
    | _ => rwOnly 0
  else if 0x2000000 ≤ o ∧ o < 0x2000020 then
    match o % 0x100 with
    | 0x00 => rwOnly (maskBits 63 60 ||| maskBits 11 0)
    | 0x08 => rwOnly (maskBits 63 6)
    | 0x18 => ⟨0, maskBits 63 63, 0⟩
    | _ => rwOnly 0
  else if 0x3000000 ≤ o ∧ o < 0x3000028 then
    match o % 0x100 with
    | 0x00 => rwOnly (maskBits 63 6)
    | 0x08 => rwOnly (maskBits 51 12)
    | 0x10 => rwOnly (maskBits 12 0)
    | _ => rwOnly (maskBits 15 0)
  else if d = 0 ∧ 0x5000000 ≤ o ∧ o < 0x500A000 then
    let p := o - 0x5000000
    if p = 0 then rwOnly (maskBits 9 0)
    else if 0x1000 ≤ p ∧ p < 0x2000 ∧ p % 16 = 0 then rwOnly (maskBits 63 38)
    else if 0x8000 ≤ p then rwOnly (maskBits 63 62 ||| maskBits 17 0)
    else rwOnly 0
  else if 0x6000000 ≤ o ∧ o < 0x6000100 then rwOnly (maskBits 5 0)
  else if 0x6000100 ≤ o ∧ o < 0x6000160 then rwOnly (maskBits 6 0)
  else if 0x7000000 ≤ o ∧ o < 0x7006000 then
    let p := o - 0x7000000
    if p = 0 then rwOnly (maskBits 63 63 ||| maskBits 4 0)
    else if p = 8 then rwOnly (maskBits 51 16)
    else if p = 0x18 then ⟨0, 0, maskBits 63 0⟩
    else if 0x100 ≤ p ∧ p < 0x1100 then (if p % 0x100 = 0 then rwOnly (maskBits 63 63 ||| maskBits 52 0) else rwOnly 0)
    else if p = 0x2000 then ⟨maskBits 3 0, maskBits 63 63, 0⟩
    else if p = 0x2010 then ⟨0, 0, maskBits 63 0⟩
    else if p = 0x3000 then rwOnly (maskBits 63 60 ||| maskBits 5 0)
    else if p = 0x3008 then rwOnly (maskBits 55 16)
    else if p = 0x3010 then rwOnly (maskBits 39 16)
    else if p = 0x3018 then rwOnly (maskBits 51 16)
    else if p = 0x3020 then rwOnly (maskBits 51 3)
    else if p = 0x4000 then rwOnly (maskBits 15 0)
    else if p = 0x5000 then ⟨0, maskBits 63 63, 0⟩
    else if p = 0x5010 then ⟨0, 0, maskBits 63 0⟩
    else rwOnly 0
  else if 0x8000000 ≤ o ∧ o < 0xB000000 then
    if o % 16 = 0 then rwOnly (maskBits 63 60 ||| maskBits 50 16) else rwOnly (maskBits 63 0)
  else if 0xC000000 ≤ o ∧ o < 0xC040000 then
    match o % 64 with
    | 0x00 => rwOnly (maskBits 63 63 ||| maskBits 3 0)
    | 0x08 => rwOnly (maskBits 51 12)
    | 0x10 => rwOnly (maskBits 63 63 ||| maskBits 23 20)
    | 0x18 => ⟨0, 0, maskBits 31 0⟩
    | _ => rwOnly 0
  else rwOnly 0

/-- The register of a host page at offset `p`, for the host (R364, R384, R385). -/
def hostSpec (d p : Nat) : RegSpec :=
  if p < 0x200 then rwOnly (maskBits 63 0)
  else if p = 0x1010 then rwOnly (maskBits 63 0)
  else if d = 0 ∧ p = 0x2008 then rwOnly (maskBits 50 0)
  else if d = 0 ∧ p = 0x2010 then rwOnly (maskBits 31 0)
  else if d = 0 ∧ p = 0x2018 then rwOnly (maskBits 0 0)
  else if d = 0 ∧ 0x2040 ≤ p ∧ p < 0x2060 then rwOnly (maskBits 63 0)
  else rwOnly 0

/-- Die and offset of a register-space address. -/
def regDie (pa : Nat) : Nat := (pa - 0x4000000000000) / 0x40000000
/-- See `regDie`. -/
def regOff (pa : Nat) : Nat := (pa - 0x4000000000000) % 0x40000000

/-- The specification of the register that holds a byte: register space, else host page. -/
def regSpec (pa : Nat) : RegSpec :=
  if 2 ^ 52 ≤ pa then hostSpec ((pa - 2 ^ 52) / 0x10000) ((pa - 2 ^ 52) % 0x10000 / 8 * 8)
  else dieSpec (regDie pa) (regOff pa / 8 * 8)

/-- Bits of a 64-bit register that n bytes from pa cover (R386). -/
def laneMask (pa n : Nat) : W64 := w64 ((2 ^ (8 * n) - 1) * 2 ^ (8 * (pa % 8)))

/-- A register as it reads: HALTED and INBOX of a debug register are computed (R377), where a full buffer of 64 shows as 63, the most that the field holds; the writer's PARTID that the Mere status register keeps for its command does not show (R304). -/
def State.regValue (s : State) (pa : Nat) : W64 :=
  let r := s.getReg pa
  let o := regOff pa / 8 * 8
  if pa < 2 ^ 52 ∧ 0xC000000 ≤ o ∧ o < 0xC040000 ∧ o % 64 = 0 then
    let c := regDie pa * 4096 + (o - 0xC000000) / 64
    let stopped := (List.range 4).all fun n =>
      let h := s.getHart (hartOf c n)
      h.run != .running || (h.seq.isEmpty && h.enter.isEmpty && h.flight.isEmpty && h.fr.isNone)
    putBits (putBits r 62 62 (r.getLsbD 63 && stopped).toNat) 9 4 (min 63 (s.core c).inbox.length)
  else if pa < 2 ^ 52 ∧ o = 0x2000010 then putBits r 59 0 0
  else r

/-- A load of n bytes from register space (R386): the addressed bytes; an RC field that they touch is then cleared whole. -/
def State.readRegs (s : State) (pa n : Nat) : Nat × State :=
  let r := s.regValue pa
  let v := (r &&& laneMask pa n).toNat / 2 ^ (8 * (pa % 8))
  let sp := regSpec pa
  let clear (m : W64) : W64 := if sp.rc &&& m &&& laneMask pa n ≠ 0 then sp.rc &&& m else 0
  -- CESRAM and CEDRAM are two fields of one register (R374)
  let c := if regOff pa / 8 * 8 = 0x7000018 ∧ pa < 2 ^ 52 then clear (maskBits 63 32) ||| clear (maskBits 31 0) else clear (maskBits 63 0)
  (v, if c = 0 then s else s.setReg pa (s.getReg pa &&& ~~~c))

/-- The value of a register after a store of n bytes, before its own rules (R386): RW bits take the bytes, W1C bits that are written 1 clear. -/
def merged (sp : RegSpec) (old : W64) (pa n : Nat) (v : W64) : W64 :=
  let m := laneMask pa n
  let x := v <<< (8 * (pa % 8))
  (old &&& ~~~(sp.rw &&& m)) ||| (x &&& sp.rw &&& m) |> fun y => y &&& ~~~(sp.w1c &&& m &&& x)

/-- Does a field's new value lie outside its range, so that the write leaves it unchanged (R209, R348, R374, R381)? -/
def keepOld (pa : Nat) (old new : W64) : W64 :=
  let o := regOff pa / 8 * 8
  let keep (hi lo a b : Nat) : W64 := if a ≤ bitsN new hi lo ∧ bitsN new hi lo ≤ b then new else putBits new hi lo (bitsN old hi lo)
  if 2 ^ 52 ≤ pa then new
  else if 0x1000000 ≤ o ∧ o < 0x10C0000 ∧ o % 0x10000 = 0 then keep 4 0 16 26
  else if o = 0x7000000 then keep 4 0 10 24
  else if o = 0x3000010 then keep 12 0 0 4096
  else if o = 0x7004000 then keep 15 0 100 900
  else if 0xC000000 ≤ o ∧ o < 0xC040000 ∧ o % 64 = 0x10 then keep 23 20 0 8
  else new

/-- May a group change its partition (R367)? Only while no hart of it is dispatched and no slice of it holds an entry. -/
def State.groupIdle (s : State) (d g : Nat) : Bool :=
  (List.range 16).all fun i =>
    let cl := 512 * d + 16 * g + i
    (s.cluster cl).basin.isEmpty && !s.tasks.any fun (h, _) => clusOf h == cl

/-- Do n bytes from pa cover a byte of bits [hi:lo]? -/
def covers (pa n hi lo : Nat) : Bool := laneMask pa n &&& maskBits hi lo != 0

/-- Commands that a store to register space starts, as steps of the agenda (R304, R348, R376, R377, R380, R386). -/
def regCommands (pa n : Nat) (old new raw : W64) : List Instr :=
  let d := regDie pa
  let o := regOff pa / 8 * 8
  let die : BitVec 2 := BitVec.ofNat 2 d
  if o = 0x2000000 ∧ covers pa n 63 60 then
    match bitsN new 63 60 with
    | 1 => [.mereOpen die]
    | 2 => [.mereOpend die]
    | 3 => [.mereClose die]
    | 4 => [.mereClear die]
    | _ => []
  else if o = 0x3000018 ∧ covers pa n 15 0 then [.preempt die new]
  else if o = 0x3000020 ∧ covers pa n 15 0 then [.softint die new]
  else if o = 0x7002008 ∧ covers pa n 0 0 ∧ raw.getLsbD 0 then [.snaptrig die 0]
  else if o = 0x7003000 ∧ covers pa n 63 60 then
    match bitsN new 63 60 with
    | 1 => [.dumpStart die]
    | 2 => [.dumpAbort die]
    | _ => []
  else if 0xC000000 ≤ o ∧ o < 0xC040000 ∧ o % 64 = 0 then
    let c := d * 4096 + (o - 0xC000000) / 64
    (if !old.getLsbD 63 && new.getLsbD 63 then [Instr.haltreqSet c] else if old.getLsbD 63 && !new.getLsbD 63 then [Instr.haltreqClear c] else []) ++
      (if covers pa n 61 61 && raw.getLsbD 61 then [Instr.debugStep c] else [])
  else []

/-- EN of a monitor goes from 0 to 1 (R375): MIN all ones, MAX, COUNT and HIST zero. -/
def State.monitorClear (s : State) (pa : Nat) : State :=
  let b := pa / 8 * 8
  let s1 := s.setReg (b + 8) (w64 (0xFFFFFFFF * 2 ^ 32))
  (List.range 9).foldl (fun t i => t.setReg (b + 0x10 + 8 * i) 0) s1

/-- A store of n bytes to register space by a control hart in machine mode (R386): the merged value under the register's own rules, then the commands it starts. -/
def State.writeRegs (s : State) (pa n : Nat) (v : W64) : State :=
  let old := s.getReg pa
  let new := keepOld pa old (merged (regSpec pa) old pa n v)
  let o := regOff pa / 8 * 8
  let raw := (v <<< (8 * (pa % 8))) &&& laneMask pa n
  if 2 ^ 52 ≤ pa then s.setReg pa new
  else if 0x6000000 ≤ o ∧ o < 0x6000100 ∧ new ≠ old ∧ !s.groupIdle (regDie pa) ((o - 0x6000000) / 8) then s
  else if o = 0x2000000 ∧ (s.getReg (pa / 8 * 8 + 16)).getLsbD 63 then s
  else
    let s1 := s.setReg pa new
    let s2 :=
      if 0x1000000 ≤ o ∧ o < 0x10C0000 ∧ o % 0x10000 = 0 ∧ (old.getLsbD 63 != new.getLsbD 63) then
        -- clearing EN discards the interval, setting it starts an empty sketch (R209)
        let d := regDie pa
        let x := s1.die d
        s1.setDie d { x with hot := kset ⟨[], [], 0⟩ x.hot ((o - 0x1000000) / 0x10000) (if new.getLsbD 63 then ⟨[], [], s.clk⟩ else ⟨[], [], 0⟩) }
      else if o = 0x7000000 ∧ (old.getLsbD 63 != new.getLsbD 63) then
        -- clearing EN discards the interval of the grid (R374)
        s1.setDie (regDie pa) { s1.die (regDie pa) with gridSince := if new.getLsbD 63 then s.clk else 0 }
      else if 0x7000100 ≤ o ∧ o < 0x7001100 ∧ o % 0x100 = 0 ∧ !old.getLsbD 63 ∧ new.getLsbD 63 then s1.monitorClear pa
      else if o = 0x2000000 ∧ covers pa n 63 60 then
        -- a command runs under the writer's PARTID; an unknown one is refused with status 2 (R304)
        if 1 ≤ bitsN new 63 60 ∧ bitsN new 63 60 ≤ 4 then s1.setReg (pa / 8 * 8 + 16) (w64 (2 ^ 63 + s.part))
        else s1.setReg (pa / 8 * 8 + 16) (w64 (2 * 2 ^ 60))
      else s1
    s2.later (regCommands pa n old new raw)

/-- Offset and length of the parts of n bytes at an address, cut at multiples of `cut`. -/
def cutAt (a : W64) (n cut : Nat) : List (Nat × Nat) :=
  let p := a.toNat % cut
  (List.range ((p + n + cut - 1) / cut)).map fun i =>
    let lo := if i = 0 then 0 else i * cut - p
    (lo, min n ((i + 1) * cut - p) - lo)

/-- The register-space bytes of a read that may touch more than one register, from the lowest up (R386). -/
def State.readRegBytes (s : State) (pa n : Nat) : List Byte × State :=
  (cutAt (w64 pa) n 8).foldl (fun (q : List Byte × State) (o, m) =>
    let r := q.2.readRegs (pa + o) m
    (q.1 ++ leBytes m r.1, r.2)) ([], s)
/-- Writes bytes to register space, register by register from the lowest up (R386). -/
def State.writeRegBytes (s : State) (pa : Nat) (bs : List Byte) : State :=
  (cutAt (w64 pa) bs.length 8).foldl (fun t (o, m) => t.writeRegs (pa + o) m (w64 (leNat ((bs.drop o).take m)))) s

end Sys2Proof.Machine
end

