-- ==== Sys2Proof/Machine/Observe.lean ====
section
/-! DEFINITION. Register events (R5, R386), page hotness (R208, R209), the link-counter grid (R374), monitors (R375), snapshots (R376), partitions' registers (R367) and ownership tags (R200). -/
namespace Sys2Proof.Machine

/-- REGISTER_WRITE (R386). -/
def execRegisterWrite (pa n : Nat) (v : W64) (s : State) : Out := .next (s.writeRegs pa n v)
/-- READ_CLEAR (R5, R386): the value read goes to the reader; the RC fields that the bytes touch are cleared. -/
def execReadClear (pa n : Nat) (s : State) : Out := .next (s.readRegs pa n).2

/-- GPART_WRITE (R367). -/
def execGpartWrite (die : BitVec 2) (g : BitVec 5) (v : W64) (s : State) : Out :=
  .next (s.writeRegs (regBase die.toNat + 0x6000000 + 8 * g.toNat) 8 v)

/-- OWNERSHIP_TAG_WRITE (R200, R367): a controller that is dedicated refuses a tag that names another partition. -/
def execOwnershipTagWrite (frame : Nat) (tag : BitVec 6) (s : State) : Out :=
  let pa := frame * 65536
  let c := bitsN (s.getReg (regBase (homeDie pa) + 0x6000100 + 8 * s.homeCtl pa)) 6 0
  .next (if !isDevMem pa then s
    else if c < 48 ∧ tag.toNat < 48 ∧ tag.toNat ≠ c then s
    else { s with tags := kset 0 s.tags frame tag })

/-- Inserts an entry of the hot list in its place: descending estimate, ascending frame on a tie (R209). -/
def hotPlace (e : Nat × Nat) : List (Nat × Nat) → List (Nat × Nat)
  | [] => [e]
  | x :: xs => if x.2 < e.2 ∨ (x.2 = e.2 ∧ e.1 < x.1) then e :: x :: xs else x :: hotPlace e xs
/-- The record of an interval, 512 B (R209). -/
def hotRecord (l : List (Nat × Nat)) : List Byte :=
  let bs := (l.foldr hotPlace []).flatMap fun e => leBytes 8 e.1 ++ leBytes 8 e.2
  bs ++ List.replicate (512 - bs.length) 0

/-- HOTNESS_INTERVAL_END (R208): the record, HOTSEQ + 1, an empty sketch; the list is discarded where the record before is still being written. -/
def execHotnessIntervalEnd (die : BitVec 2) (c : BitVec 4) (s : State) : Out :=
  let d := die.toNat
  let b := hotReg d c.toNat
  .next (if 12 ≤ c.toNat ∨ (s.getReg b).getLsbD 63 = false then s
    else
      let (f, t) := s.nextFv
      let l := (kget ⟨[], [], 0⟩ (s.die d).hot c.toNat).list
      let fresh (u : State) : State := u.setDie d { u.die d with hot := kset ⟨[], [], 0⟩ (u.die d).hot c.toNat ⟨[], [], s.clk⟩ }
      if s.getReg (b + 16) ≠ 0 ∧ Config.hotWriting f = true then fresh t
      else (fresh (t.physWrite (bitsN (s.getReg (b + 8)) 51 9 * 512) (hotRecord l))).setReg (b + 16) (s.getReg (b + 16) + 1))

/-- HOTNESS_CONTROL_WRITE (R209). -/
def execHotnessControlWrite (die : BitVec 2) (c : BitVec 4) (v : W64) (s : State) : Out :=
  .next (if 12 ≤ c.toNat then s else s.writeRegs (hotReg die.toNat c.toNat) 8 v)

/-- Does a router port lead to a bridge (R356, R374): north, east, south, west of a cluster at the edge of a die that faces another die, in the mesh of 32 rows of 16? -/
def portBridge (d cl dir : Nat) : Bool :=
  match dir with
  | 0 => decide (cl < 16) && decide (2 ≤ d)
  | 1 => cl % 16 == 15 && d % 2 == 0
  | 2 => decide (496 ≤ cl) && decide (d < 2)
  | _ => cl % 16 == 0 && d % 2 == 1
/-- Does a router port lead anywhere (R356, R374)? The edges of a die that face no other die lead nowhere. -/
def portLeads (d cl dir : Nat) : Bool :=
  portBridge d cl dir || match dir with
    | 0 => decide (16 ≤ cl)
    | 1 => decide (cl % 16 < 15)
    | 2 => decide (cl < 496)
    | _ => decide (0 < cl % 16)

/-- Can byte i of a grid be other than 0 (R356, R374)? Not at a port that leads nowhere, nor for channel XCH at a port to a bridge. -/
def gridCounts (d i : Nat) : Bool :=
  let cl := i / 128
  let dir := i / 32 % 4
  portLeads d cl dir && !(portBridge d cl dir && i % 32 / 8 == 2)
/-- A grid of counts: free values, and zero where nothing is counted (R374). -/
def gridBytes (d f : Nat) : List Byte := (List.range 65536).map fun i => if gridCounts d i then Config.gridByte f i else 0

/-- GRID_INTERVAL_END (R374): a grid whose predecessor is still being written is discarded. -/
def execGridIntervalEnd (die : BitVec 2) (s : State) : Out :=
  let d := die.toNat
  let b := obsBase d
  .next (if (s.getReg b).getLsbD 63 = false then s
    else
      let (f, s1) := s.nextFv
      if s.getReg (b + 16) ≠ 0 ∧ Config.gridWriting f = true then s1.setDie d { s1.die d with gridSince := s.clk } else
      let s2 := s1.physWrite (bitsN (s.getReg (b + 8)) 51 16 * 65536) (gridBytes d f)
      (s2.setReg (b + 16) (s.getReg (b + 16) + 1)).setDie d { s2.die d with gridSince := s.clk })

/-- GRID_CONTROL_WRITE (R374). -/
def execGridControlWrite (die : BitVec 2) (v : W64) (s : State) : Out := .next (s.writeRegs (obsBase die.toNat) 8 v)

/-- Base of a monitor (R375). -/
def monBase (d m : Nat) : Nat := obsBase d + 0x100 + 0x100 * m

/-- MONITOR_CONTROL_WRITE (R375). -/
def execMonitorControlWrite (die : BitVec 2) (m : BitVec 4) (v : W64) (s : State) : Out :=
  .next (s.writeRegs (monBase die.toNat m.toNat) 8 v)

/-- Adds 1 to a 32-bit count, saturating (R375). -/
def sat32 (n : Nat) : Nat := min (2 ^ 32 - 1) (n + 1)

/-- A sample updates a running monitor (R375). -/
def State.monSample (s : State) (d m : Nat) (v : W32) : State :=
  let b := monBase d m
  let c := s.getReg b
  let base := bitsN c 31 0
  if c.getLsbD 63 = false then s
  else
    let mm := s.getReg (b + 8)
    let i := if v.toNat < base then 0 else min 15 ((v.toNat - base) / 2 ^ bitsN c 43 40)
    let h := b + 0x10 + i / 2 * 8
    let lo := 32 * (i % 2)
    let s1 := s.setReg (b + 8) (w64 (min (bitsN mm 63 32) v.toNat * 2 ^ 32 + max (bitsN mm 31 0) v.toNat))
    let s2 := s1.setReg h (putBits (s1.getReg h) (lo + 31) lo (sat32 (bitsN (s1.getReg h) (lo + 31) lo)))
    s2.setReg (b + 0x50) (w64 (sat32 (bitsN (s2.getReg (b + 0x50)) 31 0)))

/-- MONITOR_SAMPLE (R375). -/
def execMonitorSample (die : BitVec 2) (m : BitVec 4) (v : W32) (s : State) : Out := .next (s.monSample die.toNat m.toNat v)

/-- Every running monitor of a die with a source and unit takes a sample of a time or depth that the model does not hold: a free value (R375; log entry 20). -/
def State.sampled (s : State) (d src unit : Nat) : State :=
  if !(s.regs.any fun p => p.2.getLsbD 63) then s
  else (List.range 16).foldl (fun t m =>
    let c := t.getReg (monBase d m)
    if c.getLsbD 63 && bitsN c 39 32 == src && bitsN c 52 44 == unit then t.monSample d m (Config.sampleValue (t.fv + m)) else t) s

/-- Ready entries of a Basin slice. -/
def Cluster.readyCount (c : Cluster) : Nat := (c.basin.filter fun p => match p.2 with | some e => e.ready.isSome | none => false).length

/-- The record of a cluster at a snapshot (R376). A count that its field cannot hold shows as the field's largest value. -/
def State.snapCluster (s : State) (cl : Nat) : List W64 :=
  let c := s.cluster cl
  let cores := (List.range 8).map (8 * cl + ·)
  let pack (w : Nat) (f : Nat → Nat) : Nat := (cores.zipIdx.map fun (k, i) => min (2 ^ w - 1) (f k) * 2 ^ (w * i)).sum
  let harts (k : Nat) : List Hart := (List.range 4).map fun n => s.getHart (hartOf k n)
  let busy (k : Nat) : Bool := c.ops.any fun o => o.members.any (·.core == k)
  [w64 (c.clock * 2 ^ 48 + min 511 c.readyCount * 2 ^ 32 + pack 4 fun k => (s.core k).fifo.length),
   w64 (pack 7 fun k => (s.core k).infl),
   w64 ((cores.zipIdx.map fun (k, i) => (busy k).toNat * 2 ^ i).sum * 2 ^ 32 + pack 4 fun k => ((harts k).map (·.mq.length)).sum),
   w64 (pack 2 fun k => ((harts k).filter (·.run == .parked)).length)]

/-- The record of a controller at a snapshot (R376); the depth of its request queue is a free value (log entry 20). -/
def State.snapController (s : State) (d c : Nat) : List W64 :=
  let held := ((List.range 16).filter fun k => match kget none (s.die d).tarn (16 * c + k) with | some x => 0 < x.holds | none => false).length
  let gone := (s.tags.filter fun p => p.2 == 0x3F && homeDie (p.1 * 65536) == d && s.homeCtl (p.1 * 65536) == c).length
  [w64 (held * 65536 + (Config.sampleValue (16 * s.tick + c)).toNat % 65536), s.getReg (hotReg d c + 16), w64 gone, 0]

/-- Writes registers from an address on. -/
def State.setRegs (s : State) (pa : Nat) (ws : List W64) : State := ws.zipIdx.foldl (fun t (w, i) => t.setReg (pa + 8 * i) w) s

/-- Latches a die's records (R376) at a clk; a snapshot that is held is not overwritten, and the trigger counts in SNAPMISS. -/
def State.latch (s : State) (d : Nat) (at_ : W64) : State :=
  let b := obsBase d
  if (s.getReg (b + 0x2000)).getLsbD 63 then s.setReg (b + 0x2010) (w64 (min (2 ^ 64 - 1) ((s.getReg (b + 0x2010)).toNat + 1)))
  else
    let s1 := (s.setReg (b + 0x2000) (putBits (s.getReg (b + 0x2000)) 63 63 1)).setReg (b + 0x2018) at_
    let s2 := (List.range 512).foldl (fun t c => t.setRegs (b + 0x10000 + 32 * c) (s.snapCluster (512 * d + c))) s1
    (List.range 12).foldl (fun t c => t.setRegs (b + 0x20000 + 32 * c) (s.snapController d c)) s2

/-- SNAPTRIG (R376): an enabled source latches this die now and the others 40 mesh clk later. -/
def execSnaptrig (die src : BitVec 2) (s : State) : Out :=
  let d := die.toNat
  let r := s.getReg (obsBase d + 0x2000)
  .next (if r.getLsbD src.toNat = false then s
    else if r.getLsbD 63 then s.latch d s.clk
    else ((List.range 4).filter (· != d)).foldl (fun t o =>
      let x := t.die o
      t.setDie o { x with snapAt := x.snapAt ++ [s.after 40] }) (s.latch d s.clk))

/-- SNAPSHOT_REMOTE_LATCH (R376). -/
def execSnapshotRemoteLatch (die : BitVec 2) (s : State) : Out :=
  let d := die.toNat
  let x := s.die d
  .next (match x.snapAt with
    | t :: ts => if t ≤ s.clk then (s.setDie d { x with snapAt := ts }).latch d t else s
    | [] => s)

/-- SNAPSHOT_VALID_CLEAR (R376). -/
def execSnapshotValidClear (die : BitVec 2) (s : State) : Out :=
  let r := obsBase die.toNat + 0x2000
  .next (s.setReg r (putBits (s.getReg r) 63 63 0))

end Sys2Proof.Machine
end

