-- ==== Sys2Proof/Machine/LoadStore.lean ====
section
/-! DEFINITION. Loads and stores of the access stream (R88 to R90), the store buffer (R21, R162), landings (R18), page walks with their A and D updates (R203, R204). -/
namespace Sys2Proof.Machine

/-- Bytes that an `ld` reads (R61). -/
def ldSize : LdTy → Nat
  | .i64 => 8 | .i32 => 4 | .n32 => 4 | .i16 => 2 | .n16 => 2 | .i8 => 1 | .n8 => 1
/-- Bytes that an `st` writes (R61). -/
def stSize : StTy → Nat
  | .i64 => 8 | .i32 => 4 | .i16 => 2 | .i8 => 1
/-- The 64-bit value of the bytes an `ld` read: sign for .i, zero for .n (R88). -/
def ldExtend (t : LdTy) (x : Nat) : W64 :=
  match t with
  | .i64 => w64 x
  | .i32 => BitVec.ofInt 64 (toSigned 32 x)
  | .i16 => BitVec.ofInt 64 (toSigned 16 x)
  | .i8 => BitVec.ofInt 64 (toSigned 8 x)
  | .n32 => w64 (x % 2 ^ 32)
  | .n16 => w64 (x % 2 ^ 16)
  | .n8 => w64 (x % 2 ^ 8)
/-- Byte displacement of an AM word: the signed field times the access size (R61). -/
def memDisp (m : MemMode) (size : Nat) : W64 :=
  (match m with | .weak d => d.signExtend 64 | .strong _ _ d => d.signExtend 64) * w64 size
/-- Is the access strong (S = 1, R61)? -/
def memStrong : MemMode → Bool
  | .weak _ => false
  | .strong _ _ _ => true

/-- Bytes of a list from key `k`, with those replaced that a store of `es` at key `ek` covers. -/
def overlay (k : Nat) (bs : List Byte) (ek : Nat) (es : List Byte) : List Byte :=
  bs.zipIdx.map fun (b, i) => if ek ≤ k + i ∧ k + i < ek + es.length then es.getD (k + i - ek) b else b

/-- Byte i of a line. -/
def lineByte (x : V512) (i : Nat) : Byte := (x >>> (8 * i)).setWidth 8

/-- Bytes read at a location as the hart itself sees them in a frame: under its commit buffer (R162) and the buffered stores of that and older frames (R17, R21). -/
def Hart.seen (h : Hart) (fno : Nat) (l : Loc) (a : W64) (bs : List Byte) : List Byte :=
  let virt := !a.getLsbD 63 && h.isBuffered
  let b1 := if virt then bs.zipIdx.map fun (b, i) =>
      match h.cbuf.find? (·.1 == (a.toNat + i) / 64) with
      | some (_, x) => lineByte x ((a.toNat + i) % 64)
      | none => b
    else bs
  h.sbuf.foldl (fun bs e =>
    if fno < e.fno then bs
    else if e.buffered then (if virt then overlay a.toNat bs e.va.toNat e.data else bs)
    else match e.loc, l with
      | .mem ek, .mem k => overlay k bs ek e.data
      | _, _ => bs) b1

/-- A refusal by another device (R205): a page fault with REMOTE set, its level and reason free values (log entry 15). -/
def remoteDeny (f : Nat) (k : AccKind) (a : W64) : Exn :=
  ⟨6, faultVal true k ((Config.remoteByte f 0).toNat % 5) (1 + (Config.remoteByte f 1).toNat % 5), a⟩

/-- Does a port deliver the hart's request to another device now (R358)? Until one does, the request stands in `Device.stuck`. -/
def State.portTakes (s : State) (a : W64) (k : AccKind) : Bool × State :=
  let (f, s1) := s.nextFv
  let mine (x : Stuck) : Bool := x.hart == s.hid
  let l := s1.dev.stuck
  let ok := Config.portDelivers f
  (ok, { s1 with dev := { s1.dev with stuck := if ok then l.filter (!mine ·) else if l.any mine then l else l ++ [⟨s.hid, s.clk, a, k⟩] } })

/-- Does another device take the hart's request (R358, R359)? `none` while no port delivers it; else its answer, with the number of the free value. -/
def State.askRemote (s : State) (a : W64) (k : AccKind) : Option Bool × Nat × State :=
  match s.portTakes a k with
  | (false, t) => (none, 0, t)
  | (true, t) => (some (Config.remoteAccepts t.fv), t.fv, t.nextFv.2)

/-- Does a translation through an entry still need a walk: to set A or D, or to enter the TLB (R203, R204)? -/
def State.needsWalk (s : State) (a : W64) (k : AccKind) (pte : W64) : Bool :=
  let known := s.ctl || (s.core (coreOf s.hid)).tlb.any (·.hits s.part a)
  let set := pteKind pte == 3 || (pte.getLsbD 4 && (!accWrites k || pte.getLsbD 5))
  !a.getLsbD 63 && !(known && set)

/-- Notes that a translation still needs its A or D bit or its TLB entry, to be made once the access cannot be discarded (R203, R204); a request already noted for the same 64 KiB serves. -/
def State.noteWalk (s : State) (fno : Nat) (a : W64) (k : AccKind) (pte : W64) : State :=
  if !s.needsWalk a k pte || s.hart.walks.any (fun w => w.kind == k && w.va.toNat / 65536 == a.toNat / 65536 && decide (w.fno ≤ fno)) then s
  else s.mapHart fun h => { h with walks := h.walks ++ [⟨a, k, fno, none⟩] }

/-- As `noteWalk` for a store that the frame at PC puts in the store buffer: its frame has not retired until the walk is made, and it goes back there if the walk, made again, faults (R203). -/
def State.noteStore (s : State) (a : W64) (pte : W64) : State :=
  if s.needsWalk a .write pte then
    s.mapHart fun h => { h with walks := h.walks ++ [⟨a, .write, h.fno, some (h.pc, h.snap h.pc)⟩] }
  else s

/-- A request that waits at a halted core stands in its inbound buffer, while there is room (R378). -/
def State.inbound (s : State) (id : Nat) (b : ReqBy) (a : W64) (n : Nat) (k : ReqKind) : State :=
  let c := coreNamed id a
  let x := s.core c
  if a.getLsbD 63 && s.coreHalted c && !isLocal id a && decide (x.inbox.length < 64) && !x.inbox.any (fun r => r.hart == some id && r.by_ == b) then
    s.setCore c { x with inbox := x.inbox ++ [⟨c, BitVec.ofNat 2 (srcClass id c), k, bitsN a 17 0, n, [], false, some id, a, none, b⟩] }
  else s
/-- An access of an engine that waits: whom it is made for, its address, length and kind. -/
structure Held where
  rq : Req
  a : W64
  n : Nat
  k : ReqKind
  deriving DecidableEq, Repr

/-- A step of an engine that waits changes nothing, but that its request stands at the halted core (R378), or asks for the copy of its unit (R380). -/
def State.holdUp (s : State) (b : ReqBy) (w : Held) : State :=
  if w.a.getLsbD 63 then s.inbound w.rq.id b w.a w.n w.k else if w.k = .read then s else s.contend w.rq w.a

/-- A request of the hart waits: at a halted core it stands in the inbound buffer (R378), at a unit under a dump it asks for its copy (R380). -/
def State.held (s : State) (a : W64) (n : Nat) (k : ReqKind) : State :=
  if a.getLsbD 63 then s.inbound s.hid .access a n k else s.contend s.me a

/-- What a read by the hart answers. -/
inductive Rd where
  | ok (bs : List Byte) (s : State)
  | trap (e : Exn) (s : State)
  | wait (s : State)

/-- A load of the hart that its cluster's network interface carries gives the monitors of that source a sample of its round trip (R375). -/
def State.niSample (s : State) (a : W64) : State :=
  if s.ctl || (a.getLsbD 63 && isLocal s.hid a) then s else s.sampled (dieOf s.hid) 1 (clusOf s.hid % 512)

/-- A read of n bytes by the current hart (R88 to R90), which no older stream group meets: checks, traps of R89, then the bytes as the hart sees them. What a data error found is retired at once (R343); registers and other devices are read when the hart is quiet, because such a read is not repeated. -/
def State.readA (s : State) (a : W64) (n : Nat) : Rd :=
  match s.access s.me a n .read with
  | .trap e => .trap e (s.walked s.part a)
  | .wait => .wait (s.held a n .read)
  | .ok (.mem k) pte =>
    if s.badIn k n then .trap ⟨8, w64 (s.errCode s.hid k), a⟩ ((s.count k n).retireBad k n)
    else .ok (s.hart.seen s.hart.fno (.mem k) a (s.rdBytes k n)) (((s.count k n).niSample a).noteWalk s.hart.fno a .read pte)
  | .ok (.reg pa) pte =>
    if !s.hart.quiet then .wait s
    else if n ≤ 8 then
      let r := s.readRegs pa n
      .ok (leBytes n r.1) (r.2.noteWalk s.hart.fno a .read pte)
    else
      let r := s.readRegBytes pa n
      .ok r.1 (r.2.noteWalk s.hart.fno a .read pte)
  | .ok (.remote d v) pte =>
    if !s.hart.quiet then .wait s
    else match s.askRemote a .read with
      | (none, _, t) => .wait t
      | (some true, f, t) =>
        if Config.remoteBad f then .trap ⟨8, 3, a⟩ t
        else .ok (s.hart.seen s.hart.fno (.remote d v) a (remoteBytes f n)) ((t.niSample a).noteWalk s.hart.fno a .read pte)
      | (some false, f, t) => .trap (remoteDeny f .read a) t

/-- A load into a g register (R88). -/
def State.loadG (s : State) (d : GReg) (t : LdTy) (a : W64) : State :=
  s.whenClear a (ldSize t) fun s => match s.readA a (ldSize t) with
  | .ok bs s1 => (s1.mapHart (·.capCount 5)).retireG d (ldExtend t (leNat bs))
  | .trap e s1 => s1.trapA e
  | .wait s1 => s1.waitA .other

/-- `ld` (R88): misaligned data traps; a strong load waits for older B instructions and earlier stores (R22, R214). -/
def execLd (d a : GReg) (t : LdTy) (m : MemMode) (s : State) : Out :=
  let addr := s.g a + memDisp m (ldSize t)
  .next (if addr.toNat % ldSize t ≠ 0 then s.misaligned addr
    else if memStrong m then s.whenQuiet (·.loadG d t addr) else s.loadG d t addr)

/-- Lines of the commit buffer in use or on their way to it (R162). -/
def Hart.cbufLines (h : Hart) : List Nat :=
  (h.cbuf.map Prod.fst ++ (h.sbuf.filter StoreEnt.buffered).map fun (e : StoreEnt) => e.va.toNat / 64).eraseDups

/-- Puts a store in the store buffer, in frame order (R21). -/
def Hart.pushStore (h : Hart) (e : StoreEnt) : Hart :=
  let before (x : StoreEnt) : Bool := decide (x.fno ≤ e.fno)
  ({ h with sbuf := h.sbuf.takeWhile before ++ e :: h.sbuf.dropWhile before } : Hart).capCount 6

/-- Is there a place for a store in the buffer of 64 (R21)? The last one is for a store that leaves some store free to go, so that groups which the others wait for can still enter (log entry 67). -/
def State.room (s : State) (e : StoreEnt) : Bool :=
  let t := s.mapHart (·.pushStore e)
  decide (t.hart.sbuf.length < 64) || (decide (t.hart.sbuf.length = 64) && !t.looseStores.isEmpty)

/-- A store waits for a place in the store buffer (R21), or raises the fault of a stopped stream that its head waits for. -/
def State.waitBuffer (s : State) : State :=
  if s.looseStores.isEmpty then s.waitDrain else s.waitA .store

/-- A store of the hart (R21, R88, R89, R96): traps of R89 at its frame; a full store buffer waits; a store to virtual space of a buffered task goes to the commit buffer, and one that would need line 1,025 discards the task, which returns in exclusive mode (R162). A request to another pool has then passed its window check (R195), one to another device is accepted or refused by it (R196, R205). `rel` marks a release (R214), `tracked` a tracked store (R310); `done` completes the instruction. -/
def State.storeTrk (s : State) (a : W64) (bs : List Byte) (rel tracked : Bool) (done : State → State) : State :=
  if 64 ≤ s.hart.sbuf.length then s.waitBuffer
  else match s.access s.me a bs.length .write with
    | .trap e => (s.walked s.part a).trapA e
    | .wait => (s.held a bs.length .write).waitA .other
    | .ok l pte =>
      let buf := !a.getLsbD 63 && s.hart.isBuffered
      let e : StoreEnt := ⟨l, a, bs, s.hart.fno, false, buf, tracked, rel⟩
      let adm : Option Bool × Nat × State := match l with
        | .remote _ _ => s.askRemote a .write
        | _ => (some true, 0, s)
      if !s.room e then s.waitBuffer
      else if adm.1 = none then adm.2.2.waitA .other
      else if adm.1 = some false then adm.2.2.trapA (remoteDeny adm.2.1 .write a)
      else if buf then
        let ls := s.hart.cbufLines
        if !ls.contains (a.toNat / 64) && decide (1024 ≤ ls.length) then adm.2.2.whenRetired fun t => t.discardTask t.hid true
        else done (adm.2.2.mapHart (·.pushStore e))
      else done ((adm.2.2.mapHart (·.pushStore e)).noteStore a pte)

/-- A store that no tracker measures; `rel` marks a release. -/
def State.storeA (s : State) (a : W64) (bs : List Byte) (rel : Bool) (done : State → State) : State := s.storeTrk a bs rel false done

/-- Low bytes of a g register, for a store (R88). -/
def storeBytes (t : StTy) (x : W64) : List Byte := leBytes (stSize t) (x.toNat % 2 ^ (8 * stSize t))

/-- Is a strong access a release: ORD bit 1 with a scope beyond the hart (R61, R210, R214)? -/
def memRel : MemMode → Bool
  | .weak _ => false
  | .strong o c _ => o.getLsbD 1 && c != .hart

/-- `st` (R88). The store buffer performs stores in program order; a release in it also waits for the groups of older streams (R214). -/
def execSt (d a : GReg) (t : StTy) (m : MemMode) (s : State) : Out :=
  let addr := s.g a + memDisp m (stSize t)
  .next (if addr.toNat % stSize t ≠ 0 then s.misaligned addr
    else s.storeA addr (storeBytes t (s.g d)) (memRel m) State.retire)

/-- Has a queue's stream unit still to reserve or store a group (R92)? -/
def Hart.streamBusy (h : Hart) (q : BitVec 3) : Bool := (h.stream q).active && decide ((h.stream q).next < (h.stream q).total)

/-- Reserves the next slot of q0 to q5 for a load of a frame and sends the load (R18). -/
def Hart.reserve (h : Hart) (q : BitVec 3) (fno : Nat) (data : V512) : Hart :=
  let x := h.rq q
  { h.setQ q { x with ents := x.ents ++ [.pend fno] } with
    flight := h.flight ++ [⟨q, x.head + BitVec.ofNat 4 x.ents.length, fno, data⟩] }

/-- Bytes as a 512-bit value, low byte first. -/
def v512 (bs : List Byte) : V512 := BitVec.ofNat 512 (leNat bs)

/-- A queue load (R90). -/
def State.loadQ (s : State) (q : BitVec 3) (a : W64) : State :=
  s.whenClear a 64 fun s => match s.readA a 64 with
  | .ok bs s1 => (s1.mapHart fun h => (h.capCount 5).reserve q h.fno (v512 bs)).retire
  | .trap e s1 => s1.trapA e
  | .wait s1 => s1.waitA .other

/-- Is a stream-fault of an `sst` on a queue pending (R93)? -/
def Hart.sstFault (h : Hart) (q : BitVec 3) : Bool := 6 ≤ q.toNat && (h.stream q).faulted

/-- `ldq` (R90): waits while the queue's stream has groups left or all 16 slots are in use. -/
def execLdq (q : BitVec 3) (a : GReg) (m : MemMode) (s : State) : Out :=
  let addr := s.g a + memDisp m 64
  .next (if addr.toNat % 64 ≠ 0 then s.misaligned addr
    else if s.hart.streamBusy q || decide (16 ≤ (s.hart.rq q).ents.length) then s.waitA .queue
    else if memStrong m then s.whenQuiet (·.loadQ q addr) else s.loadQ q addr)

/-- Takes the head slot of q6 or q7 (R18). -/
def Hart.popQ (h : Hart) (q : BitVec 3) (fno : Nat) : Hart :=
  let x := h.rq q
  { h.setQ q { x with head := x.head + 1, ents := x.ents.drop 1 } with
    bStall := none
    undo := if h.discardable (fno + 1) then .qPop fno q x.slots[x.head.toNat] :: h.undo else h.undo }

/-- Is the head slot of a queue filled? -/
def Queue.headFull (x : Queue) : Bool := match x.ents with | .full _ :: _ => true | _ => false
/-- The 64 bytes of the head slot. -/
def Queue.headBytes (x : Queue) : List Byte := leBytes 64 (x.slots[x.head.toNat]).toNat

/-- `stq` (R90): waits for a filled slot, stores its 64 bytes and moves the head; a pending fault of the queue's `sst` traps here (R93). -/
def execStq (q : BitVec 3) (a : GReg) (m : MemMode) (s : State) : Out :=
  let addr := s.g a + memDisp m 64
  let x := s.hart.rq q
  .next (if s.hart.sstFault q then s.trapUnit q
    else if addr.toNat % 64 ≠ 0 then s.misaligned addr
    else if s.hart.streamBusy q || !x.headFull then s.waitA .queue
    else s.storeA addr x.headBytes (memRel m) fun t => (t.mapHart fun h => h.popQ q h.fno).retire)

/-- May a store that waits for no stream be performed: have the B words of its frame and of older ones retired (R21), and are the A and D bits of its page set (R203)? -/
def Hart.storeReady (h : Hart) (e : StoreEnt) : Bool :=
  !((h.seq ++ h.enter).any fun x => decide (x.fno ≤ e.fno)) && !(h.walks.any fun x => decide (x.fno ≤ e.fno))

/-- Writes bytes into a line. -/
def lineSet (x : V512) (o : Nat) (bs : List Byte) : V512 :=
  v512 ((overlay 0 (leBytes 64 x.toNat) o bs))

/-- A store enters the commit buffer (R162): its line is read when it is first written, free values where a word of it is uncorrectable (R343). -/
def State.commitStore (s : State) (e : StoreEnt) : State :=
  let line := e.va.toNat / 64
  let o := e.va.toNat % 64
  let fill : V512 × State :=
    match s.hart.cbuf.find? (·.1 == line), e.loc with
    | some (_, x), _ => (x, s)
    | none, .mem k => (v512 (s.rdFree s.freeIx (k - o) 64), (s.count (k - o) 64).retireBad (k - o) 64)
    | none, _ => let (f, s1) := s.nextFv; (v512 (remoteBytes f 64), s1)
  fill.2.mapHart fun h => { h with
    cbuf := kput h.cbuf line (lineSet fill.1 o e.data)
    trk := if e.tracked && !h.trk.contains line then line :: h.trk else h.trk }

/-- DELTA slot of the hart's recompute task (R303, R310). -/
def Hart.dslot (h : Hart) : Nat := match h.task with | some t => (match t.mere with | some m => m.dslot | none => 0) | none => 0

/-- The old contents of a tracked line at its home (R310); those at another device are free values. -/
def State.oldLine (s : State) (l : Loc) (a : W64) : V512 :=
  v512 (match l with | .mem k => s.rdBytes k 64 | _ => remoteBytes (s.freeIx + a.toNat) 64)

/-- A tracked store that is performed directly passes DELTA (R310). -/
def State.measureStore (s : State) (e : StoreEnt) : State :=
  if e.tracked then
    let m := deltaMeasure s.hart.dslot (v512 e.data) (s.oldLine e.loc e.va)
    s.mapHart fun h => { h with meas := if h.meas < m then m else h.meas }
  else s

/-- Performs a store that left the store buffer (R213); where a dump protects its unit, that unit is copied first (R380). -/
def State.performStore (s0 : State) (e : StoreEnt) : State :=
  if e.buffered then s0.commitStore e
  else
    let s := if e.va.getLsbD 63 then s0 else s0.unhold s0.part e.va s0.protCount
    match e.loc with
    | .mem _ => (s.measureStore e).storeAt e.loc e.data e.setFull
    | .reg pa => s.writeRegBytes pa e.data
    | .remote _ _ => s.measureStore e

/-- STORE_PERFORMED (R21, R213): the oldest buffered store that no stream group holds up, once its frame's B words have retired. -/
def execStorePerformed (s : State) : Out :=
  match s.looseStores with
  | e :: _ =>
    .next (if s.hart.storeReady e then (s.mapHart fun h => { h with sbuf := h.sbuf.erase e, aStall := none }).performStore e else s)
  | [] => .next s

/-- Ends the stream of a queue whose groups have all been issued and landed (R94). -/
def Hart.endStream (h : Hart) (q : BitVec 3) (total : Nat) : Hart :=
  let x := h.stream q
  if x.active && decide (total ≤ x.next) && !h.flight.any (·.q == q) then h.setStream q Stream.idle else h

/-- A load lands in its slot (R18); while an older trap could discard it, the slot's bytes are kept (R22). -/
def Hart.land (h : Hart) (f : Flight) : Hart :=
  let x := h.rq f.q
  let i := (f.slot - x.head).toNat
  let ents := x.ents.zipIdx.map fun (e, j) => if j = i then (match e with | .pend n => .full n | e => e) else e
  let h1 := { h.setQ f.q { x with ents := ents, slots := x.slots.set f.slot.toNat f.data } with
    aStall := none, bStall := none
    undo := if h.discardable f.fno then .landed f.fno f.q f.slot x.slots[f.slot.toNat] :: h.undo else h.undo }
  h1.endStream f.q (h.stream f.q).total

/-- LOAD_LANDING (R18): the k-th load in flight of the hart lands. -/
def execLoadLanding (k : Nat) (s : State) : Out :=
  match s.hart.flight[k]? with
  | some f => .next (s.mapHart fun h => { h with flight := h.flight.eraseIdx k }.land f)
  | none => .next s

/-- Fills a translation cache of n entries: a new entry replaces one of its page, else the oldest of a full cache (R204; log entry 12). -/
def tlbFill (n : Nat) (l : List TlbEnt) (e : TlbEnt) : List TlbEnt :=
  let l1 := l.filter fun x => !(x.part == e.part && x.lvl == e.lvl && x.page == e.page)
  (if n ≤ l1.length then l1.drop 1 else l1) ++ [e]

/-- Where a leaf places an address (R203, R205). -/
def leafLoc (e : W64) (lvl : Nat) (a : W64) : Loc :=
  let pa := pteFrame e + a.toNat % 2 ^ pageLog lvl
  if pteKind e = 3 then .remote (bitsN e 25 16) a else if isRegSpace pa then .reg pa else .mem pa

/-- A walk of a buffered store that starts again and faults (R203): the store's frame and the later ones are discarded, and its trap is held. -/
def Hart.storeFault (h : Hart) (fno : Nat) (pc : W64) (x : Snap) (e : Exn) : Hart :=
  { h.restoreFrom fno { x with npc := pc } with trap := some e }

/-- The walk of a request that the hart noted, made again for its access (R203): a buffered store goes where the leaf now says, or faults. -/
def State.rewalk (s : State) (w : WalkReq) : State :=
  match w.back with
  | none => s
  | some (pc, x) => match s.walk s.me w.va w.kind with
    | .leaf e lvl _ => s.mapHart fun h => { h with sbuf := h.sbuf.map fun b => if b.fno = w.fno ∧ b.va = w.va then { b with loc := leafLoc e lvl w.va } else b }
    | .fault r l => s.mapHart (·.storeFault w.fno pc x ⟨6, faultVal false w.kind l r, w.va⟩)
    | .bad at_ => s.mapHart (·.storeFault w.fno pc x ⟨8, w64 (s.errCode s.hid at_), w.va⟩)

/-- The walk of an access of the current hart that can no longer be discarded (R203, R204): each entry read is a request at its controller (R207), A and D are set, and the TLB takes the entry. -/
def State.makeWalk (s : State) (a : W64) (k : AccKind) : State :=
  let s1 := s.walked s.part a
  match s.walk { s.me with mode := 3 } a k with
  | .leaf e lvl at_ =>
    let (e1, s2) := s1.setAD at_ e k
    if s.ctl then s2
    else
      let c := coreOf s.hid
      let x := s2.core c
      s2.setCore c { x with tlb := tlbFill 256 x.tlb ⟨s.part, a.toNat / 2 ^ pageLog lvl, lvl, e1⟩ }
  | _ => s1

/-- As `makeWalk` for an access of a quiet hart about to be performed, if its translation still needs the walk. -/
def State.walkNow (s : State) (a : W64) (k : AccKind) (pte : W64) : State := if s.needsWalk a k pte then s.makeWalk a k else s

/-- PAGE_WALK (R203, R204): walks afresh (`makeWalk`) and gives the noted access what it found; a fault of any other access is reported by the access itself. -/
def execPageWalk (va : W64) (k : AccKind) (s : State) : Out :=
  let mine (w : WalkReq) : Bool := w.va == va && w.kind == k
  let s0 := s.mapHart fun h => { h with walks := removeFirst mine h.walks }
  .next ((match s.hart.walks.find? mine with | some w => s0.rewalk w | none => s0).makeWalk va k)

/-- What a fetch answers: the two words of a frame, a fault, or a wait. -/
inductive Fetched where
  | ok (w0 w1 : W32) (s : State)
  | fault (e : Exn) (s : State)
  | wait (s : State)

/-- The frame that 8 bytes hold (R14, R56). -/
def fetchedOf (bs : List Byte) (s : State) : Fetched :=
  .ok (BitVec.ofNat 32 (leNat (bs.take 4))) (BitVec.ofNat 32 (leNat (bs.drop 4))) s

/-- The frame at an address, or the instruction-fetch fault of R81 and R339; a request that the controllers count (R207), whose page is accessed (R203), that retires what it finds uncorrectable (R343) and that another device may refuse or leave waiting (R358, R359). -/
def State.fetch (s : State) (a : W64) : Fetched :=
  if a.getLsbD 63 then .fault ⟨3, faultVal false .fetch 0 7, a⟩ s
  else match s.resolveVirt s.me a .fetch with
    | .trap e => .fault ⟨3, if e.cause = 8 then faultVal false .fetch 0 6 else e.val, a⟩ (s.walked s.part a)
    | .wait => .wait s
    | .ok (.mem k) pte =>
      if s.badIn k 8 then .fault ⟨3, faultVal false .fetch 0 6, a⟩ ((s.count k 8).retireBad k 8)
      else fetchedOf (s.rdBytes k 8) ((s.count k 8).noteWalk s.hart.fno a .fetch pte)
    | .ok (.reg pa) pte => let r := s.readRegBytes pa 8; fetchedOf r.1 (r.2.noteWalk s.hart.fno a .fetch pte)
    | .ok (.remote _ _) pte => match s.askRemote a .fetch with
      | (none, _, t) => .wait t
      | (some true, f, t) =>
        if Config.remoteBad f then .fault ⟨3, faultVal false .fetch 0 6, a⟩ t else fetchedOf (remoteBytes f 8) (t.noteWalk s.hart.fno a .fetch pte)
      | (some false, f, t) => .fault { remoteDeny f .fetch a with cause := 3 } t

end Sys2Proof.Machine
end

