-- ==== Sys2Proof/Machine/Atomic.lean ====
section
/-! DEFINITION. Atomics (R225 to R227, R360, R361), `fence` (R228) and `waitge` (R229). -/
namespace Sys2Proof.Machine

/-- new of R225 from the old value, b and e of w bits; `none` where `amocas` does not write. -/
def amoNew (op : AmoOp) (w old b e : Nat) : Option Nat :=
  let m := 2 ^ w
  match op with
  | .add => some ((old + b) % m)
  | .swap => some (b % m)
  | .cas => if old = e % m then some (b % m) else none
  | .min => some (if toSigned w b < toSigned w old then b % m else old)
  | .max => some (if toSigned w old < toSigned w b then b % m else old)
  | .minu => some (Nat.min old (b % m))
  | .maxu => some (Nat.max old (b % m))
  | .and => some (old &&& b % m)
  | .or => some (old ||| b % m)
  | .xor => some (old ^^^ b % m)

/-- Does a path carry an atomic (R360)? -/
def pathCarries (op : AmoOp) (host bridge : Bool) : Bool :=
  match op with
  | .add => host || !bridge
  | .swap => host || !bridge
  | .cas => host || !bridge
  | .and => false
  | .or => false
  | .xor => false
  | _ => !host && !bridge

/-- An atomic at the coherence point of its address (R226), for a quiet hart. -/
def State.amoAt (s : State) (op : AmoOp) (n : Nat) (d a b : GReg) : State :=
  let addr := s.g a
  let done (t : State) (old : Nat) : State := t.retireG d (BitVec.ofInt 64 (toSigned (8 * n) old))
  let new (old : Nat) : Option Nat := amoNew op (8 * n) old (s.g b).toNat (s.g d).toNat
  match s.access s.me addr n .atomic with
  | .trap e => (s.walked s.part addr).trapA e
  | .wait => (s.held addr n .atomic).waitA .other
  | .ok (.mem k) pte =>
    if isHostMem k && !pathCarries op true false then s.trapA ⟨0x1A, s.hart.word0, addr⟩
    else if s.badIn k n then ((s.count k n).retireBad k n).trapA ⟨8, w64 (s.errCode s.hid k), addr⟩
    else
      let s1 := s.walkNow addr .atomic pte
      let old := s1.rdN k n
      match new old with
      | some x => done (s1.storeAt (.mem k) (leBytes n x) false).cleared old
      | none => done (s1.count k n) old
  | .ok (.reg pa) pte =>
    let r := (s.walkNow addr .atomic pte).readRegs pa n
    match new r.1 with
    | some x => done (r.2.writeRegs pa n (w64 x)) r.1
    | none => done r.2 r.1
  | .ok (.remote dev _) pte =>
    if !pathCarries op false ((s.route dev).getLsbD 62) then s.trapA ⟨0x1A, s.hart.word0, addr⟩
    else match s.askRemote addr .atomic with
      | (none, _, t) => t.waitA .other
      | (some true, f, t) => if Config.remoteBad f then t.trapA ⟨8, 3, addr⟩ else done (t.walkNow addr .atomic pte) (leNat (remoteBytes f n))
      | (some false, f, t) => t.trapA (remoteDeny f .atomic addr)

/-- An atomic (R226): aligned, strong, performed exactly once, after every earlier access to an overlapping byte and, as a release, after every earlier access (R214). -/
def State.amo (s : State) (op : AmoOp) (n : Nat) (d a b : GReg) (o : BitVec 2) (c : Scope) : State :=
  if (s.g a).toNat % n ≠ 0 then s.misaligned (s.g a)
  else s.whenClear (s.g a) n (·.whenReleased (if o.getLsbD 1 then c else .hart) (·.amoAt op n d a b))

/-- `amoadd.i64` (R225, R226). -/
def execAmoaddI64 (d a b : GReg) (o : BitVec 2) (c : Scope) (s : State) : Out := .next (s.amo .add 8 d a b o c)
/-- `amoswap.i64` (R225, R226). -/
def execAmoswapI64 (d a b : GReg) (o : BitVec 2) (c : Scope) (s : State) : Out := .next (s.amo .swap 8 d a b o c)
/-- `amocas.i64` (R225, R226). -/
def execAmocasI64 (d a b : GReg) (o : BitVec 2) (c : Scope) (s : State) : Out := .next (s.amo .cas 8 d a b o c)
/-- `amomin.i64` (R225, R226). -/
def execAmominI64 (d a b : GReg) (o : BitVec 2) (c : Scope) (s : State) : Out := .next (s.amo .min 8 d a b o c)
/-- `amomax.i64` (R225, R226). -/
def execAmomaxI64 (d a b : GReg) (o : BitVec 2) (c : Scope) (s : State) : Out := .next (s.amo .max 8 d a b o c)
/-- `amominu.i64` (R225, R226). -/
def execAmominuI64 (d a b : GReg) (o : BitVec 2) (c : Scope) (s : State) : Out := .next (s.amo .minu 8 d a b o c)
/-- `amomaxu.i64` (R225, R226). -/
def execAmomaxuI64 (d a b : GReg) (o : BitVec 2) (c : Scope) (s : State) : Out := .next (s.amo .maxu 8 d a b o c)
/-- `amoand.i64` (R225, R226). -/
def execAmoandI64 (d a b : GReg) (o : BitVec 2) (c : Scope) (s : State) : Out := .next (s.amo .and 8 d a b o c)
/-- `amoor.i64` (R225, R226). -/
def execAmoorI64 (d a b : GReg) (o : BitVec 2) (c : Scope) (s : State) : Out := .next (s.amo .or 8 d a b o c)
/-- `amoxor.i64` (R225, R226). -/
def execAmoxorI64 (d a b : GReg) (o : BitVec 2) (c : Scope) (s : State) : Out := .next (s.amo .xor 8 d a b o c)
/-- `amoadd.i32` (R225, R226). -/
def execAmoaddI32 (d a b : GReg) (o : BitVec 2) (c : Scope) (s : State) : Out := .next (s.amo .add 4 d a b o c)
/-- `amoswap.i32` (R225, R226). -/
def execAmoswapI32 (d a b : GReg) (o : BitVec 2) (c : Scope) (s : State) : Out := .next (s.amo .swap 4 d a b o c)
/-- `amocas.i32` (R225, R226). -/
def execAmocasI32 (d a b : GReg) (o : BitVec 2) (c : Scope) (s : State) : Out := .next (s.amo .cas 4 d a b o c)
/-- `amomin.i32` (R225, R226). -/
def execAmominI32 (d a b : GReg) (o : BitVec 2) (c : Scope) (s : State) : Out := .next (s.amo .min 4 d a b o c)
/-- `amomax.i32` (R225, R226). -/
def execAmomaxI32 (d a b : GReg) (o : BitVec 2) (c : Scope) (s : State) : Out := .next (s.amo .max 4 d a b o c)
/-- `amominu.i32` (R225, R226). -/
def execAmominuI32 (d a b : GReg) (o : BitVec 2) (c : Scope) (s : State) : Out := .next (s.amo .minu 4 d a b o c)
/-- `amomaxu.i32` (R225, R226). -/
def execAmomaxuI32 (d a b : GReg) (o : BitVec 2) (c : Scope) (s : State) : Out := .next (s.amo .maxu 4 d a b o c)
/-- `amoand.i32` (R225, R226). -/
def execAmoandI32 (d a b : GReg) (o : BitVec 2) (c : Scope) (s : State) : Out := .next (s.amo .and 4 d a b o c)
/-- `amoor.i32` (R225, R226). -/
def execAmoorI32 (d a b : GReg) (o : BitVec 2) (c : Scope) (s : State) : Out := .next (s.amo .or 4 d a b o c)
/-- `amoxor.i32` (R225, R226). -/
def execAmoxorI32 (d a b : GReg) (o : BitVec 2) (c : Scope) (s : State) : Out := .next (s.amo .xor 4 d a b o c)

/-- Has the hart an engine command that is not complete (R228): a copy, a matrix command, a Flint job or a Tarn command without its result? -/
def State.engineBusy (s : State) (id : Nat) : Bool :=
  let h := s.getHart id
  (s.core (coreIx id)).fifo.any (·.hart == id) || s.dev.copies.any (fun c => c.req.hart == id) || !h.mq.isEmpty ||
    (s.cluster (clusOf id)).ops.any (fun o => o.members.any (·.own == id)) || s.dev.drains.any (·.own == id) ||
    decide (0 < h.flintOut) || decide (0 < h.tarnOut)

/-- Is a stream of the hart under way on a queue of the kind: `sld` on q0 to q5, `sst` on q6 and q7? -/
def Hart.streaming (h : Hart) (stores : Bool) : Bool :=
  (List.range 8).any fun q => (h.str[q]?.getD Stream.idle).active && (decide (6 ≤ q) == stores)

/-- The active streams of a hart among some queues. -/
def Hart.activeOf (h : Hart) (l : List Nat) : List Nat := l.filter fun q => (h.str[q]?.getD Stream.idle).active

/-- `fence` (R228): waits for every earlier access of a named kind; at `.hart` it has no effect. Nothing is fetched ahead (R221). DESIGN CHOICE: it raises the fault of a stopped stream that it waits for (log entries 31 and 67). -/
def execFence (e : BitVec 3) (c : Scope) (s : State) : Out :=
  let h := s.hart
  .next (if c = .hart then s.retire
    else if e.getLsbD 1 && h.streaming true then s.waitStreams (h.activeOf [6, 7])
    else if e.getLsbD 2 && h.streaming false then s.waitStreams (h.activeOf [0, 1, 2, 3, 4, 5])
    else if e.getLsbD 1 && !h.sbuf.isEmpty then s.waitDrain
    else if e.getLsbD 2 && (!h.flight.isEmpty || !h.walks.isEmpty) then s.waitA .other
    else if e.getLsbD 0 && s.engineBusy s.hid then s.waitA .other
    else s.retire)

/-- One poll of `waitge` (R229): a strong load; COUNT at or above the target completes with an acquire. -/
def State.waitgePoll (s : State) (a b : GReg) : State :=
  s.whenClear (s.g a) 8 fun s => match s.readA (s.g a) 8 with
  | .ok bs s1 => if bitsN (s.g b) 55 0 ≤ bitsN (w64 (leNat bs)) 55 0 then s1.retire else s1.waitA .other
  | .trap e s1 => s1.trapA e
  | .wait s1 => s1.waitA .other

/-- `waitge` (R229). -/
def State.waitge (s : State) (a b : GReg) : State :=
  if (s.g a).toNat % 8 ≠ 0 then s.misaligned (s.g a) else s.whenQuiet (·.waitgePoll a b)
/-- `waitge` (R229). -/
def execWaitge (a b : GReg) (s : State) : Out := .next (s.waitge a b)

/-- Word 0 of the frame whose A word waits, if its major opcode is the one given (R104). -/
def Hart.waiting (h : Hart) (major : Nat) : Option W64 :=
  match h.aStall, h.fr with
  | some _, some (w0, _) => if bitsN (w0.setWidth 64) 29 24 = major then some (w0.setWidth 64) else none
  | _, _ => none
/-- A register field of a word, by its lowest bit (R60). -/
def gField (w : W64) (lo : Nat) : GReg := BitVec.ofNat 5 (bitsN w (lo + 4) lo)

/-- WAITGE_POLL (R229): a waiting `waitge` reads its word again. -/
def execWaitgePoll (s : State) : Out :=
  .next (match s.hart.waiting 0x28 with
    | some w => s.waitge (gField w 14) (gField w 9)
    | none => s)

end Sys2Proof.Machine
end

