-- ==== Sys2Proof/Machine/Sync.lean ====
section
/-! DEFINITION. Barriers (R174 to R178), the clock balancer (R166), timed exchange (R179 to R183) and neighbour links (R184, R185). -/
namespace Sys2Proof.Machine

/-- A trap of the A word that changes something else when it is taken (R23). -/
def State.trapAWith (s : State) (e : Exn) (f : State → State) : State :=
  if s.hart.older || !s.hart.flight.isEmpty || s.storing s.hart.fno then s.waitA .other else (f s).takeTrap e false s.hart.pc (s.hart.pc + 8) 1

/-- Reports a refused exchange packet first, if there is one (R181). -/
def State.reportNack (s : State) (go : State → State) : State :=
  match s.hart.nacks with
  | n :: ns => s.trapAWith ⟨7, w64 n.slot, n.dest⟩ fun t => t.mapHart fun h => { h with nacks := ns }
  | [] => go s

/-- Does a domain descriptor break its layout (R174)? -/
def domBad (x : W64) : Bool :=
  decide (1 < bitsN x 63 62) || bitsN x 61 46 != 0 || bitsN x 31 12 != 0 || bitsN x 9 8 != 0 ||
    (bitsN x 63 62 == 1 && (bitsN x 11 10 != 0 || bitsN x 7 4 != 0))

/-- Arrivals of a domain from one member (R175, R176). -/
def Domain.count (d : Domain) (grp : Nat → Nat) (m : Nat) : Nat := (d.arrived.filter fun h => grp h == m).length
/-- Is a domain complete: `n` arrivals from every member? -/
def Domain.complete (d : Domain) (grp : Nat → Nat) (mem : List Nat) (n : Nat) : Bool := mem.all fun m => d.count grp m == n

/-- What an arrival finds (R175, R176): it counts, with the domains after it and the harts it releases, or it waits for the next occurrence. -/
inductive Arrival where
  | counts (doms : List Domain) (released : List Nat)
  | waits
  deriving DecidableEq, Repr

/-- An arrival of a hart at the pending domain of a key, opened if there is none; complete at `n` arrivals of each member, released at p. -/
def arriveAt (doms : List Domain) (key n : Nat) (grp : Nat → Nat) (mem : List Nat) (id : Nat) (p : W64) : Arrival :=
  let isIt (d : Domain) : Bool := d.key == key && d.release.isNone
  let d := (doms.find? isIt).getD ⟨key, n, [], none⟩
  if n ≤ d.count grp (grp id) then .waits
  else
    let d1 := { d with arrived := d.arrived ++ [id] }
    let done := d1.complete grp mem n
    let d2 := if done then { d1 with release := some p } else d1
    .counts (if doms.any isIt then replaceFirst isIt (fun _ => d2) doms else doms ++ [d2]) (if done then d1.arrived else [])

/-- The release point reaches the participants of a completed domain (R177). -/
def State.releaseAt (s : State) (l : List Nat) (p : W64) : State :=
  l.foldl (fun t id => t.setHart id { t.getHart id with wait := .bar (some p) }) s

/-- The hart now waits for its domain (R177). -/
def State.inDomain (s : State) (l : List Nat) (p : W64) : State :=
  let s1 := (s.mapHart fun h => { h with wait := .bar none }).releaseAt l p
  s1.waitA .sync

/-- Member clusters of a die barrier entry (R176). -/
def State.cmap (s : State) (d e : Nat) : List Nat :=
  (List.range 512).filter fun j => (kget 0 (s.die d).bdt (16 * (1 + j / 64) + e)).getLsbD (j % 64)

/-- An arrival at the domain of a descriptor (R174 to R177). DESIGN CHOICE: an ARRIVE of 33 to 63, outside the field's range, traps as one of 0 does (log entry 44). -/
def State.arrive (s : State) (x : W64) : State :=
  let bad : State := s.trapA ⟨0x10, x, 0⟩
  if domBad x then bad
  else if bitsN x 63 62 = 0 then
    let mask := bitsN x 7 0
    let cl := clusOf s.hid
    let c := s.cluster cl
    let pend := c.doms.filter fun d => d.release.isNone
    let n := bitsN x 11 10 + 1
    let p := s.after 16
    if !(w64 mask).getLsbD (coreOf s.hid % 8) then bad
    else if pend.any fun d => (d.key &&& mask) != 0 && (d.key != mask || d.harts != n) then bad
    else if !(pend.any fun d => d.key == mask) && decide (4 ≤ pend.length) then s.waitA .sync
    else match arriveAt c.doms mask n (fun h => coreOf h % 8) ((List.range 8).filter fun i => (w64 mask).getLsbD i) s.hid p with
      | .waits => s.waitA .sync
      | .counts ds l => (s.setCluster cl { c with doms := ds }).inDomain l p
  else
    let d := dieOf s.hid
    let e := bitsN x 3 0
    let w0 := kget 0 (s.die d).bdt e
    let mem := s.cmap d e
    let p := s.after 96
    if !w0.getLsbD 63 || bitsN w0 5 0 == 0 || decide (32 < bitsN w0 5 0) || !mem.contains (clusOf s.hid % 512) then bad
    else match arriveAt (s.die d).doms e (bitsN w0 5 0) (fun h => clusOf h % 512) mem s.hid p with
      | .waits => s.waitA .sync
      | .counts ds l =>
        let s1 := s.setDie d { s.die d with doms := ds }
        let first := (l.head?.map clusOf).getD 0
        let s2 := if !l.isEmpty && w0.getLsbD 62 && first != clusOf s.hid then
          { s1 with dev := { s1.dev with balance := s1.dev.balance ++ [⟨first, clusOf s.hid⟩] } } else s1
        s2.inDomain l p

/-- Is the hart's exchange phase open (R179)? -/
def State.phaseOpen (s : State) : Bool :=
  match s.hart.phase with
  | some p => decide ((s.clk - p.p).toNat < p.xwin) && decide (p.p ≤ s.clk)
  | none => false

/-- `bar` and `sstep` (R177, R179): an arrival that has been made only waits on; an `sstep` first waits for an open phase to end. -/
def State.barrier (s : State) (a : GReg) (step : Bool) : State :=
  if s.ctl then s.illegalA
  else match s.hart.wait with
    | .bar _ => s.waitA .sync
    | _ => s.reportNack fun s =>
      if step && s.phaseOpen then s.waitA .sync else s.whenReleased .dev fun t => t.arrive (t.g a)

/-- `bar` (R175 to R178). -/
def execBar (a : GReg) (s : State) : Out := .next (s.barrier a false)
/-- `sstep` (R177 to R179). -/
def execSstep (a : GReg) (s : State) : Out := .next (s.barrier a true)

/-- The phase that a participant's `sstep` opens at P (R179). -/
def Hart.stepPhase (h : Hart) (p : W64) (cluster : Bool) (key : Nat) : Option Phase :=
  match h.fr with
  | some (f, _) =>
    let x := h.rg (gField (f.setWidth 64) 14)
    if f.toNat % 64 = 7 then some ⟨p, if bitsN x 45 32 = 0 then 16384 else bitsN x 45 32, cluster, key⟩ else none
  | none => none
/-- A participant leaves its barrier at P: an `sstep` opens its phase (R177, R179). -/
def Hart.leaveBarrier (h : Hart) (p : W64) (cluster : Bool) (key : Nat) : Hart :=
  (match h.stepPhase p cluster key with | some x => { h with phase := some x } | none => h).retire

/-- A hart stops at a cut made as in R342 and keeps its place (R378): its loads land, a trap found and not taken is found again, but for a data error, which is held (R343). A hart released from a completed barrier waits for nothing and stays as it is until it leaves. -/
def Hart.debugCut (h : Hart) : Hart :=
  match h.wait with
  | .bar (some _) => h
  | _ =>
    let lost (e : Exn) : Bool := e.cause == 8 || (e.cause == 3 && bitsN e.val 3 0 == 6)
    let h1 := h.flight.foldl Hart.land { h with flight := [], trap := h.trap.filter lost }
    let c := h1.cutAt
    { c.2 with wait := .none, redo := if c.1.2.1 then some (c.1.1, c.1.2.2.2) else none }

/-- Every participant of a domain leaves (R177), one at a halted core to the cut it stops at (R378); the phases that open are those of each cluster of the domain, whose clocks they hold (R179). -/
def State.leaveAll (s : State) (d : Domain) (cluster : Bool) (p : W64) : State :=
  let ps := d.arrived.filterMap fun id => (s.getHart id).stepPhase p cluster d.key
  let s1 := if ps.isEmpty then s
    else (d.arrived.map clusOf).eraseDups.foldl (fun t c => t.setCluster c { t.cluster c with phases := (t.cluster c).phases ++ ps }) s
  d.arrived.foldl (fun t id =>
    let h := (t.getHart id).leaveBarrier p cluster d.key
    t.setHart id (if s.coreHalted (coreOf id) && !isControl id then h.debugCut else h)) s1

/-- BARRIER_COMPLETE (R177): at P, the participants of a completed domain leave it. `k` is 256 * cluster + mask, or 2^20 + 16 * die + entry. -/
def execBarrierComplete (k : Nat) (s : State) : Out :=
  let done (key : Nat) (d : Domain) : Bool := d.key == key && (match d.release with | some p => decide (p ≤ s.clk) | none => false)
  .next (if k < 2 ^ 20 then
    let cl := k / 256
    match (s.cluster cl).doms.find? (done (k % 256)) with
    | some d => (s.setCluster cl { s.cluster cl with doms := removeFirst (done (k % 256)) (s.cluster cl).doms }).leaveAll d true (d.release.getD 0)
    | none => s
  else
    let e := k % 16
    let x := (k - 2 ^ 20) / 16
    match (s.die x).doms.find? (done e) with
    | some d => (s.setDie x { s.die x with doms := removeFirst (done e) (s.die x).doms }).leaveAll d false (d.release.getD 0)
    | none => s)

/-- Has a phase ended (R179)? -/
def Phase.ended (p : Phase) (now : W64) : Bool := decide (p.p ≤ now) && decide (p.xwin ≤ (now - p.p).toNat)

/-- EXCHANGE_PHASE_END (R179): phases close at P + XWIN. -/
def execExchangePhaseEnd (s : State) : Out :=
  let s1 : State := { s with clus := s.clus.map fun (k, c) => (k, { c with phases := c.phases.filter fun p => !p.ended s.clk }) }
  .next (s1.allHarts.foldl (fun t (id, h) => match h.phase with
    | some p => if p.ended s.clk then t.setHart id { h with phase := none } else t
    | none => t) s1)

/-- The phases of a completed domain that are open from its P on, though its participants have not left it yet (R179). -/
def State.domPhases (s : State) (d : Domain) (cluster : Bool) (cl : Nat) : List Phase :=
  match d.release with
  | some p => if decide (p ≤ s.clk) && d.arrived.any (clusOf · == cl) then d.arrived.filterMap fun id => (s.getHart id).stepPhase p cluster d.key else []
  | none => []

/-- The phases of a cluster: those it has entered, and those of its domains that P has opened (R179). -/
def State.phasesOf (s : State) (cl : Nat) : List Phase :=
  (s.cluster cl).phases ++ ((s.cluster cl).doms.flatMap fun d => s.domPhases d true cl) ++
    s.dies.flatMap fun x => x.2.doms.flatMap fun d => s.domPhases d false cl

/-- Is a cluster in an exchange phase (R166, R179)? -/
def State.inPhase (s : State) (cl : Nat) : Bool := (s.phasesOf cl).any fun p => !p.ended s.clk
/-- May a recorded rebalance be made now: is neither of its clusters in an exchange phase (R166)? -/
def State.mayBalance (s : State) (r : Rebalance) : Bool := !s.inPhase r.from_ && !s.inPhase r.to_

/-- CLOCK_REBALANCE (R166): 50 MHz move from the first-arriving cluster to the last, within 1,600 to 2,000 MHz whether or not the power limit slows them; a cluster in an exchange phase keeps its clock, and its change waits. -/
def execClockRebalance (s : State) : Out :=
  match s.dev.balance.find? s.mayBalance with
  | none => .next s
  | some r =>
    let a := s.cluster r.from_
    let b := s.cluster r.to_
    let s1 := { s with dev := { s.dev with balance := removeFirst s.mayBalance s.dev.balance } }
    .next (if 1650 ≤ a.clock ∧ b.mhz ≤ 1950 then (s1.setCluster r.from_ { a with mhz := a.mhz - 50 }).setCluster r.to_ { b with mhz := b.mhz + 50 } else s1)

/-- The SELF form of an offset in the own pool (R190). -/
def selfAddr (o : Nat) : W64 := w64 (2 ^ 63 + 2 ^ 32 + o)

/-- First byte of a range in the own pool that is not in the task's share (R180, R192). -/
def State.outsideShare (s : State) (o n : Nat) : Option Nat :=
  lowest n fun i => !(decide (o + i < 262144) && s.localOk { s.me with mode := 0 } (o + i) 1)

/-- Does the exchange reject a destination: outside core space, the device's layout, the die or the partition (R180, R191)? -/
def State.destBad (s : State) (a : W64) : Bool :=
  !a.getLsbD 63 || coreMalformed a || coreNamed s.hid a / 4096 != dieOf s.hid || s.gpart (coreNamed s.hid a / 8) != s.part

/-- The number of the task that a hart runs. -/
def Hart.ident (h : Hart) : Nat := match h.task with | some t => t.ident | none => 0

/-- Sends the packet of an `xsend` whose slot has come: the source is read now (R180), with the hart's own earlier stores in it (R17, R21). DESIGN CHOICE: R180 lists no data error, so an uncorrectable word is sent as a free value and its unit is retired (log entry 45). -/
def State.inject (s : State) (x dest : W64) (slot : Nat) : State :=
  let n := 64 * (bitsN x 21 20 + 1)
  let k := poolKey (coreOf s.hid) (bitsN x 17 0)
  let bs := s.hart.seen s.hart.fno (.mem k) (selfAddr (bitsN x 17 0)) (s.rdFree s.freeIx k n)
  let s1 := s.retireBad k n
  ({ s1 with dev := { s1.dev with packets := s1.dev.packets ++ [Packet.mk s.hid dest slot (bitsN x 28 24) bs s.hart.ident s.clk] } } : State).retire

/-- `xsend` (R180): the checks in their order, the wait for older stream groups that store to the source (R17) and for P + slot, the send. -/
def State.xsend (s : State) (a b : GReg) (slot : Nat) : State :=
  let x := s.g a
  let dest := s.g b
  let o := bitsN x 17 0
  let late (n : Nat) : State := s.trapA ⟨0xF, w64 (slot + n * 2 ^ 32), 0⟩
  if s.ctl then s.illegalA
  else match s.hart.wait with
    | .timed t => if t ≤ s.clk then s.inject x dest slot else s.waitA .other
    | _ => match s.hart.phase with
      | none => late 0xFFFFFFFF
      | some p =>
        let t := p.p + w64 slot
        if !s.phaseOpen || decide (p.xwin ≤ slot) then late 0xFFFFFFFF
        else if o % 64 ≠ 0 then s.misaligned (selfAddr o)
        else match s.outsideShare o (64 * (bitsN x 21 20 + 1)) with
          | some i => s.trapA ⟨5, 0, selfAddr (o + i)⟩
          | none =>
            if dest.toNat % 64 ≠ 0 then s.misaligned dest
            else if s.destBad dest then s.trapA ⟨5, 0, dest⟩
            else if t < s.clk then late ((s.clk - t).toNat % 2 ^ 32)
            else s.whenClear (selfAddr o) (64 * (bitsN x 21 20 + 1)) fun s => s.whenRetired fun s =>
              if t = s.clk then s.inject x dest slot else (s.mapHart fun h => { h with wait := .timed t }).waitA .other
/-- `xsend` (R180). -/
def execXsend (a b : GReg) (slot : BitVec 14) (s : State) : Out := .next (s.xsend a b slot.toNat)

/-- XSEND_INJECT (R180): a waiting `xsend` whose slot has come. -/
def execXsendInject (s : State) : Out :=
  .next (match s.hart.waiting 0x2A with
    | some w => s.xsend (gField w 19) (gField w 14) (bitsN w 13 0)
    | none => s)

/-- A refused exchange packet is reported to its sender (R181): the task that sent it, on whatever hart it runs or in a saved context; one that has ended hears nothing. -/
def State.refusePacket (s : State) (ident : Nat) (dest : W64) (slot : Nat) : State :=
  match s.allHarts.find? fun p => match p.2.task with | some t => t.ident == ident | none => false with
  | some (id, h) => s.setHart id { h with nacks := h.nacks ++ [Nack.mk dest slot] }
  | none => s.mapEntries (fun e => e.ctx.isSome && e.ident == ident) fun e => { e with nacks := e.nacks ++ [Nack.mk dest slot] }

/-- An accepted exchange packet writes the pool, sets its granules full and counts in its mailbox (R181). -/
def State.landPacket (s : State) (c o tag : Nat) (bs : List Byte) : State :=
  let s2 := s.storeAt (.mem (poolKey c o)) bs true
  let x := s2.core c
  s2.setCore c { x with mbox := kset 0 x.mbox tag (min 65535 (kget 0 x.mbox tag + 1)) }

/-- Packets that meet are served lower sending hart first (R181): of those injected in one clk, the lowest hart's. -/
def State.packetAt (s : State) (k : Nat) : Option (Nat × Packet) :=
  match s.dev.packets[k]? with
  | none => none
  | some p =>
    s.dev.packets.zipIdx.foldl (fun m (q, i) => match m with
      | some (_, x) => if q.sent = p.sent ∧ q.hart < x.hart then some (i, q) else m
      | none => none) (some (k, p))

/-- PACKET_ARRIVAL (R181, R378): the k-th packet on its way, or the one that goes before it, is admitted and written, and counted in its mailbox, or refused and reported to its sender; at a halted core it stands in the inbound buffer. -/
def execPacketArrival (k : Nat) (s : State) : Out :=
  match s.packetAt k with
  | none => .next s
  | some (k, p) =>
    let c := coreNamed p.hart p.dest
    let o := bitsN p.dest 17 0
    let s1 := { s with dev := { s.dev with packets := s.dev.packets.eraseIdx k } }
    let cls := srcClass p.hart c
    .next (if s.gpart (c / 8) ≠ s.partOf p.hart then s1.refusePacket p.ident p.dest p.slot
      else if s.coreHalted c then
        let x := s1.core c
        if 64 ≤ x.inbox.length then s1.refusePacket p.ident p.dest p.slot
        else s1.setCore c { x with
          inbox := x.inbox ++ [⟨c, BitVec.ofNat 2 cls, .write, o, p.data.length, p.data, true, some p.hart, p.dest, some (p.tag, p.slot, p.ident), .none⟩] }
      else if s.admits c .write cls o p.data.length = true then s1.landPacket c o p.tag p.data
      else s1.refusePacket p.ident p.dest p.slot)

/-- Has a hart's task an exchange packet that is not acknowledged (R181), sent from this hart or from one that it left? -/
def State.unacked (s : State) (id : Nat) : Bool :=
  match (s.getHart id).task with
  | none => false
  | some t => s.dev.packets.any (·.ident == t.ident) || s.cores.any fun (_, x) => x.inbox.any fun r => match r.pkt with | some (_, _, i) => i == t.ident | none => false

/-- Is no other hart of the core waiting longer with a word that `same` picks out (R183, R185)? -/
def State.firstInLine (s : State) (major : Nat) (same : W64 → Bool) (start : W64) : Bool :=
  (List.range 4).all fun n =>
    let id := hartOf (coreOf s.hid) n
    let h := s.getHart id
    id == s.hid || (match h.wait, h.waiting major with
      | .timed t, some w => !same w || decide (start < t) || (start == t && decide (s.hid < id))
      | _, _ => true)

/-- Does an earlier `mbwait` of the core on the same counter stand before this one with what it waits for (R183)? -/
def State.mbBefore (s : State) (tag ctr : Nat) (start : W64) : Bool :=
  (List.range 4).any fun n =>
    let id := hartOf (coreOf s.hid) n
    let h := s.getHart id
    id != s.hid && (match h.wait, h.waiting 0x2B with
      | .timed t, some w => bitsN w 8 4 == tag && (decide (t < start) || (t == start && decide (id < s.hid))) && decide (bitsN (h.rg (gField w 14)) 15 0 ≤ ctr)
      | _, _ => false)

/-- `mbwait` (R183): it ends once its count is there and it is first in line, or its time is over; one before it that has its count is served first. -/
def State.mbwait (s : State) (d a b : GReg) (tag : Nat) : State :=
  if s.ctl then s.illegalA
  else s.reportNack fun s => s.whenRetired fun s =>
    let n := bitsN (s.g a) 15 0
    let c := coreOf s.hid
    let x := s.core c
    let ctr := kget 0 x.mbox tag
    let start := match s.hart.wait with | .timed t => t | _ => s.clk
    let set (v : Nat) : State := s.setCore c { x with mbox := kset 0 x.mbox tag v }
    let turn := s.firstInLine 0x2B (fun w => bitsN w 8 4 == tag) start
    if n = 0 then s.retireG d 0
    else if s.mbBefore tag ctr start then (s.mapHart fun h => { h with wait := .timed start }).waitA .sync
    else if n ≤ ctr ∧ (turn = true ∨ bitsN (s.g b) 31 0 ≤ (s.clk - start).toNat) then (set (ctr - n)).retireG d (w64 n)
    else if bitsN (s.g b) 31 0 ≤ (s.clk - start).toNat then (set 0).retireG d (w64 (2 ^ 63 + ctr))
    else (s.mapHart fun h => { h with wait := .timed start }).waitA .sync
/-- `mbwait` (R183). -/
def execMbwait (d a b : GReg) (tag : BitVec 5) (s : State) : Out := .next (s.mbwait d a b tag.toNat)

/-- MBWAIT_TIMEOUT (R183): a waiting `mbwait` makes its test again. -/
def execMbwaitTimeout (s : State) : Out :=
  .next (match s.hart.waiting 0x2B with
    | some w => s.mbwait (gField w 19) (gField w 14) (gField w 9) (bitsN w 8 4)
    | none => s)

/-- The neighbour of a core to the east, else west; `none` at the end of the row (R184). -/
def neighbour (core : Nat) (west : Bool) : Option Nat :=
  if west then (if core % 8 = 0 then none else some (core - 1)) else (if core % 8 = 7 then none else some (core + 1))
/-- Input FIFO of a core from one side (R184). -/
def Core.link (x : Core) (west : Bool) : List W64 := if west then x.west else x.east
/-- Writes an input FIFO. -/
def Core.setLink (x : Core) (west : Bool) (l : List W64) : Core := if west then { x with west := l } else { x with east := l }

/-- Can a push towards one side be made now: is there a neighbour with room in its opposite input (R184)? -/
def State.linkRoom (s : State) (core : Nat) (west : Bool) : Bool :=
  match neighbour core west with
  | some n => decide (((s.core n).link (!west)).length < 4)
  | none => false
/-- Pushes a word into the neighbour's input (R184). -/
def State.linkPush (s : State) (core : Nat) (west : Bool) (v : W64) : State :=
  match neighbour core west with
  | some n => let x := s.core n; s.setCore n (x.setLink (!west) (x.link (!west) ++ [v]))
  | none => s
/-- May a wait on a neighbour end not-ready (R185)? -/
def State.linkDead (s : State) (core : Nat) (west : Bool) (start : W64) : Bool :=
  match neighbour core west with
  | none => true
  | some n =>
    decide (bitsN (s.core core).lnkto 15 0 ≤ (s.clk - start).toNat) &&
      (s.coreHalted n || (List.range 4).all fun i => (s.getHart (hartOf n i)).run == .parked)

/-- A link access waits on one side, or ends not-ready (R184, R185). -/
def State.linkWait (s : State) (west : Bool) (start : W64) : State :=
  let c := coreOf s.hid
  if s.linkDead c west start then
    let x := s.core c
    (s.setCore c { x with lnkerr := x.lnkerr ||| (if west then 2 else 1) }).retire
  else (s.mapHart fun h => { h with wait := .timed start }).waitA .other

/-- Is a matrix operation reading a core's link input (R239)? Then `lnkr` waits. -/
def State.linkBusy (s : State) (core : Nat) (west : Bool) : Bool :=
  (s.cluster (core / 8)).ops.any fun o => o.members.any fun m =>
    let reads (d : W64) (n : Nat) : Bool := n != 0 && bitsN d 63 62 == (if west then 2 else 3)
    m.core == core && (reads m.cmd.w[1] m.na || reads m.cmd.w[3] m.nb)

/-- What a link access does: a read, with or without a push onward, or a write of g[gs1] (R184). -/
inductive LinkOp where
  | read (d : GReg) | fwd (d : GReg) | write (a : GReg)
  deriving DecidableEq, Repr

/-- A link access on the east, else west side (R184, R185). -/
def State.linkAccess (s : State) (op : LinkOp) (west : Bool) : State :=
  if s.ctl then s.illegalA
  else s.whenRetired fun s =>
    let c := coreOf s.hid
    let start := match s.hart.wait with | .timed t => t | _ => s.clk
    let pop (t : State) : State := let x := t.core c; t.setCore c (x.setLink west ((x.link west).drop 1))
    let func (w : W64) : Nat := bitsN w 2 0
    let side (w : Bool) : Nat := if w then 2 else 0
    let turnR := !s.linkBusy c west && s.firstInLine 0x24 (fun w => func w == side west || func w == 4 + side west) start
    -- a push towards a side stands in line with the other writes there, and with reads that have their word and push it on
    let turnW (to_ : Bool) : Bool := s.firstInLine 0x24 (fun w => func w == 1 + side to_ || (func w == 4 + side (!to_) && !((s.core c).link (!to_)).isEmpty)) start
    match op with
    | .read d =>
      match (s.core c).link west with
      | v :: _ => if turnR then (pop s).retireG d v else s.linkWait west start
      | [] => s.linkWait west start
    | .fwd d =>
      match (s.core c).link west with
      | v :: _ =>
        if !turnR then s.linkWait west start
        else if turnW (!west) && s.linkRoom c (!west) then ((pop s).linkPush c (!west) v).retireG d v
        else s.linkWait (!west) start
      | [] => s.linkWait west start
    | .write a => if turnW west && s.linkRoom c west then (s.linkPush c west (s.g a)).retire else s.linkWait west start

/-- `lnkr` (R184). -/
def execLnkr (d : GReg) (w : Bool) (s : State) : Out := .next (s.linkAccess (.read d) w)
/-- `lnkw` (R184). -/
def execLnkw (a : GReg) (w : Bool) (s : State) : Out := .next (s.linkAccess (.write a) w)
/-- `lnkr.fwd` (R184). -/
def execLnkrFwd (d : GReg) (w : Bool) (s : State) : Out := .next (s.linkAccess (.fwd d) w)

/-- LINK_NOT_READY_TIMEOUT (R185): a waiting link access looks again. -/
def execLinkNotReadyTimeout (s : State) : Out :=
  .next (match s.hart.waiting 0x24 with
    | some w =>
      let west := bitsN w 1 1 == 1
      if bitsN w 0 0 = 1 then s.linkAccess (.write (gField w 14)) west
      else s.linkAccess (if bitsN w 2 2 = 1 then .fwd (gField w 19) else .read (gField w 19)) west
    | none => s)

end Sys2Proof.Machine
end

