-- ==== Sys2Proof/Machine/Boot.lean ====
section
/-! DEFINITION. Reset (R26), start-up waves and slices (R382), power (R381), the boot ROM, recovery and attestation (R383 to R385). -/
namespace Sys2Proof.Machine

/-- DEVICE_RESET (R26): every register and unit at its reset value; memory, host memory, flash and fuses keep their contents. -/
def execDeviceReset (s : State) : Out :=
  .next { State.reset with
    mem := s.mem, full := s.full, bad := s.bad, tick := s.tick, fv := s.fv
    dev := { Device.reset with flash := s.dev.flash, fuse := s.dev.fuse } }

/-- CLUSTER_WAVE_POWER_UP (R382): clusters 8w to 8w + 7 of every die, for the next wave w. -/
def execClusterWavePowerUp (s : State) : Out :=
  let w := s.dev.waves
  .next (if 64 ≤ w then s
    else
      let cls := (List.range 4).flatMap fun d => (List.range 8).map (512 * d + 8 * w + ·)
      cls.foldl (fun t c => t.setCluster c { t.cluster c with powered := true }) { s with dev := { s.dev with waves := w + 1 } })

/-- MATRIX_SLICE_ENABLE (R382): the next 8 columns of a powered array. -/
def execMatrixSliceEnable (cl : Nat) (s : State) : Out :=
  let c := s.cluster cl
  .next (if c.powered && decide (c.slices < 8) then s.setCluster cl { c with slices := c.slices + 1 } else s)

/-- MATRIX_ARRAY_IDLE (R382): an array idle for 2^20 clk must enable its slices again. -/
def execMatrixArrayIdle (cl : Nat) (s : State) : Out :=
  let c := s.cluster cl
  .next (if c.ops.isEmpty && decide (2 ^ 20 ≤ (s.clk - c.mxBusy).toNat) then s.setCluster cl { c with slices := 0 } else s)

/-- The least effective ENERGY among the regions whose tasks a cluster runs (R149): the power limit slows the cluster in inverse proportion to it. -/
def State.energyOf (s : State) (cl : Nat) : Option Nat :=
  ((s.tasks.filter fun p => clusOf p.1 == cl).map fun p => p.2.eff.energy).foldl (fun (m : Option Nat) x => match m with | some y => some (min x y) | none => some x) none
/-- Clusters of a die that a power update may slow: powered, in no exchange phase (R1), and not yet at 1,600 MHz. -/
def State.slowable (s : State) (d : Nat) : List Nat :=
  ((List.range 512).map (512 * d + ·)).filter fun k => (s.cluster k).powered && !s.inPhase k && decide (1600 < (s.cluster k).clock)
/-- At the power limit (R1, R149, R381): the clusters that run tasks are slowed, each by a free amount over its ENERGY, down to 1,600 MHz; the others once none of those is left to slow. None is sped up. -/
def State.slow (s : State) (d f : Nat) : State :=
  let l := s.slowable d
  let busy := l.filter fun k => (s.energyOf k).isSome
  (if busy.isEmpty then l else busy).foldl (fun t k =>
    let c := t.cluster k
    let by_ := max 1 (128 * (1 + Config.balancedMhz f) / max 1 ((s.energyOf k).getD 128))
    t.setCluster k { c with cut := min (c.mhz - 1600) (c.cut + by_) }) s
/-- Below the power limit (R1, R381): each cluster runs at its balanced clock again, so that the die's average is 1,800 MHz; a cluster in an exchange phase waits for its end. -/
def State.unslow (s : State) (d : Nat) : State :=
  { s with clus := s.clus.map fun (k, c) => (k, if k / 512 ≠ d ∨ s.inPhase k = true then c else { c with cut := 0 }) }

/-- Errors that ECC has corrected on a die since the last update count in CESRAM and CEDRAM, saturating (R343, R374): how many is a free value (log entry 27). -/
def State.errorsCorrected (s : State) (d f : Nat) : State :=
  let r := obsBase d + 0x18
  let w := s.getReg r
  let up (hi lo : Nat) (b : Bool) : Nat := min (2 ^ 32 - 1) (bitsN w hi lo + Config.corrected f b)
  s.setReg r (w64 (up 63 32 true * 2 ^ 32 + up 31 0 false))
/-- The control complex may clear the mark of a retired pool unit of a die that no task holds (R343): which it clears is a free value (log entry 27). -/
def State.clearMarks (s : State) (d f : Nat) : State :=
  { s with cores := s.cores.map fun (k, x) =>
    if k / 4096 = d then (k, { x with retired := x.retired.filter fun u => !(kget UnitUse.free x.units u == .free && Config.clearsMark f (64 * k + u)) }) else (k, x) }

/-- POWER_AVERAGE_UPDATE (R381), with what the die's ECC and its control complex have done in that time (R343). -/
def execPowerAverageUpdate (die : BitVec 2) (w : BitVec 16) (s : State) : Out :=
  let d := die.toNat
  let b := obsBase d + 0x4000
  let (f, s1) := s.nextFv
  let s2 := (((s1.setReg (b + 8) (w.setWidth 64)).setDie d { s1.die d with powerSince := s.clk }).errorsCorrected d f).clearMarks d f
  .next (if bitsN (s.getReg b) 15 0 ≤ w.toNat then s2.slow d f else s2.unslow d)

/-- A field of a firmware image (R383). -/
def fwWord (img : List Byte) (o : Nat) : Nat := leNat ((img.drop o).take 8)
/-- The body of a firmware image (R383). -/
def fwBody (img : List Byte) : List Byte := (img.drop 0x100).take (fwWord img 8)

/-- REASON for which the ROM rejects an image (R383, R384): `short` is the code of an image shorter than it says. -/
def romRejects (img : List Byte) (fuse short : Nat) : Option Nat :=
  let len := fwWord img 8
  let load := fwWord img 16
  if img.length < 0x100 then some short
  else if fwWord img 0 / 2 ^ 32 ≠ 0x4C390001 ∨ (List.range 4).any (fun i => fwWord img (32 + 8 * i) != 0) = true ∨
      0xC000000000 < load + len ∨ len ≤ fwWord img 24 then some 1
  else if img.length < 0x100 + len then some short
  else if Config.sha256 ((img.drop 0x40).take 64) ≠ fuse then some 2
  else if !Config.ecdsaVerify (leNat ((img.drop 0x40).take 64)) (Config.sha256 (img.take 0x80 ++ fwBody img)) (leNat ((img.drop 0x80).take 32))
      (leNat ((img.drop 0xA0).take 32)) then some 3
  else none

/-- STATE and REASON of the recovery registers (R384). -/
def State.recovery (s : State) (st reason : Nat) : State := s.setReg (hostPage 0 + 0x2000) (w64 (st * 2 ^ 60 + reason))
/-- STATE (R384). -/
def State.bootState (s : State) : Nat := bitsN (s.getReg (hostPage 0 + 0x2000)) 63 60

/-- The ROM runs an accepted image (R383): the body is loaded, every control hart starts in machine mode at the entry, and the control complex gives each die its interleave mode, a free value (R198). -/
def State.bootImage (s : State) (img : List Byte) : State :=
  let load := fwWord img 16
  let mode (t : State) (d : Nat) : State := t.setDie d { t.die d with interleave := (Config.interleave d).toNat }
  let s1 := ((List.range 4).foldl mode (s.wrBytes load (fwBody img))).recovery 1 0
  let s2 : State := { s1 with dev := { s1.dev with digest := Config.sha256 img } }
  let go (t : State) (id : Nat) : State :=
    if (t.getHart id).run = .held ∨ id = bootHart then t.setHart id { Hart.control with run := .running, pc := w64 ((load + fwWord img 24) / 8 * 8) } else t
  ((List.range 4).flatMap fun d => (List.range 4).map (ctlHart d)).foldl go s2

/-- Is control hart 0 of die 0 still in the boot ROM (R26, R383): at the ROM entry, before any image has been accepted? -/
def State.inRom (s : State) : Bool :=
  let h := s.getHart bootHart
  s.bootState != 1 && h.run == .running && h.pc == 0 && h.reg .status == 0x60

/-- What the boot ROM does with the image in flash (R383, R384). -/
def State.bootRom (s : State) : State :=
  match romRejects s.dev.flash s.dev.fuse 4 with
  | some r => s.recovery 2 r
  | none => s.bootImage s.dev.flash

/-- Where a new image of n bytes stands in device memory (R384): a free address. -/
def stageKey (n : Nat) : Nat := Config.stageAt % (0xC000000000 - n)

/-- RECOVERY_GO (R384): in STATE 2 the image in host memory is read into device memory, STATE 3; in STATE 3 it is verified; accepted, it replaces the flash image and is booted. -/
def execRecoveryGo (s : State) : Out :=
  let src := bitsN (s.getReg (hostPage 0 + 0x2008)) 50 0
  let n := bitsN (s.getReg (hostPage 0 + 0x2010)) 31 0
  let key := 0x8000000000000 + src
  .next (if s.bootState = 2 then
      (if 2 ^ 51 < src + n ∨ s.badIn key n = true then s.recovery 2 6
      else
        let s1 := (s.writeEcc (stageKey n) (s.rdBytes key n)).recovery 3 0
        ({ s1 with dev := { s1.dev with staged := n } } : State).soon [.recoveryGo])
    else if s.bootState ≠ 3 then s
    else
      let img := s.rdFree s.freeIx (stageKey s.dev.staged) s.dev.staged
      match romRejects img s.dev.fuse 1 with
      | some r => s.recovery 2 r
      | none =>
        let (f, s1) := s.nextFv
        if Config.flashWriteOk f then ({ s1 with dev := { s1.dev with flash := img } } : State).bootImage img else s1.recovery 4 0)

/-- The nonce that the host wrote (R385). -/
def State.nonce (s : State) : List Byte := (List.range 4).flatMap fun i => leBytes 8 (s.getReg (hostPage 0 + 0x2040 + 8 * i)).toNat

/-- What the attestation signature covers (R385): nonce, digest, DEVNUM, GPART of each group of each die. -/
def State.attested (s : State) : List Byte :=
  s.nonce ++ leBytes 32 s.dev.digest ++ leBytes 2 (bitsN (s.getReg (regBase 0 + 0x5000000)) 9 0) ++
    (List.range 4).flatMap fun d => (List.range 32).map fun g => BitVec.ofNat 8 (s.gpart (512 * d + 16 * g))

/-- ATTESTATION_REQUEST (R385): digest and signature; 0x2060 reads 1 until they are written, which running firmware does. -/
def execAttestationRequest (s : State) : Out :=
  let r := hostPage 0 + 0x2060
  .next (if s.bootState ≠ 1 then s.setReg r 1
    else
      let m := Config.sha256 s.attested
      let sig := (List.range 64).map (Config.ecdsaSign m)
      let bs := leBytes 32 s.dev.digest ++ sig
      ((List.range 12).foldl (fun t i => t.setReg (hostPage 0 + 0x2080 + 8 * i) (w64 (leNat ((bs.drop (8 * i)).take 8)))) s).setReg r 0)

end Sys2Proof.Machine
end

