-- ==== Sys2Proof/Machine/Branch.lean ====
section
/-! DEFINITION. Branches, jumps, hardware loops and the repeat prefix (R78 to R87). -/
namespace Sys2Proof.Machine

/-- An offset in frames from the branch's own frame (R62). -/
def State.target {n : Nat} (s : State) (o : BitVec n) : W64 := s.hart.pc + (o.signExtend 64 <<< 3)

/-- A conditional branch (R78, R84). -/
def State.branch (s : State) (taken : Bool) (o : BitVec 14) : Out :=
  .next (if taken then s.retireTo (s.target o) false else s.retire)

/-- `beq` (R78). -/
def execBeq (a b : GReg) (o : BitVec 14) (s : State) : Out := s.branch (s.g a == s.g b) o
/-- `bne` (R78). -/
def execBne (a b : GReg) (o : BitVec 14) (s : State) : Out := s.branch (s.g a != s.g b) o
/-- `blt` (R78). -/
def execBlt (a b : GReg) (o : BitVec 14) (s : State) : Out := s.branch ((s.g a).slt (s.g b)) o
/-- `bge` (R78). -/
def execBge (a b : GReg) (o : BitVec 14) (s : State) : Out := s.branch (!(s.g a).slt (s.g b)) o
/-- `bltu` (R78). -/
def execBltu (a b : GReg) (o : BitVec 14) (s : State) : Out := s.branch ((s.g a).ult (s.g b)) o
/-- `bgeu` (R78). -/
def execBgeu (a b : GReg) (o : BitVec 14) (s : State) : Out := s.branch (!(s.g a).ult (s.g b)) o

/-- A jump writes gd := F + 8 and goes to the target; one whose gd is not g0 is a call (R79, R84). -/
def State.jump (s : State) (d : GReg) (t : W64) : Out :=
  .next (s.traceJump.mapHart fun h => (h.setG d (h.pc + 8)).retireTo t (d != 0))

/-- `jal` (R79). -/
def execJal (d : GReg) (o : BitVec 19) (s : State) : Out := s.jump d (s.target o)
/-- `jalr` (R71, R79): g[gs1] is read before gd is written. -/
def execJalr (d a : GReg) (i : BitVec 14) (s : State) : Out :=
  let t := s.g a + i.signExtend 64
  if t.toNat % 8 ≠ 0 then .next (s.trapA ⟨1, t, 0⟩) else s.jump d t

/-- `bqb` (R20, R80): waits while bq is empty, pops its head and branches if it is 1. -/
def execBqb (o : BitVec 19) (s : State) : Out :=
  match s.hart.bq with
  | [] => .next (s.waitA .bq)
  | b :: bs =>
    let s1 := s.mapHart fun h => { h with bq := bs, bStall := none, undo := if h.older then .bqPop h.fno b :: h.undo else h.undo }
    .next (if b then s1.retireTo (s.target o) false else s1.retire)

/-- The frames of a loop body as the access pipeline fetches them (R85); none where a fetch faults or waits, which the loop then meets frame by frame. -/
def State.bodyFrames (s : State) (start : W64) : Nat → Option (List (W64 × W32 × W32) × State)
  | 0 => some ([], s)
  | n + 1 =>
    match s.fetch start with
    | .ok w0 w1 t => (t.bodyFrames (start + 8) n).map fun p => ((start, w0, w1) :: p.1, p.2)
    | _ => none

/-- Has a frame no A word or a `nop` A word (R85)? A lone A `nop` has a zero word 1. -/
def plainFrame (w0 w1 : W32) : Bool :=
  w0 == 0 || (w0 == 0x80000000 && w1 == 0) || (w0.getLsbD 31 && w0.getLsbD 30 && w0 != 0xFFFFFFFF)

/-- The B word of a frame that `plainFrame` accepts, with its literal (R57, R58). -/
def bodyWord (w0 w1 : W32) : Option (W32 × Option W32) :=
  if w0 = 0 then (if w1 = 0 then none else some (w1, none))
  else if w0 = 0x80000000 then none
  else some (w0 &&& 0x3FFFFFFF, some w1)

/-- The sequencer entries of a resident loop, of the frame number after the loop's own (R85). -/
def Hart.resident (h : Hart) (start last count : W64) (fs : List (W64 × W32 × W32)) : List SeqEnt :=
  fs.filterMap fun (pc, w0, w1) => (bodyWord w0 w1).map fun (w, lit) =>
    ⟨pc, h.fno + 1, w, lit, none, 0, 0, 0, 0, h.snap (last + 8), some ⟨h.fno, start, last, 1, count⟩⟩

/-- A loop runs resident (R85): its own B word, which a trap or a cut would resume with the loop pushed, enters the sequencer, then the body's as places are free (R15); each frame counts as issued once (log entry 67), and the stream goes on after the body. -/
def Hart.runResident (h : Hart) (start last count : W64) (fs : List (W64 × W32 × W32)) : Hart :=
  let h1 := h.endFrame start (⟨start, last, count⟩ :: h.loops) 1 0 0 0 false
  let h2 := fs.foldl (fun x _ => x.capCount 1) h1
  { h2 with pc := last + 8, loops := h.loops, fno := h2.fno + 1, enter := h2.enter ++ h.resident start last count fs }

/-- A loop instruction (R82, R85): a zero count skips the body; a full stack or a body that is not nested traps; a body without A words runs resident, unless an outer loop ends on the same frame; else the loop is pushed. DESIGN CHOICE: a loop with a zero count that stands in the last frame of an outer loop leaves the outer entry as it is, since R82 sends PC past the body and R83's step is that of a frame that completes without leaving it (log entry 17). -/
def State.loopTo (s : State) (count : W64) (n : BitVec 10) : Out :=
  let f := s.hart.pc
  let start := f + 8
  let last := f + w64 (8 * n.toNat)
  let outside := match s.hart.loops with | e :: _ => decide (e.last < last) | [] => false
  if count = 0 then .next (s.mapHart fun h => h.endFrame (last + 8) h.loops 1 0 0 0 false)
  else if s.hart.loops.length = 4 then .next s.illegalA
  else if outside then .next s.illegalA
  else
    let push : State := s.mapHart fun h => h.endFrame start (⟨start, last, count⟩ :: h.loops) 1 0 0 0 false
    match (if n.toNat ≤ 16 ∧ !s.hart.loops.any (·.last == last) then s.bodyFrames start n.toNat else none) with
    | none => .next push
    | some (fs, t) =>
      .next (if fs.all fun (_, w0, w1) => plainFrame w0 w1 then t.mapHart fun h => h.runResident start last count fs else push)

/-- `loop` (R82): the count is g[gs1]. -/
def execLoop (a : GReg) (n : BitVec 10) (s : State) : Out := s.loopTo (s.g a) n
/-- `loopi` (R82): the count is cnt14. -/
def execLoopi (c : BitVec 14) (n : BitVec 10) (s : State) : Out := s.loopTo (c.setWidth 64) n

/-- `rep` (R86): the frame's B word issues n times, 64 for n6 = 0; without a B word it has no effect. -/
def execRep (n : BitVec 6) (d a b : BitVec 2) (s : State) : Out :=
  .next (s.mapHart fun h =>
    h.endFrame (loopNext h.pc h.loops).1 (loopNext h.pc h.loops).2 (if n = 0 then 64 else n.toNat) d.toNat a.toNat b.toNat false)

end Sys2Proof.Machine
end

