-- ==== Sys2Proof/Decode.lean ====
section
/-! DEFINITION. The decoder of frames (R57 to R69), total on any two words, rejecting by name; after it the encoder, written from the same tables (R60, R63, R64, R67, R68). -/
namespace Sys2Proof

/-- Bits [lo+len-1:lo] of a word. -/
def fld (x lo len : Nat) : Nat := x / 2 ^ lo % 2 ^ len

/-- SCOPE codes (R61); 6 and 7 are unassigned. -/
def scopeOf : Nat → Option Scope
  | 0 => some .hart | 1 => some .core | 2 => some .clus | 3 => some .die | 4 => some .dev | 5 => some .sys | _ => none
/-- TYPE codes of R65; 6 and 7 are unassigned. -/
def etyOf : Nat → Option ETy
  | 0 => some .f32 | 1 => some .f16 | 2 => some .bf16 | 3 => some .l8e4 | 4 => some .l8e5 | 5 => some .l4
  | 8 => some .i8 | 9 => some .i16 | 10 => some .i32 | 11 => some .i64
  | 12 => some .n8 | 13 => some .n16 | 14 => some .n32 | 15 => some .n64 | _ => none
/-- RND codes of R65; 5 to 7 are unassigned. -/
def rndOf : Nat → Option Rnd
  | 0 => some .dyn | 1 => some .rne | 2 => some .rtz | 3 => some .rup | 4 => some .rdn | _ => none
/-- W codes of R63. -/
def mwOf : Nat → MW
  | 0 => .i8 | 1 => .i16 | 2 => .i32 | _ => .i64
/-- TYPE codes of `ld` (R61); 4 is unassigned. -/
def ldTyOf : Nat → Option LdTy
  | 0 => some .i64 | 1 => some .i32 | 2 => some .i16 | 3 => some .i8 | 5 => some .n32 | 6 => some .n16 | 7 => some .n8 | _ => none
/-- TYPE codes of `st` (R61). -/
def stTyOf : Nat → Option StTy
  | 0 => some .i64 | 1 => some .i32 | 2 => some .i16 | 3 => some .i8 | _ => none
/-- Lane-pattern codes (R33). -/
def patOf : Nat → Pat
  | 0 => .none | 1 => .rot1 | 2 => .rot4 | 3 => .rev | 4 => .perm8 | 5 => .bc0 | 6 => .bc1 | _ => .swp

/-- A g-register field. -/
def gAt (p lo : Nat) : GReg := BitVec.ofNat 5 (fld p lo 5)
/-- The queue number in [21:19] (R60). -/
def qAt (p : Nat) : BitVec 3 := BitVec.ofNat 3 (fld p 19 3)
/-- A mask select and policy (R58). -/
def maskAt (w : Nat) : BMask := ⟨BitVec.ofNat 2 (fld w 30 2), fld w 29 1 == 1⟩
/-- vd codes (R64). -/
def vdstOf (c : Nat) : VDst :=
  if c < 32 then .v (BitVec.ofNat 5 c) else .q (c / 16 % 2 == 1) (BitVec.ofNat 4 c)
/-- vs1 codes (R64). -/
def vsrcOf (c : Nat) : VSrc :=
  if c < 32 then .v (BitVec.ofNat 5 c) else .q (BitVec.ofNat 3 ((c - 32) / 16)) (BitVec.ofNat 4 c)
/-- vs2 codes (R64); the literal needs word 1 of a lone frame. -/
def vsrc2Of (c : Nat) (lit : Option W32) : Option VSrc2 :=
  if c < 0x100 then some (.v (BitVec.ofNat 5 c) (patOf (c / 32)))
  else if c < 0x160 then some (.q (BitVec.ofNat 3 ((c - 0x100) / 16)) (BitVec.ofNat 4 c))
  else if c < 0x1A0 then some (.k (BitVec.ofNat 6 (c - 0x160)))
  else if c = 0x1A0 then lit.map .lit
  else none
/-- The S bit of an AM word with its displacement, order and scope (R61). -/
def memModeOf (p : Nat) : Option MemMode :=
  if fld p 10 1 = 0 then some (.weak (BitVec.ofNat 10 (fld p 0 10)))
  else (scopeOf (fld p 5 3)).map fun s => .strong (BitVec.ofNat 2 (fld p 8 2)) s (BitVec.ofNat 5 (fld p 0 5))

/-- Major 0x01 (R73): FUNC in [5:0]. -/
noncomputable def arOf : Nat → Option (GReg → GReg → GReg → Instr)
  | 0 => some .add
  | 1 => some .sub
  | 2 => some .and
  | 3 => some .or
  | 4 => some .xor
  | 5 => some .sll
  | 6 => some .srl
  | 7 => some .sra
  | 8 => some .slt
  | 9 => some .sltu
  | 10 => some .mul
  | 11 => some .mulh
  | 12 => some .mulhu
  | 13 => some .div
  | 14 => some .divu
  | 15 => some .rem
  | 16 => some .remu
  | 17 => some .min
  | 18 => some .max
  | 19 => some .minu
  | 20 => some .maxu
  | _ => none
/-- Major 0x25 (R225): FUNC in [8:5]. -/
noncomputable def amo64Of : Nat → Option (GReg → GReg → GReg → BitVec 2 → Scope → Instr)
  | 0 => some .amoaddI64
  | 1 => some .amoswapI64
  | 2 => some .amocasI64
  | 3 => some .amominI64
  | 4 => some .amomaxI64
  | 5 => some .amominuI64
  | 6 => some .amomaxuI64
  | 7 => some .amoandI64
  | 8 => some .amoorI64
  | 9 => some .amoxorI64
  | _ => none
/-- Major 0x26 (R225): FUNC in [8:5]. -/
noncomputable def amo32Of : Nat → Option (GReg → GReg → GReg → BitVec 2 → Scope → Instr)
  | 0 => some .amoaddI32
  | 1 => some .amoswapI32
  | 2 => some .amocasI32
  | 3 => some .amominI32
  | 4 => some .amomaxI32
  | 5 => some .amominuI32
  | 6 => some .amomaxuI32
  | 7 => some .amoandI32
  | 8 => some .amoorI32
  | 9 => some .amoxorI32
  | _ => none
/-- The A instruction of a 30-bit payload (R60, R61, R67), before the checks of `Instr.wf`; `lit` is word 1 of a lone frame. -/
noncomputable def decodeA0 (p : Nat) (lit : Option W32) : Option Instr :=
  match fld p 24 6 with
  | 0x00 => if p % 2 ^ 24 == 0 then some .nopA else none
  | 0x01 => if fld p 6 3 == 0 then (arOf (fld p 0 6)).map fun f => f (gAt p 19) (gAt p 14) (gAt p 9) else none
  | 0x02 => some (.addi (gAt p 19) (gAt p 14) (BitVec.ofNat 14 (fld p 0 14)))
  | 0x03 => some (.andi (gAt p 19) (gAt p 14) (BitVec.ofNat 14 (fld p 0 14)))
  | 0x04 => some (.ori (gAt p 19) (gAt p 14) (BitVec.ofNat 14 (fld p 0 14)))
  | 0x05 => some (.xori (gAt p 19) (gAt p 14) (BitVec.ofNat 14 (fld p 0 14)))
  | 0x06 => some (.slti (gAt p 19) (gAt p 14) (BitVec.ofNat 14 (fld p 0 14)))
  | 0x07 => some (.sltiu (gAt p 19) (gAt p 14) (BitVec.ofNat 14 (fld p 0 14)))
  | 0x08 => if fld p 6 6 == 0 then (match fld p 12 2 with | 0 => some (.slli (gAt p 19) (gAt p 14) (BitVec.ofNat 6 (fld p 0 6))) | 1 => some (.srli (gAt p 19) (gAt p 14) (BitVec.ofNat 6 (fld p 0 6))) | 2 => some (.srai (gAt p 19) (gAt p 14) (BitVec.ofNat 6 (fld p 0 6))) | _ => none) else none
  | 0x09 => some (.lih (gAt p 19) (BitVec.ofNat 19 (fld p 0 19)))
  | 0x0A => some (.addpc (gAt p 19) (BitVec.ofNat 19 (fld p 0 19)))
  | 0x0B => if fld p 6 8 == 0 then lit.bind fun w => (match fld p 0 6 with | 0 => some (.addiLiteral (gAt p 19) (gAt p 14) w) | 1 => some (.andiLiteral (gAt p 19) (gAt p 14) w) | 2 => some (.oriLiteral (gAt p 19) (gAt p 14) w) | 3 => some (.xoriLiteral (gAt p 19) (gAt p 14) w) | 4 => if fld p 14 5 == 0 then some (.lihLiteral (gAt p 19) w) else none | _ => none) else none
  | 0x0C => some (.beq (gAt p 19) (gAt p 14) (BitVec.ofNat 14 (fld p 0 14)))
  | 0x0D => some (.bne (gAt p 19) (gAt p 14) (BitVec.ofNat 14 (fld p 0 14)))
  | 0x0E => some (.blt (gAt p 19) (gAt p 14) (BitVec.ofNat 14 (fld p 0 14)))
  | 0x0F => some (.bge (gAt p 19) (gAt p 14) (BitVec.ofNat 14 (fld p 0 14)))
  | 0x10 => some (.bltu (gAt p 19) (gAt p 14) (BitVec.ofNat 14 (fld p 0 14)))
  | 0x11 => some (.bgeu (gAt p 19) (gAt p 14) (BitVec.ofNat 14 (fld p 0 14)))
  | 0x12 => some (.jal (gAt p 19) (BitVec.ofNat 19 (fld p 0 19)))
  | 0x13 => some (.jalr (gAt p 19) (gAt p 14) (BitVec.ofNat 14 (fld p 0 14)))
  | 0x14 => if fld p 19 5 == 0 then some (.bqb (BitVec.ofNat 19 (fld p 0 19))) else none
  | 0x15 => if fld p 10 9 == 0 then some (.loop (gAt p 19) (BitVec.ofNat 10 (fld p 0 10))) else none
  | 0x16 => some (.loopi (BitVec.ofNat 14 (fld p 10 14)) (BitVec.ofNat 10 (fld p 0 10)))
  | 0x17 => (ldTyOf (fld p 11 3)).bind fun t => (memModeOf p).map fun m => .ld (gAt p 19) (gAt p 14) t m
  | 0x18 => (stTyOf (fld p 11 3)).bind fun t => (memModeOf p).map fun m => .st (gAt p 19) (gAt p 14) t m
  | 0x19 => if fld p 22 2 == 0 && fld p 11 3 == 0 then (memModeOf p).map fun m => .ldq (qAt p) (gAt p 14) m else none
  | 0x1A => if fld p 22 2 == 0 && fld p 11 3 == 0 then (memModeOf p).map fun m => .stq (qAt p) (gAt p 14) m else none
  | 0x1B => if fld p 22 2 == 0 && fld p 0 11 == 0 then some (.sld (qAt p) (gAt p 14) (BitVec.ofNat 2 (fld p 12 2)) (fld p 11 1 == 1)) else none
  | 0x1C => if fld p 22 2 == 0 && fld p 0 11 == 0 then some (.sst (qAt p) (gAt p 14) (BitVec.ofNat 2 (fld p 12 2)) (fld p 11 1 == 1)) else none
  | 0x1D => if fld p 22 2 == 0 && fld p 0 19 == 0 then some (.swait (qAt p)) else none
  | 0x1E => if fld p 11 3 == 0 then some (.ldfe (gAt p 19) (gAt p 14) (fld p 10 1 == 1) (BitVec.ofNat 10 (fld p 0 10))) else none
  | 0x1F => if fld p 10 4 == 0 then some (.stfe (gAt p 19) (gAt p 14) (BitVec.ofNat 10 (fld p 0 10))) else none
  | 0x20 => if fld p 19 5 == 0 && fld p 0 9 == 0 then some (.feclr (gAt p 14) (gAt p 9)) else none
  | 0x21 => if fld p 0 12 == 0 then some (.rep (BitVec.ofNat 6 (fld p 18 6)) (BitVec.ofNat 2 (fld p 16 2)) (BitVec.ofNat 2 (fld p 14 2)) (BitVec.ofNat 2 (fld p 12 2))) else none
  | 0x22 => (match fld p 12 2 with | 0 => if fld p 14 5 == 0 then some (.csrr (gAt p 19) (BitVec.ofNat 12 (fld p 0 12))) else none | 1 => if fld p 19 5 == 0 then some (.csrw (gAt p 14) (BitVec.ofNat 12 (fld p 0 12))) else none | 2 => if fld p 19 5 == 0 then some (.csrs (gAt p 14) (BitVec.ofNat 12 (fld p 0 12))) else none | _ => if fld p 19 5 == 0 then some (.csrc (gAt p 14) (BitVec.ofNat 12 (fld p 0 12))) else none)
  | 0x23 => if fld p 6 18 == 0 then (match fld p 0 6 with | 1 => some .ecall | 2 => some .eret | 3 => some .brk | 4 => some .wfi | _ => none) else none
  | 0x24 => if fld p 6 8 == 0 then (match fld p 0 6 with | 0 => if fld p 14 5 == 0 then some (.lnkr (gAt p 19) false) else none | 1 => if fld p 19 5 == 0 then some (.lnkw (gAt p 14) false) else none | 2 => if fld p 14 5 == 0 then some (.lnkr (gAt p 19) true) else none | 3 => if fld p 19 5 == 0 then some (.lnkw (gAt p 14) true) else none | 4 => if fld p 14 5 == 0 then some (.lnkrFwd (gAt p 19) false) else none | 6 => if fld p 14 5 == 0 then some (.lnkrFwd (gAt p 19) true) else none | _ => none) else none
  | 0x25 => (amo64Of (fld p 5 4)).bind fun f => (scopeOf (fld p 0 3)).map fun s => f (gAt p 19) (gAt p 14) (gAt p 9) (BitVec.ofNat 2 (fld p 3 2)) s
  | 0x26 => (amo32Of (fld p 5 4)).bind fun f => (scopeOf (fld p 0 3)).map fun s => f (gAt p 19) (gAt p 14) (gAt p 9) (BitVec.ofNat 2 (fld p 3 2)) s
  | 0x27 => if fld p 6 18 == 0 then (scopeOf (fld p 0 3)).map fun s => .fence (BitVec.ofNat 3 (fld p 3 3)) s else none
  | 0x28 => if fld p 19 5 == 0 && fld p 0 9 == 0 then some (.waitge (gAt p 14) (gAt p 9)) else none
  | 0x29 => if fld p 19 5 == 0 && fld p 6 3 == 0 then (match fld p 0 6 with | 0 => if fld p 9 5 == 0 then some (.tspawn (gAt p 14)) else none | 1 => if fld p 9 5 == 0 then some (.tsig (gAt p 14)) else none | 2 => if fld p 14 5 == 0 && fld p 9 5 == 0 then some .halt else none | 3 => if fld p 9 5 == 0 then some (.haltRetain (gAt p 14)) else none | 4 => if fld p 14 5 == 0 && fld p 9 5 == 0 then some .tabort else none | 5 => some (.hand (gAt p 14) (gAt p 9)) | 6 => if fld p 9 5 == 0 then some (.bar (gAt p 14)) else none | 7 => if fld p 9 5 == 0 then some (.sstep (gAt p 14)) else none | _ => none) else none
  | 0x2A => some (.xsend (gAt p 19) (gAt p 14) (BitVec.ofNat 14 (fld p 0 14)))
  | 0x2B => if fld p 0 4 == 0 then some (.mbwait (gAt p 19) (gAt p 14) (gAt p 9) (BitVec.ofNat 5 (fld p 4 5))) else none
  | 0x2C => if fld p 6 1 == 0 then (match fld p 0 6 with
      | 0 => if fld p 19 5 == 0 && fld p 9 5 == 0 && fld p 7 2 == 0 then some (.mgang (gAt p 14)) else none
      | 1 => if fld p 22 2 == 0 then (scopeOf (fld p 19 3)).map fun s => .mma s (gAt p 14) (gAt p 9) (BitVec.ofNat 2 (fld p 7 2)) else none
      | 2 => if fld p 19 5 == 0 && fld p 14 5 == 0 && fld p 9 5 == 0 then some (.mzero (BitVec.ofNat 2 (fld p 7 2))) else none
      | 3 => if fld p 9 5 == 0 then (if fld p 22 2 == 0 then (scopeOf (fld p 19 3)).map fun s => .mpre s (gAt p 14) (BitVec.ofNat 2 (fld p 7 2)) else none) else none
      | 4 => if fld p 19 5 == 0 && fld p 14 5 == 0 && fld p 9 5 == 0 && fld p 7 2 == 0 then some .mswap else none
      | 5 => if fld p 22 2 == 0 then (scopeOf (fld p 19 3)).map fun s => .mdrain s (gAt p 14) (gAt p 9) (BitVec.ofNat 2 (fld p 7 2)) else none
      | 6 => if fld p 19 5 == 0 && fld p 9 5 == 0 && fld p 7 2 == 0 then some (.mxsave (gAt p 14)) else none
      | 7 => if fld p 19 5 == 0 && fld p 9 5 == 0 && fld p 7 2 == 0 then some (.mxrest (gAt p 14)) else none
      | _ => none) else none
  | 0x2D => if fld p 6 3 == 0 then (match fld p 0 6 with
      | 0 => if fld p 9 5 == 0 then (if fld p 22 2 == 0 then (scopeOf (fld p 19 3)).map fun s => .cpy s (gAt p 14) else none) else none
      | 1 => if fld p 12 2 == 0 then (scopeOf (fld p 9 3)).map fun s => .cpynb s (gAt p 19) (gAt p 14) else none
      | 2 => if fld p 22 2 == 0 then (scopeOf (fld p 19 3)).map fun s => .engpush s (gAt p 14) (gAt p 9) else none
      | 3 => if fld p 14 5 == 0 then some (.engpop (gAt p 19) (gAt p 9)) else none
      | 4 => if fld p 9 5 == 0 then (if fld p 22 2 == 0 then (scopeOf (fld p 19 3)).map fun s => .sel s (gAt p 14) else none) else none
      | 5 => if fld p 14 5 == 0 && fld p 9 5 == 0 then some (.selwait (gAt p 19)) else none
      | _ => none) else none
  | 0x2E => if fld p 7 2 == 0 then (match fld p 0 6 with
      | 0 => if fld p 19 5 == 0 && fld p 9 5 == 0 && fld p 6 1 == 0 then some (.editChg (gAt p 14)) else none
      | 1 => if fld p 19 5 == 0 && fld p 9 5 == 0 && fld p 6 1 == 0 then some (.editIns (gAt p 14)) else none
      | 2 => if fld p 19 5 == 0 && fld p 9 5 == 0 && fld p 6 1 == 0 then some (.editDel (gAt p 14)) else none
      | 3 => if fld p 19 5 == 0 && fld p 9 5 == 0 then some (.editApp (gAt p 14) (fld p 6 1 == 1)) else none
      | 4 => if fld p 9 5 == 0 && fld p 6 1 == 0 then some (.dmap (gAt p 19) (gAt p 14)) else none
      | 5 => if fld p 19 5 == 0 && fld p 6 1 == 0 then some (.settle (gAt p 14) (gAt p 9)) else none
      | 6 => if fld p 9 5 == 0 && fld p 6 1 == 0 then some (.tvers (gAt p 19) (gAt p 14)) else none
      | _ => none) else none
  | 0x2F => if fld p 10 1 == 0 then (if fld p 19 5 == 0 then some (.ldt (BitVec.ofNat 3 (fld p 11 3)) (gAt p 14) (BitVec.ofNat 10 (fld p 0 10))) else none) else some (.ldtNb (gAt p 19) (BitVec.ofNat 3 (fld p 11 3)) (gAt p 14) (BitVec.ofNat 10 (fld p 0 10)))
  | 0x30 => if fld p 22 2 == 0 && fld p 10 4 == 0 then some (.stt (qAt p) (gAt p 14) (BitVec.ofNat 10 (fld p 0 10))) else none
  | 0x31 => if fld p 19 5 == 0 && fld p 6 3 == 0 then (match fld p 0 6 with
      | 0 => some (.tlbinv (gAt p 14) (gAt p 9))
      | 1 => if fld p 9 5 == 0 then some (.ctxsave (gAt p 14)) else none
      | 2 => if fld p 9 5 == 0 then some (.ctxrest (gAt p 14)) else none
      | 3 => if fld p 14 5 == 0 && fld p 9 5 == 0 then some .yield else none
      | 4 => if fld p 9 5 == 0 then some (.capstart (gAt p 14)) else none
      | 5 => if fld p 14 5 == 0 && fld p 9 5 == 0 then some .capstop else none
      | _ => none) else none
  | _ => none

/-- The A instruction of a payload (R67, R69): `none` is an illegal word. -/
noncomputable def decodeA (p : Nat) (lit : Option W32) : Option Instr := (decodeA0 p lit).filter Instr.wf

/-- The BR majors whose vd is a destination only (R68). -/
noncomputable def brOf : Nat → Option (BMask → VDst → VSrc → VSrc2 → Instr)
  | 0x01 => some .vaddF32
  | 0x02 => some .vaddF16
  | 0x03 => some .vaddBf16
  | 0x04 => some .vaddI32
  | 0x05 => some .vsubF32
  | 0x06 => some .vsubF16
  | 0x07 => some .vsubBf16
  | 0x08 => some .vsubI32
  | 0x09 => some .vmulF32
  | 0x0A => some .vmulF16
  | 0x0B => some .vmulBf16
  | 0x0C => some .vmulI32
  | 0x19 => some .vminF32
  | 0x1A => some .vminF16
  | 0x1B => some .vminBf16
  | 0x1C => some .vminI32
  | 0x1D => some .vminN32
  | 0x1E => some .vmaxF32
  | 0x1F => some .vmaxF16
  | 0x20 => some .vmaxBf16
  | 0x21 => some .vmaxI32
  | 0x22 => some .vmaxN32
  | 0x23 => some .vcmpeqF32
  | 0x24 => some .vcmpeqF16
  | 0x25 => some .vcmpeqBf16
  | 0x26 => some .vcmpeqI32
  | 0x27 => some .vcmpeqN32
  | 0x28 => some .vcmpltF32
  | 0x29 => some .vcmpltF16
  | 0x2A => some .vcmpltBf16
  | 0x2B => some .vcmpltI32
  | 0x2C => some .vcmpltN32
  | 0x2D => some .vcmpleF32
  | 0x2E => some .vcmpleF16
  | 0x2F => some .vcmpleBf16
  | 0x30 => some .vcmpleI32
  | 0x31 => some .vcmpleN32
  | 0x32 => some .vcmpunF32
  | 0x33 => some .vcmpunF16
  | 0x34 => some .vcmpunBf16
  | 0x39 => some .vand
  | 0x3A => some .vor
  | 0x3B => some .vxor
  | 0x3C => some .vshlI32
  | 0x3D => some .vshlI64
  | 0x3E => some .vshrI32
  | 0x3F => some .vshrI64
  | 0x40 => some .vsraI32
  | 0x41 => some .vsraI64
  | 0x42 => some .vmulhI32
  | 0x43 => some .vmulhN32
  | 0x44 => some .vmulhI16
  | 0x45 => some .vmulhN16
  | 0x46 => some .vpaddL8e4
  | 0x47 => some .vpaddL8e5
  | 0x48 => some .vpaddL8e4Nan
  | 0x49 => some .vpaddL8e5Nan
  | 0x4A => some .vpaddI8
  | 0x4B => some .vpaddN8
  | 0x4C => some .vpmulL8e4
  | 0x4D => some .vpmulL8e5
  | 0x4E => some .vpmulL8e4Nan
  | 0x4F => some .vpmulL8e5Nan
  | 0x50 => some .vpmulI8
  | 0x51 => some .vpmulN8
  | 0x52 => some .vmix
  | 0x53 => some .vtempF32
  | 0x54 => some .vtempF16
  | 0x55 => some .vtempBf16
  | 0x56 => some .vrcpr
  | 0x57 => some .vrsqr
  | 0x58 => some .vpermI8
  | 0x59 => some .vpermI16
  | 0x5A => some .vpermI32
  | 0x5B => some .vpermI64
  | 0x5C => some .vmergeI32
  | 0x5D => some .vmergeI64
  | _ => none
/-- The BR majors that read vd as a source (R68, R108). -/
noncomputable def brAccOf : Nat → Option (BMask → VReg → VSrc → VSrc2 → Instr)
  | 0x0D => some .vfmaF32
  | 0x0E => some .vfmaF16
  | 0x0F => some .vfmaBf16
  | 0x10 => some .vfmsF32
  | 0x11 => some .vfmsF16
  | 0x12 => some .vfmsBf16
  | 0x13 => some .vfnmaF32
  | 0x14 => some .vfnmaF16
  | 0x15 => some .vfnmaBf16
  | 0x16 => some .vfnmsF32
  | 0x17 => some .vfnmsF16
  | 0x18 => some .vfnmsBf16
  | 0x35 => some .vselI8
  | 0x36 => some .vselI16
  | 0x37 => some .vselI32
  | 0x38 => some .vselI64
  | _ => none
/-- The B instruction of a 32-bit word (R63 to R66, R68), before the checks of `Instr.wf`; `lit` is word 1 of a lone frame. -/
noncomputable def decodeB0 (w : Nat) (lit : Option W32) : Option Instr :=
  match fld w 22 7 with
  | 0 => if w == 0 then some .nopB else none
  | 0x5E => if fld w 9 3 == 0 then (etyOf (fld w 12 4)).bind fun t => (vsrc2Of (fld w 0 9) lit).map fun b => .vabs (maskAt w) (vdstOf (fld w 16 6)) t b else none
  | 0x5F => if fld w 9 3 == 0 then (etyOf (fld w 12 4)).bind fun t => (vsrc2Of (fld w 0 9) lit).map fun b => .vneg (maskAt w) (vdstOf (fld w 16 6)) t b else none
  | 0x60 => if fld w 9 3 == 0 then (etyOf (fld w 12 4)).bind fun t => (vsrc2Of (fld w 0 9) lit).map fun b => .vordkey (maskAt w) (vdstOf (fld w 16 6)) t b else none
  | 0x61 => if fld w 9 3 == 0 then (etyOf (fld w 12 4)).bind fun t => (vsrc2Of (fld w 0 9) lit).map fun b => .vrcpa (maskAt w) (vdstOf (fld w 16 6)) t b else none
  | 0x62 => if fld w 9 3 == 0 then (etyOf (fld w 12 4)).bind fun t => (vsrc2Of (fld w 0 9) lit).map fun b => .vrsqa (maskAt w) (vdstOf (fld w 16 6)) t b else none
  | 0x63 => if fld w 9 3 == 0 then (etyOf (fld w 12 4)).bind fun t => (vsrc2Of (fld w 0 9) lit).map fun b => .vlog2 (maskAt w) (vdstOf (fld w 16 6)) t b else none
  | 0x64 => if fld w 9 3 == 0 then (etyOf (fld w 12 4)).bind fun t => (vsrc2Of (fld w 0 9) lit).map fun b => .vexp2 (maskAt w) (vdstOf (fld w 16 6)) t b else none
  | 0x65 => (etyOf (fld w 12 4)).bind fun t => (rndOf (fld w 9 3)).bind fun r => (vsrc2Of (fld w 0 9) lit).map fun b => .vredsum (maskAt w) (vdstOf (fld w 16 6)) t r b
  | 0x66 => if fld w 9 3 == 0 then (etyOf (fld w 12 4)).bind fun t => (vsrc2Of (fld w 0 9) lit).map fun b => .vredmax (maskAt w) (vdstOf (fld w 16 6)) t b else none
  | 0x67 => if fld w 9 3 == 0 then (etyOf (fld w 12 4)).bind fun t => (vsrc2Of (fld w 0 9) lit).map fun b => .vredmin (maskAt w) (vdstOf (fld w 16 6)) t b else none
  | 0x68 => if fld w 9 3 == 0 then (etyOf (fld w 12 4)).bind fun t => (vsrc2Of (fld w 0 9) lit).map fun b => .vargmax (maskAt w) (vdstOf (fld w 16 6)) t b else none
  | 0x69 => if fld w 9 3 == 0 then (etyOf (fld w 12 4)).bind fun t => (vsrc2Of (fld w 0 9) lit).map fun b => .vargmin (maskAt w) (vdstOf (fld w 16 6)) t b else none
  | 0x6A => if fld w 9 3 == 0 then (etyOf (fld w 12 4)).bind fun t => (vsrc2Of (fld w 0 9) lit).map fun b => .vcompress (maskAt w) (vdstOf (fld w 16 6)) t b else none
  | 0x6B => if fld w 9 7 == 0 then (vsrc2Of (fld w 0 9) lit).map fun b => .vmov (maskAt w) (vdstOf (fld w 16 6)) b else none
  | 0x6C => (etyOf (fld w 13 4)).bind fun t => (etyOf (fld w 9 4)).bind fun u => (rndOf (fld w 6 3)).map fun r => .vcvt (maskAt w) (gAt w 17) t u r (fld w 5 1 == 1) (gAt w 0)
  | 0x6D => (etyOf (fld w 13 4)).bind fun t => (etyOf (fld w 9 4)).bind fun u => (rndOf (fld w 6 3)).map fun r => .vpack (maskAt w) (gAt w 17) t u r (fld w 5 1 == 1) (gAt w 0)
  | 0x6E => if fld w 5 4 == 0 then (etyOf (fld w 13 4)).bind fun t => (etyOf (fld w 9 4)).map fun u => .vunpack (maskAt w) (gAt w 17) t u (gAt w 0) else none
  | 0x6F => some (.vslide (maskAt w) (vdstOf (fld w 16 6)) (mwOf (fld w 14 2)) (BitVec.ofNat 7 (fld w 7 7)) (vsrcOf (fld w 0 7)))
  | 0x70 => some (.vbcast (maskAt w) (vdstOf (fld w 16 6)) (mwOf (fld w 14 2)) (BitVec.ofNat 7 (fld w 7 7)) (vsrcOf (fld w 0 7)))
  | 0x71 => if fld w 0 5 == 0 then some (.mand (maskAt w) (gAt w 17) (gAt w 12) (gAt w 7) (mwOf (fld w 5 2))) else none
  | 0x72 => if fld w 0 5 == 0 then some (.mor (maskAt w) (gAt w 17) (gAt w 12) (gAt w 7) (mwOf (fld w 5 2))) else none
  | 0x73 => if fld w 0 5 == 0 then some (.mxor (maskAt w) (gAt w 17) (gAt w 12) (gAt w 7) (mwOf (fld w 5 2))) else none
  | 0x74 => if fld w 0 5 == 0 && fld w 12 5 == 0 then some (.mnot (maskAt w) (gAt w 17) (gAt w 7) (mwOf (fld w 5 2))) else none
  | 0x75 => if fld w 0 5 == 0 && fld w 12 5 == 0 then some (.mpop (maskAt w) (gAt w 17) (gAt w 7) (mwOf (fld w 5 2))) else none
  | 0x76 => if fld w 0 5 == 0 && fld w 12 5 == 0 then some (.mfirst (maskAt w) (gAt w 17) (gAt w 7) (mwOf (fld w 5 2))) else none
  | 0x77 => if fld w 29 3 == 0 && fld w 0 14 == 0 then some (.qadv (qAt w) (BitVec.ofNat 5 (fld w 14 5))) else none
  | 0x78 => if fld w 29 3 == 0 && fld w 14 8 == 0 then (vsrc2Of (fld w 0 9) lit).map fun b => .bqput (BitVec.ofNat 5 (fld w 9 5)) b else none
  | 0x79 => some (.vaddiLow (maskAt w) (BitVec.ofNat 2 (fld w 20 2)) (BitVec.ofNat 20 (fld w 0 20)))
  | 0x7A => some (.vaddiHigh (maskAt w) (BitVec.ofNat 2 (fld w 20 2)) (BitVec.ofNat 20 (fld w 0 20)))
  | 0x7B => some (.vmuliLow (maskAt w) (BitVec.ofNat 2 (fld w 20 2)) (BitVec.ofNat 20 (fld w 0 20)))
  | 0x7C => some (.vmuliHigh (maskAt w) (BitVec.ofNat 2 (fld w 20 2)) (BitVec.ofNat 20 (fld w 0 20)))
  | 0x7D => some (.vsplatLow (maskAt w) (BitVec.ofNat 2 (fld w 20 2)) (BitVec.ofNat 20 (fld w 0 20)))
  | 0x7E => some (.vsplatHigh (maskAt w) (BitVec.ofNat 2 (fld w 20 2)) (BitVec.ofNat 20 (fld w 0 20)))
  | m => match brOf m with
    | some f => (vsrc2Of (fld w 0 9) lit).map fun b => f (maskAt w) (vdstOf (fld w 16 6)) (vsrcOf (fld w 9 7)) b
    | none => match brAccOf m with
      | some f => if fld w 21 1 == 0 then (vsrc2Of (fld w 0 9) lit).map fun b => f (maskAt w) (gAt w 16) (vsrcOf (fld w 9 7)) b else none
      | none => none

/-- The B instruction of a word (R68, R69): `none` is an illegal word. -/
noncomputable def decodeB (w : Nat) (lit : Option W32) : Option Instr := (decodeB0 w lit).filter Instr.wf

/-- Why a word is not an instruction (R59, R69, R100, R168, R349). -/
inductive Reject where
  /-- An unassigned major or sub-code, a non-zero reserved field, a bad group, or a mask on `qadv` or `bqput`. -/
  | word
  /-- The word 0xFFFF_FFFF. -/
  | allOnes
  /-- K = 1 in a pair frame. -/
  | pairK
  /-- A literal form in a pair frame. -/
  | literalInPair
  /-- Word 1 non-zero after a lone non-literal instruction. -/
  | word1
  /-- A B word beside `ecall`, `eret`, `brk`, `halt`, `halt.retain`, `tabort`, `ctxsave`, `ctxrest` or `yield`. -/
  | soloPair
  deriving DecidableEq, Repr

/-- One side of a decoded frame: no word, an instruction, or an illegal word with the TRAPVAL of R69. -/
inductive Slot where
  | absent
  | op (i : Instr)
  | bad (why : Reject) (val : W32)
  deriving DecidableEq, Repr

/-- A decoded frame (R57): its A side and its B side. -/
structure Frame where
  a : Slot
  b : Slot
  deriving DecidableEq, Repr

/-- The A words whose pair frame must have a zero B word (R100, R168, R349). -/
def Instr.solo : Instr → Bool
  | .ecall => true | .eret => true | .brk => true | .halt => true | .haltRetain _ => true | .tabort => true
  | .ctxsave _ => true | .ctxrest _ => true | .yield => true
  | _ => false

/-- A lone frame's side: `dec none` is the word without a literal, `dec (some w1)` with one (R57, R59, R69). DESIGN CHOICE: where an illegal word 0 stands before a word 1 of 0xFFFF_FFFF, two rows of R69 apply and TRAPVAL holds word 0 (log entry 18). -/
def loneSlot (dec : Option W32 → Option Instr) (w : W32) (w1 : W32) : Slot :=
  match dec none with
  | some i => if w1 = 0 then .op i else if w1 = 0xFFFFFFFF then .bad .allOnes w1 else .bad .word1 w1
  | none =>
    match dec (some 0) with
    | none => .bad .word w
    | some _ => match dec (some w1) with
      | some i => .op i
      | none => .bad .allOnes w1

/-- The A side of a pair frame (R57, R59, R69, R70). -/
noncomputable def pairA (w0 : W32) : Slot :=
  if w0.getLsbD 30 then .bad .pairK w0
  else match decodeA w0.toNat none with
    | some i => .op i
    | none => match decodeA w0.toNat (some 0) with
      | some _ => .bad .literalInPair w0
      | none => .bad .word w0

/-- The B side of a pair frame (R57, R59, R69); `solo` is set by the A words of `Instr.solo`. -/
noncomputable def pairB (solo : Bool) (w1 : W32) : Slot :=
  if w1 = 0 then .absent
  else if w1 = 0xFFFFFFFF then .bad .allOnes w1
  else if solo then .bad .soloPair w1
  else match decodeB w1.toNat none with
    | some i => .op i
    | none => match decodeB w1.toNat (some 0) with
      | some _ => .bad .literalInPair w1
      | none => .bad .word w1

/-- Is the A side one of the words of `Instr.solo`? -/
def Slot.solo : Slot → Bool
  | .op i => i.solo
  | _ => false

/-- A frame of two words (R57 to R59, R69, R70): total, rejecting by name. DESIGN CHOICE: a word 0 of 0xFFFF_FFFF, whose L and K would make a lone B frame, traps as the A word, with TRB 0; R70 gives TRB for pair frames only (log entry 18). -/
noncomputable def decodeFrame (w0 w1 : W32) : Frame :=
  if w0 = 0xFFFFFFFF then ⟨.bad .allOnes w0, .absent⟩
  else if w0.getLsbD 31 then
    if w0.getLsbD 30 then ⟨.absent, loneSlot (decodeB (w0.toNat % 2 ^ 30)) (w0 &&& 0x3FFFFFFF) w1⟩
    else ⟨loneSlot (decodeA (w0.toNat % 2 ^ 30)) w0 w1, .absent⟩
  else ⟨pairA w0, pairB (pairA w0).solo w1⟩

/-- The instruction that a frame's first present side holds. -/
def Frame.first (f : Frame) : Option Instr :=
  match f.a, f.b with
  | .op .nopA, .op i => some i
  | .op i, _ => some i
  | .absent, .op i => some i
  | _, _ => none

/-- SCOPE codes (R61). -/
def Scope.code : Scope → Nat
  | .hart => 0 | .core => 1 | .clus => 2 | .die => 3 | .dev => 4 | .sys => 5
/-- TYPE codes (R65). -/
def ETy.code : ETy → Nat
  | .f32 => 0 | .f16 => 1 | .bf16 => 2 | .l8e4 => 3 | .l8e5 => 4 | .l4 => 5
  | .i8 => 8 | .i16 => 9 | .i32 => 10 | .i64 => 11 | .n8 => 12 | .n16 => 13 | .n32 => 14 | .n64 => 15
/-- RND codes (R65). -/
def Rnd.code : Rnd → Nat
  | .dyn => 0 | .rne => 1 | .rtz => 2 | .rup => 3 | .rdn => 4
/-- W codes (R63). -/
def MW.code : MW → Nat
  | .i8 => 0 | .i16 => 1 | .i32 => 2 | .i64 => 3
/-- TYPE codes of `ld` (R61). -/
def LdTy.code : LdTy → Nat
  | .i64 => 0 | .i32 => 1 | .i16 => 2 | .i8 => 3 | .n32 => 5 | .n16 => 6 | .n8 => 7
/-- TYPE codes of `st` (R61). -/
def StTy.code : StTy → Nat
  | .i64 => 0 | .i32 => 1 | .i16 => 2 | .i8 => 3
/-- Lane-pattern codes (R33). -/
def Pat.code : Pat → Nat
  | .none => 0 | .rot1 => 1 | .rot4 => 2 | .rev => 3 | .perm8 => 4 | .bc0 => 5 | .bc1 => 6 | .swp => 7
/-- vd codes (R64). -/
def VDst.code : VDst → Nat
  | .v r => r.toNat
  | .q hi n => 32 + 16 * hi.toNat + n.toNat
/-- vs1 codes (R64). -/
def VSrc.code : VSrc → Nat
  | .v r => r.toNat
  | .q m n => 32 + 16 * m.toNat + n.toNat
/-- vs2 codes (R64). -/
def VSrc2.code : VSrc2 → Nat
  | .v r p => r.toNat + 32 * p.code
  | .q m n => 0x100 + 16 * m.toNat + n.toNat
  | .k i => 0x160 + i.toNat
  | .lit _ => 0x1A0
/-- S, ORD, SCOPE and displacement in [10:0] (R61). -/
def MemMode.code : MemMode → Nat
  | .weak d => d.toNat
  | .strong o s d => 1024 + 256 * o.toNat + 32 * s.code + d.toNat
/-- Bits [31:29] of a B word (R58). -/
def BMask.code (h : BMask) : Nat := h.sel.toNat * 2 ^ 30 + h.agn.toNat * 2 ^ 29

/-- An A payload from its major, its two upper register fields and bits [13:0] (R60). -/
def aWord (maj d a r : Nat) : Nat := maj * 2 ^ 24 + d * 2 ^ 19 + a * 2 ^ 14 + r
/-- A B word from its mask, major and operand bits (R58). -/
def bWord (h : BMask) (maj r : Nat) : Nat := h.code + maj * 2 ^ 22 + r

/-- Format AR (R60). -/
def arW (maj : Nat) (d a b : GReg) (f : Nat) : Nat := aWord maj d.toNat a.toNat (b.toNat * 2 ^ 9 + f)
/-- Formats AI and AB (R60). -/
def aiW (maj : Nat) (d a : GReg) (i : BitVec 14) : Nat := aWord maj d.toNat a.toNat i.toNat
/-- Format AA (R60). -/
def aaW (maj : Nat) (d a b : GReg) (f : Nat) (o : BitVec 2) (s : Scope) : Nat :=
  aWord maj d.toNat a.toNat (b.toNat * 2 ^ 9 + f * 2 ^ 5 + o.toNat * 2 ^ 3 + s.code)
/-- Format BR (R63). -/
def brW (h : BMask) (maj : Nat) (d : VDst) (a : VSrc) (b : VSrc2) : Nat :=
  bWord h maj (d.code * 2 ^ 16 + a.code * 2 ^ 9 + b.code)
/-- Format BR with a v register as vd (R63, R108). -/
def brAccW (h : BMask) (maj : Nat) (d : VReg) (a : VSrc) (b : VSrc2) : Nat :=
  bWord h maj (d.toNat * 2 ^ 16 + a.code * 2 ^ 9 + b.code)
/-- Format B2 (R63); `r` is the RND code. -/
def b2W (h : BMask) (maj : Nat) (d : VDst) (t r : Nat) (b : VSrc2) : Nat :=
  bWord h maj (d.code * 2 ^ 16 + t * 2 ^ 12 + r * 2 ^ 9 + b.code)
/-- Format BC (R63). -/
def bcW (h : BMask) (maj : Nat) (d : VReg) (t u : ETy) (r n : Nat) (s : VReg) : Nat :=
  bWord h maj (d.toNat * 2 ^ 17 + t.code * 2 ^ 13 + u.code * 2 ^ 9 + r * 2 ^ 6 + n * 2 ^ 5 + s.toNat)
/-- Format BS (R63). -/
def bsW (h : BMask) (maj : Nat) (d : VDst) (w : MW) (i : BitVec 7) (a : VSrc) : Nat :=
  bWord h maj (d.code * 2 ^ 16 + w.code * 2 ^ 14 + i.toNat * 2 ^ 7 + a.code)
/-- Format BM (R63). -/
def bmW (h : BMask) (maj : Nat) (d a b : VReg) (w : MW) : Nat :=
  bWord h maj (d.toNat * 2 ^ 17 + a.toNat * 2 ^ 12 + b.toNat * 2 ^ 7 + w.code * 2 ^ 5)
/-- Format BI (R63). -/
def biW (h : BMask) (maj : Nat) (d : BitVec 2) (i : BitVec 20) : Nat := bWord h maj (d.toNat * 2 ^ 20 + i.toNat)

/-- The payload of an A instruction or the word of a B instruction (R60, R63, R67, R68); 0 for an event. -/
def Instr.bits : Instr → Nat
  | .deviceReset => 0
  | .clusterWavePowerUp => 0
  | .matrixSliceEnable _ => 0
  | .recoveryGo => 0
  | .attestationRequest => 0
  | .trapEntry => 0
  | .interrupt => 0
  | .timerCompare => 0
  | .streamDeadlock => 0
  | .loadLanding _ => 0
  | .streamGroup _ => 0
  | .storePerformed => 0
  | .pageWalk _ _ => 0
  | .remoteRequestArrival _ => 0
  | .remoteNack => 0
  | .stythnetRequestArrival _ => 0
  | .stythnetDeliveryTimeout => 0
  | .hostWrite _ _ => 0
  | .hostRead _ _ => 0
  | .hostAtomic _ _ _ _ _ => 0
  | .hostRing _ _ => 0
  | .dbpendClear _ _ => 0
  | .launch _ _ => 0
  | .signalDelivery => 0
  | .dispatch _ => 0
  | .priorityPromotion _ _ => 0
  | .preemptionCut _ => 0
  | .contextSaveComplete _ => 0
  | .handSpill _ => 0
  | .laneGrant _ => 0
  | .barrierComplete _ => 0
  | .clockRebalance => 0
  | .exchangePhaseEnd => 0
  | .xsendInject => 0
  | .packetArrival _ => 0
  | .mbwaitTimeout => 0
  | .linkNotReadyTimeout => 0
  | .waitgePoll => 0
  | .hotnessIntervalEnd _ _ => 0
  | .hotnessControlWrite _ _ _ => 0
  | .copyStart _ => 0
  | .copyLine _ _ => 0
  | .copyComplete _ => 0
  | .tarnLoad _ => 0
  | .tarnUnload _ => 0
  | .tarnQuery _ => 0
  | .gangForm _ => 0
  | .mmaComplete _ => 0
  | .matrixCommandStart _ => 0
  | .drainComplete _ => 0
  | .flintJobStart _ => 0
  | .flintJobComplete _ => 0
  | .editApply _ => 0
  | .predicateRun _ => 0
  | .predicateTimeout _ => 0
  | .recomputeInsert _ _ _ => 0
  | .commitStep _ => 0
  | .mereOpen _ => 0
  | .mereOpend _ => 0
  | .mereClose _ => 0
  | .mereClear _ => 0
  | .migreqWrite _ => 0
  | .migreqRead _ => 0
  | .hostMigreq _ _ => 0
  | .migrationComplete _ => 0
  | .preempt _ _ => 0
  | .softint _ _ => 0
  | .bddataWrite _ => 0
  | .gpartWrite _ _ _ => 0
  | .gridIntervalEnd _ => 0
  | .gridControlWrite _ _ => 0
  | .monitorControlWrite _ _ _ => 0
  | .monitorSample _ _ _ => 0
  | .snaptrig _ _ => 0
  | .snapshotRemoteLatch _ => 0
  | .snapshotValidClear _ => 0
  | .haltreqSet _ => 0
  | .haltreqClear _ => 0
  | .debugStep _ => 0
  | .dumpStart _ => 0
  | .dumpUnitCopy _ => 0
  | .dumpAbort _ => 0
  | .powerAverageUpdate _ _ => 0
  | .readClear _ _ => 0
  | .registerWrite _ _ _ => 0
  | .nopA => 0
  | .add d a b => arW 1 d a b 0
  | .sub d a b => arW 1 d a b 1
  | .and d a b => arW 1 d a b 2
  | .or d a b => arW 1 d a b 3
  | .xor d a b => arW 1 d a b 4
  | .sll d a b => arW 1 d a b 5
  | .srl d a b => arW 1 d a b 6
  | .sra d a b => arW 1 d a b 7
  | .slt d a b => arW 1 d a b 8
  | .sltu d a b => arW 1 d a b 9
  | .mul d a b => arW 1 d a b 10
  | .mulh d a b => arW 1 d a b 11
  | .mulhu d a b => arW 1 d a b 12
  | .div d a b => arW 1 d a b 13
  | .divu d a b => arW 1 d a b 14
  | .rem d a b => arW 1 d a b 15
  | .remu d a b => arW 1 d a b 16
  | .min d a b => arW 1 d a b 17
  | .max d a b => arW 1 d a b 18
  | .minu d a b => arW 1 d a b 19
  | .maxu d a b => arW 1 d a b 20
  | .addi d a i => aiW 2 d a i
  | .andi d a i => aiW 3 d a i
  | .ori d a i => aiW 4 d a i
  | .xori d a i => aiW 5 d a i
  | .slti d a i => aiW 6 d a i
  | .sltiu d a i => aiW 7 d a i
  | .slli d a s => aWord 8 d.toNat a.toNat (0 * 2 ^ 12 + s.toNat)
  | .srli d a s => aWord 8 d.toNat a.toNat (1 * 2 ^ 12 + s.toNat)
  | .srai d a s => aWord 8 d.toNat a.toNat (2 * 2 ^ 12 + s.toNat)
  | .lih d i => aWord 9 d.toNat 0 i.toNat
  | .addpc d i => aWord 10 d.toNat 0 i.toNat
  | .addiLiteral d a _ => aWord 11 d.toNat a.toNat 0
  | .andiLiteral d a _ => aWord 11 d.toNat a.toNat 1
  | .oriLiteral d a _ => aWord 11 d.toNat a.toNat 2
  | .xoriLiteral d a _ => aWord 11 d.toNat a.toNat 3
  | .lihLiteral d _ => aWord 11 d.toNat 0 4
  | .beq a b o => aiW 12 a b o
  | .bne a b o => aiW 13 a b o
  | .blt a b o => aiW 14 a b o
  | .bge a b o => aiW 15 a b o
  | .bltu a b o => aiW 16 a b o
  | .bgeu a b o => aiW 17 a b o
  | .jal d o => aWord 0x12 d.toNat 0 o.toNat
  | .jalr d a i => aWord 0x13 d.toNat a.toNat i.toNat
  | .bqb o => aWord 0x14 0 0 o.toNat
  | .loop a n => aWord 0x15 a.toNat 0 n.toNat
  | .loopi c n => aWord 0x16 0 0 (c.toNat * 2 ^ 10 + n.toNat)
  | .ld d a t m => aWord 0x17 d.toNat a.toNat (t.code * 2 ^ 11 + m.code)
  | .st d a t m => aWord 0x18 d.toNat a.toNat (t.code * 2 ^ 11 + m.code)
  | .ldq q a m => aWord 0x19 q.toNat a.toNat m.code
  | .stq q a m => aWord 0x1A q.toNat a.toNat m.code
  | .sld q a n s => aWord 0x1B q.toNat a.toNat (n.toNat * 2 ^ 12 + s.toNat * 2 ^ 11)
  | .sst q a n s => aWord 0x1C q.toNat a.toNat (n.toNat * 2 ^ 12 + s.toNat * 2 ^ 11)
  | .swait q => aWord 0x1D q.toNat 0 0
  | .ldfe d a keep i => aWord 0x1E d.toNat a.toNat (keep.toNat * 2 ^ 10 + i.toNat)
  | .stfe d a i => aWord 0x1F d.toNat a.toNat i.toNat
  | .feclr a b => aWord 0x20 0 a.toNat (b.toNat * 2 ^ 9)
  | .rep n d s t => aWord 0x21 0 0 (n.toNat * 2 ^ 18 + d.toNat * 2 ^ 16 + s.toNat * 2 ^ 14 + t.toNat * 2 ^ 12)
  | .csrr d c => aWord 0x22 d.toNat 0 c.toNat
  | .csrw a c => aWord 0x22 0 a.toNat (1 * 2 ^ 12 + c.toNat)
  | .csrs a c => aWord 0x22 0 a.toNat (2 * 2 ^ 12 + c.toNat)
  | .csrc a c => aWord 0x22 0 a.toNat (3 * 2 ^ 12 + c.toNat)
  | .ecall => aWord 0x23 0 0 1
  | .eret => aWord 0x23 0 0 2
  | .brk => aWord 0x23 0 0 3
  | .wfi => aWord 0x23 0 0 4
  | .lnkr d w => aWord 0x24 d.toNat 0 (2 * w.toNat)
  | .lnkw a w => aWord 0x24 0 a.toNat (1 + 2 * w.toNat)
  | .lnkrFwd d w => aWord 0x24 d.toNat 0 (4 + 2 * w.toNat)
  | .amoaddI64 d a b o s => aaW 0x25 d a b 0 o s
  | .amoswapI64 d a b o s => aaW 0x25 d a b 1 o s
  | .amocasI64 d a b o s => aaW 0x25 d a b 2 o s
  | .amominI64 d a b o s => aaW 0x25 d a b 3 o s
  | .amomaxI64 d a b o s => aaW 0x25 d a b 4 o s
  | .amominuI64 d a b o s => aaW 0x25 d a b 5 o s
  | .amomaxuI64 d a b o s => aaW 0x25 d a b 6 o s
  | .amoandI64 d a b o s => aaW 0x25 d a b 7 o s
  | .amoorI64 d a b o s => aaW 0x25 d a b 8 o s
  | .amoxorI64 d a b o s => aaW 0x25 d a b 9 o s
  | .amoaddI32 d a b o s => aaW 0x26 d a b 0 o s
  | .amoswapI32 d a b o s => aaW 0x26 d a b 1 o s
  | .amocasI32 d a b o s => aaW 0x26 d a b 2 o s
  | .amominI32 d a b o s => aaW 0x26 d a b 3 o s
  | .amomaxI32 d a b o s => aaW 0x26 d a b 4 o s
  | .amominuI32 d a b o s => aaW 0x26 d a b 5 o s
  | .amomaxuI32 d a b o s => aaW 0x26 d a b 6 o s
  | .amoandI32 d a b o s => aaW 0x26 d a b 7 o s
  | .amoorI32 d a b o s => aaW 0x26 d a b 8 o s
  | .amoxorI32 d a b o s => aaW 0x26 d a b 9 o s
  | .fence e s => aWord 0x27 0 0 (e.toNat * 2 ^ 3 + s.code)
  | .waitge a b => aWord 0x28 0 a.toNat (b.toNat * 2 ^ 9)
  | .tspawn a => aWord 0x29 0 a.toNat 0
  | .tsig a => aWord 0x29 0 a.toNat 1
  | .halt => aWord 0x29 0 0 2
  | .haltRetain a => aWord 0x29 0 a.toNat 3
  | .tabort => aWord 0x29 0 0 4
  | .hand a b => aWord 0x29 0 a.toNat (b.toNat * 2 ^ 9 + 5)
  | .bar a => aWord 0x29 0 a.toNat 6
  | .sstep a => aWord 0x29 0 a.toNat 7
  | .xsend a b s => aWord 0x2A a.toNat b.toNat s.toNat
  | .mbwait d a b t => aWord 0x2B d.toNat a.toNat (b.toNat * 2 ^ 9 + t.toNat * 2 ^ 4)
  | .mgang a => aWord 0x2C 0 a.toNat 0
  | .mma s a b c => aWord 0x2C s.code a.toNat (b.toNat * 2 ^ 9 + c.toNat * 2 ^ 7 + 1)
  | .mzero c => aWord 0x2C 0 0 (c.toNat * 2 ^ 7 + 2)
  | .mpre s a c => aWord 0x2C s.code a.toNat (c.toNat * 2 ^ 7 + 3)
  | .mswap => aWord 0x2C 0 0 4
  | .mdrain s a b c => aWord 0x2C s.code a.toNat (b.toNat * 2 ^ 9 + c.toNat * 2 ^ 7 + 5)
  | .mxsave a => aWord 0x2C 0 a.toNat 6
  | .mxrest a => aWord 0x2C 0 a.toNat 7
  | .cpy s a => aWord 0x2D s.code a.toNat 0
  | .cpynb s d a => aWord 0x2D d.toNat a.toNat (s.code * 2 ^ 9 + 1)
  | .engpush s a b => aWord 0x2D s.code a.toNat (b.toNat * 2 ^ 9 + 2)
  | .engpop d b => aWord 0x2D d.toNat 0 (b.toNat * 2 ^ 9 + 3)
  | .sel s a => aWord 0x2D s.code a.toNat 4
  | .selwait d => aWord 0x2D d.toNat 0 5
  | .editChg a => aWord 0x2E 0 a.toNat 0
  | .editIns a => aWord 0x2E 0 a.toNat 1
  | .editDel a => aWord 0x2E 0 a.toNat 2
  | .editApp a cb => aWord 0x2E 0 a.toNat (cb.toNat * 2 ^ 6 + 3)
  | .dmap d a => aWord 0x2E d.toNat a.toNat 4
  | .settle a b => aWord 0x2E 0 a.toNat (b.toNat * 2 ^ 9 + 5)
  | .tvers d a => aWord 0x2E d.toNat a.toNat 6
  | .ldt q a i => aWord 0x2F 0 a.toNat (q.toNat * 2 ^ 11 + i.toNat)
  | .ldtNb d q a i => aWord 0x2F d.toNat a.toNat (q.toNat * 2 ^ 11 + 2 ^ 10 + i.toNat)
  | .stt q a i => aWord 0x30 q.toNat a.toNat i.toNat
  | .tlbinv a b => aWord 0x31 0 a.toNat (b.toNat * 2 ^ 9)
  | .ctxsave a => aWord 0x31 0 a.toNat 1
  | .ctxrest a => aWord 0x31 0 a.toNat 2
  | .yield => aWord 0x31 0 0 3
  | .capstart a => aWord 0x31 0 a.toNat 4
  | .capstop => aWord 0x31 0 0 5
  | .nopB => 0
  | .vaddF32 h d a b => brW h 0x01 d a b
  | .vaddF16 h d a b => brW h 0x02 d a b
  | .vaddBf16 h d a b => brW h 0x03 d a b
  | .vaddI32 h d a b => brW h 0x04 d a b
  | .vsubF32 h d a b => brW h 0x05 d a b
  | .vsubF16 h d a b => brW h 0x06 d a b
  | .vsubBf16 h d a b => brW h 0x07 d a b
  | .vsubI32 h d a b => brW h 0x08 d a b
  | .vmulF32 h d a b => brW h 0x09 d a b
  | .vmulF16 h d a b => brW h 0x0A d a b
  | .vmulBf16 h d a b => brW h 0x0B d a b
  | .vmulI32 h d a b => brW h 0x0C d a b
  | .vfmaF32 h d a b => brAccW h 0x0D d a b
  | .vfmaF16 h d a b => brAccW h 0x0E d a b
  | .vfmaBf16 h d a b => brAccW h 0x0F d a b
  | .vfmsF32 h d a b => brAccW h 0x10 d a b
  | .vfmsF16 h d a b => brAccW h 0x11 d a b
  | .vfmsBf16 h d a b => brAccW h 0x12 d a b
  | .vfnmaF32 h d a b => brAccW h 0x13 d a b
  | .vfnmaF16 h d a b => brAccW h 0x14 d a b
  | .vfnmaBf16 h d a b => brAccW h 0x15 d a b
  | .vfnmsF32 h d a b => brAccW h 0x16 d a b
  | .vfnmsF16 h d a b => brAccW h 0x17 d a b
  | .vfnmsBf16 h d a b => brAccW h 0x18 d a b
  | .vminF32 h d a b => brW h 0x19 d a b
  | .vminF16 h d a b => brW h 0x1A d a b
  | .vminBf16 h d a b => brW h 0x1B d a b
  | .vminI32 h d a b => brW h 0x1C d a b
  | .vminN32 h d a b => brW h 0x1D d a b
  | .vmaxF32 h d a b => brW h 0x1E d a b
  | .vmaxF16 h d a b => brW h 0x1F d a b
  | .vmaxBf16 h d a b => brW h 0x20 d a b
  | .vmaxI32 h d a b => brW h 0x21 d a b
  | .vmaxN32 h d a b => brW h 0x22 d a b
  | .vcmpeqF32 h d a b => brW h 0x23 d a b
  | .vcmpeqF16 h d a b => brW h 0x24 d a b
  | .vcmpeqBf16 h d a b => brW h 0x25 d a b
  | .vcmpeqI32 h d a b => brW h 0x26 d a b
  | .vcmpeqN32 h d a b => brW h 0x27 d a b
  | .vcmpltF32 h d a b => brW h 0x28 d a b
  | .vcmpltF16 h d a b => brW h 0x29 d a b
  | .vcmpltBf16 h d a b => brW h 0x2A d a b
  | .vcmpltI32 h d a b => brW h 0x2B d a b
  | .vcmpltN32 h d a b => brW h 0x2C d a b
  | .vcmpleF32 h d a b => brW h 0x2D d a b
  | .vcmpleF16 h d a b => brW h 0x2E d a b
  | .vcmpleBf16 h d a b => brW h 0x2F d a b
  | .vcmpleI32 h d a b => brW h 0x30 d a b
  | .vcmpleN32 h d a b => brW h 0x31 d a b
  | .vcmpunF32 h d a b => brW h 0x32 d a b
  | .vcmpunF16 h d a b => brW h 0x33 d a b
  | .vcmpunBf16 h d a b => brW h 0x34 d a b
  | .vselI8 h d a b => brAccW h 0x35 d a b
  | .vselI16 h d a b => brAccW h 0x36 d a b
  | .vselI32 h d a b => brAccW h 0x37 d a b
  | .vselI64 h d a b => brAccW h 0x38 d a b
  | .vand h d a b => brW h 0x39 d a b
  | .vor h d a b => brW h 0x3A d a b
  | .vxor h d a b => brW h 0x3B d a b
  | .vshlI32 h d a b => brW h 0x3C d a b
  | .vshlI64 h d a b => brW h 0x3D d a b
  | .vshrI32 h d a b => brW h 0x3E d a b
  | .vshrI64 h d a b => brW h 0x3F d a b
  | .vsraI32 h d a b => brW h 0x40 d a b
  | .vsraI64 h d a b => brW h 0x41 d a b
  | .vmulhI32 h d a b => brW h 0x42 d a b
  | .vmulhN32 h d a b => brW h 0x43 d a b
  | .vmulhI16 h d a b => brW h 0x44 d a b
  | .vmulhN16 h d a b => brW h 0x45 d a b
  | .vpaddL8e4 h d a b => brW h 0x46 d a b
  | .vpaddL8e5 h d a b => brW h 0x47 d a b
  | .vpaddL8e4Nan h d a b => brW h 0x48 d a b
  | .vpaddL8e5Nan h d a b => brW h 0x49 d a b
  | .vpaddI8 h d a b => brW h 0x4A d a b
  | .vpaddN8 h d a b => brW h 0x4B d a b
  | .vpmulL8e4 h d a b => brW h 0x4C d a b
  | .vpmulL8e5 h d a b => brW h 0x4D d a b
  | .vpmulL8e4Nan h d a b => brW h 0x4E d a b
  | .vpmulL8e5Nan h d a b => brW h 0x4F d a b
  | .vpmulI8 h d a b => brW h 0x50 d a b
  | .vpmulN8 h d a b => brW h 0x51 d a b
  | .vmix h d a b => brW h 0x52 d a b
  | .vtempF32 h d a b => brW h 0x53 d a b
  | .vtempF16 h d a b => brW h 0x54 d a b
  | .vtempBf16 h d a b => brW h 0x55 d a b
  | .vrcpr h d a b => brW h 0x56 d a b
  | .vrsqr h d a b => brW h 0x57 d a b
  | .vpermI8 h d a b => brW h 0x58 d a b
  | .vpermI16 h d a b => brW h 0x59 d a b
  | .vpermI32 h d a b => brW h 0x5A d a b
  | .vpermI64 h d a b => brW h 0x5B d a b
  | .vmergeI32 h d a b => brW h 0x5C d a b
  | .vmergeI64 h d a b => brW h 0x5D d a b
  | .vabs h d t b => b2W h 0x5E d t.code 0 b
  | .vneg h d t b => b2W h 0x5F d t.code 0 b
  | .vordkey h d t b => b2W h 0x60 d t.code 0 b
  | .vrcpa h d t b => b2W h 0x61 d t.code 0 b
  | .vrsqa h d t b => b2W h 0x62 d t.code 0 b
  | .vlog2 h d t b => b2W h 0x63 d t.code 0 b
  | .vexp2 h d t b => b2W h 0x64 d t.code 0 b
  | .vredsum h d t r b => b2W h 0x65 d t.code r.code b
  | .vredmax h d t b => b2W h 0x66 d t.code 0 b
  | .vredmin h d t b => b2W h 0x67 d t.code 0 b
  | .vargmax h d t b => b2W h 0x68 d t.code 0 b
  | .vargmin h d t b => b2W h 0x69 d t.code 0 b
  | .vcompress h d t b => b2W h 0x6A d t.code 0 b
  | .vmov h d b => b2W h 0x6B d 0 0 b
  | .vcvt h d t u r n s => bcW h 0x6C d t u r.code n.toNat s
  | .vpack h d t u r n s => bcW h 0x6D d t u r.code n.toNat s
  | .vunpack h d t u s => bcW h 0x6E d t u 0 0 s
  | .vslide h d w i a => bsW h 0x6F d w i a
  | .vbcast h d w i a => bsW h 0x70 d w i a
  | .mand h d a b w => bmW h 0x71 d a b w
  | .mor h d a b w => bmW h 0x72 d a b w
  | .mxor h d a b w => bmW h 0x73 d a b w
  | .mnot h d b w => bmW h 0x74 d 0 b w
  | .mpop h d b w => bmW h 0x75 d 0 b w
  | .mfirst h d b w => bmW h 0x76 d 0 b w
  | .qadv q n => 0x77 * 2 ^ 22 + q.toNat * 2 ^ 19 + n.toNat * 2 ^ 14
  | .bqput e b => 0x78 * 2 ^ 22 + e.toNat * 2 ^ 9 + b.code
  | .vaddiLow h d i => biW h 0x79 d i
  | .vaddiHigh h d i => biW h 0x7A d i
  | .vmuliLow h d i => biW h 0x7B d i
  | .vmuliHigh h d i => biW h 0x7C d i
  | .vsplatLow h d i => biW h 0x7D d i
  | .vsplatHigh h d i => biW h 0x7E d i
  | .stythnetPortTrainingChange _ _ => 0
  | .matrixArrayIdle _ => 0
  | .ownershipTagWrite _ _ => 0

/-- The literal of a vs2 operand, 0 if it is none (R57, R64). -/
def VSrc2.litWord : VSrc2 → W32
  | .lit w => w
  | _ => 0

/-- Word 1 of an instruction's lone frame: its literal, or 0 (R57). -/
def Instr.word1 : Instr → W32
  | .addiLiteral _ _ w => w
  | .andiLiteral _ _ w => w
  | .oriLiteral _ _ w => w
  | .xoriLiteral _ _ w => w
  | .lihLiteral _ w => w
  | .vaddF32 _ _ _ b => b.litWord
  | .vaddF16 _ _ _ b => b.litWord
  | .vaddBf16 _ _ _ b => b.litWord
  | .vaddI32 _ _ _ b => b.litWord
  | .vsubF32 _ _ _ b => b.litWord
  | .vsubF16 _ _ _ b => b.litWord
  | .vsubBf16 _ _ _ b => b.litWord
  | .vsubI32 _ _ _ b => b.litWord
  | .vmulF32 _ _ _ b => b.litWord
  | .vmulF16 _ _ _ b => b.litWord
  | .vmulBf16 _ _ _ b => b.litWord
  | .vmulI32 _ _ _ b => b.litWord
  | .vfmaF32 _ _ _ b => b.litWord
  | .vfmaF16 _ _ _ b => b.litWord
  | .vfmaBf16 _ _ _ b => b.litWord
  | .vfmsF32 _ _ _ b => b.litWord
  | .vfmsF16 _ _ _ b => b.litWord
  | .vfmsBf16 _ _ _ b => b.litWord
  | .vfnmaF32 _ _ _ b => b.litWord
  | .vfnmaF16 _ _ _ b => b.litWord
  | .vfnmaBf16 _ _ _ b => b.litWord
  | .vfnmsF32 _ _ _ b => b.litWord
  | .vfnmsF16 _ _ _ b => b.litWord
  | .vfnmsBf16 _ _ _ b => b.litWord
  | .vminF32 _ _ _ b => b.litWord
  | .vminF16 _ _ _ b => b.litWord
  | .vminBf16 _ _ _ b => b.litWord
  | .vminI32 _ _ _ b => b.litWord
  | .vminN32 _ _ _ b => b.litWord
  | .vmaxF32 _ _ _ b => b.litWord
  | .vmaxF16 _ _ _ b => b.litWord
  | .vmaxBf16 _ _ _ b => b.litWord
  | .vmaxI32 _ _ _ b => b.litWord
  | .vmaxN32 _ _ _ b => b.litWord
  | .vcmpeqF32 _ _ _ b => b.litWord
  | .vcmpeqF16 _ _ _ b => b.litWord
  | .vcmpeqBf16 _ _ _ b => b.litWord
  | .vcmpeqI32 _ _ _ b => b.litWord
  | .vcmpeqN32 _ _ _ b => b.litWord
  | .vcmpltF32 _ _ _ b => b.litWord
  | .vcmpltF16 _ _ _ b => b.litWord
  | .vcmpltBf16 _ _ _ b => b.litWord
  | .vcmpltI32 _ _ _ b => b.litWord
  | .vcmpltN32 _ _ _ b => b.litWord
  | .vcmpleF32 _ _ _ b => b.litWord
  | .vcmpleF16 _ _ _ b => b.litWord
  | .vcmpleBf16 _ _ _ b => b.litWord
  | .vcmpleI32 _ _ _ b => b.litWord
  | .vcmpleN32 _ _ _ b => b.litWord
  | .vcmpunF32 _ _ _ b => b.litWord
  | .vcmpunF16 _ _ _ b => b.litWord
  | .vcmpunBf16 _ _ _ b => b.litWord
  | .vselI8 _ _ _ b => b.litWord
  | .vselI16 _ _ _ b => b.litWord
  | .vselI32 _ _ _ b => b.litWord
  | .vselI64 _ _ _ b => b.litWord
  | .vand _ _ _ b => b.litWord
  | .vor _ _ _ b => b.litWord
  | .vxor _ _ _ b => b.litWord
  | .vshlI32 _ _ _ b => b.litWord
  | .vshlI64 _ _ _ b => b.litWord
  | .vshrI32 _ _ _ b => b.litWord
  | .vshrI64 _ _ _ b => b.litWord
  | .vsraI32 _ _ _ b => b.litWord
  | .vsraI64 _ _ _ b => b.litWord
  | .vmulhI32 _ _ _ b => b.litWord
  | .vmulhN32 _ _ _ b => b.litWord
  | .vmulhI16 _ _ _ b => b.litWord
  | .vmulhN16 _ _ _ b => b.litWord
  | .vpaddL8e4 _ _ _ b => b.litWord
  | .vpaddL8e5 _ _ _ b => b.litWord
  | .vpaddL8e4Nan _ _ _ b => b.litWord
  | .vpaddL8e5Nan _ _ _ b => b.litWord
  | .vpaddI8 _ _ _ b => b.litWord
  | .vpaddN8 _ _ _ b => b.litWord
  | .vpmulL8e4 _ _ _ b => b.litWord
  | .vpmulL8e5 _ _ _ b => b.litWord
  | .vpmulL8e4Nan _ _ _ b => b.litWord
  | .vpmulL8e5Nan _ _ _ b => b.litWord
  | .vpmulI8 _ _ _ b => b.litWord
  | .vpmulN8 _ _ _ b => b.litWord
  | .vmix _ _ _ b => b.litWord
  | .vtempF32 _ _ _ b => b.litWord
  | .vtempF16 _ _ _ b => b.litWord
  | .vtempBf16 _ _ _ b => b.litWord
  | .vrcpr _ _ _ b => b.litWord
  | .vrsqr _ _ _ b => b.litWord
  | .vpermI8 _ _ _ b => b.litWord
  | .vpermI16 _ _ _ b => b.litWord
  | .vpermI32 _ _ _ b => b.litWord
  | .vpermI64 _ _ _ b => b.litWord
  | .vmergeI32 _ _ _ b => b.litWord
  | .vmergeI64 _ _ _ b => b.litWord
  | .vabs _ _ _ b => b.litWord
  | .vneg _ _ _ b => b.litWord
  | .vordkey _ _ _ b => b.litWord
  | .vrcpa _ _ _ b => b.litWord
  | .vrsqa _ _ _ b => b.litWord
  | .vlog2 _ _ _ b => b.litWord
  | .vexp2 _ _ _ b => b.litWord
  | .vredsum _ _ _ _ b => b.litWord
  | .vredmax _ _ _ b => b.litWord
  | .vredmin _ _ _ b => b.litWord
  | .vargmax _ _ _ b => b.litWord
  | .vargmin _ _ _ b => b.litWord
  | .vcompress _ _ _ b => b.litWord
  | .vmov _ _ b => b.litWord
  | .bqput _ b => b.litWord
  | _ => 0

/-- The words of an instruction (R57, R58): an A instruction and an unmasked, undisturbed-or-agnostic B instruction stand alone, a masked B word stands beside an A `nop`. -/
def encode (i : Instr) : W32 × W32 :=
  match i.side with
  | .a => (BitVec.ofNat 32 (2 ^ 31 + i.bits), i.word1)
  | .b => if i.bits < 2 ^ 30 then (BitVec.ofNat 32 (2 ^ 31 + 2 ^ 30 + i.bits), i.word1) else (0, BitVec.ofNat 32 i.bits)
  | .event => (0, 0)

/-- The instruction of two words, if the frame holds one. -/
noncomputable def decode (w0 w1 : W32) : Option Instr := (decodeFrame w0 w1).first

/-- Is `w`, read as a B word, an instruction? -/
noncomputable def isBWord (w : Nat) : Bool := (decodeB (w % 2 ^ 32) none).isSome
/-- Is `w`, read as word 0 with an A payload, an instruction? -/
noncomputable def isAWord (w : Nat) : Bool := (decodeA (w % 2 ^ 30) none).isSome

/-- Should a table word be laid out as the B word of a pair frame? The table numbers A words as word 0 (bit 31 is L) and B words as B words (bits [31:30] are MSEL), so one number can be both: it is read as an A word where that is legal, but for bits [31:30] = 01 or 11, which no A word has, and for a bare B major whose operand bits are all zero. -/
noncomputable def tableIsB (w : Nat) : Bool :=
  fld w 30 1 == 1 || (isBWord w && ((fld w 0 22 == 0 && fld w 22 2 != 0 && fld w 31 1 == 0) || !isAWord w))

/-- The frame that a word numbered as the opcode table numbers it stands for: the word as word 0, or an A `nop` beside the word. -/
noncomputable def tableFrame (w : Nat) : W32 × W32 :=
  if tableIsB w then (0, BitVec.ofNat 32 w) else (BitVec.ofNat 32 w, 0)

/-- The instruction that the decoder reads from a table word (fixed name of this task). -/
noncomputable def decodeTableWord (_nbits w : Nat) : Option Instr := decode (tableFrame w).1 (tableFrame w).2

end Sys2Proof
end

