-- ==== Sys2Proof/Machine/Operands.lean ====
section
/-! DEFINITION. Operands of B instructions: elements (R44, R105), lane patterns (R106), masks and policy (R107), destinations (R108), the waits and traps of queue slots (R18, R93), and the shape that every vector instruction has: read, compute, write, retire with its flags (R51, R109). -/
namespace Sys2Proof.Machine

/-- Elements of width w of a 512-bit value (R44). -/
def elems512 (w : Nat) (x : V512) : List Nat := elemsOf w (512 / w) x.toNat
/-- Packs elements of width w (R44). -/
def pack512 (w : Nat) (l : List Nat) : V512 := BitVec.ofNat 512 (packElems w l)
/-- An element of every position. -/
def splat (w x : Nat) : V512 := pack512 w (List.replicate (512 / w) x)

/-- Source element of a lane pattern within a block of b elements (R106). -/
def patSrc (p : Pat) (lperm : W64) (b i : Nat) : Nat :=
  let base := i - i % b
  let k := i % b
  match p with
  | .none => i
  | .rot1 => base + (k + 1) % b
  | .rot4 => base + (k + 4) % b
  | .rev => base + b - 1 - k
  | .perm8 => base + (k - k % 8) + bitsN lperm (3 * (k % 8) + 2) (3 * (k % 8))
  | .bc0 => base
  | .bc1 => base + 1
  | .swp => base + (k ^^^ 1)

/-- Applies a lane pattern to elements of width w (R106). -/
def patApply (p : Pat) (lperm : W64) (w : Nat) (x : V512) : V512 :=
  let n := 512 / w
  let l := elems512 w x
  match p with
  | .none => x
  | _ => pack512 w ((List.range n).map fun i => l.getD (patSrc p lperm (min 32 n) i) 0)

/-- What a read of an operand or the room for a destination answers: a value, a wait, or a stream fault of a queue's slot (R93). -/
inductive Opnd (α : Type) where
  | val (x : α)
  | wait
  | fault (q : BitVec 3)
  deriving DecidableEq, Repr

/-- Continues with the value of an operand. -/
def Opnd.bind {α β : Type} (x : Opnd α) (f : α → Opnd β) : Opnd β :=
  match x with
  | .val v => f v
  | .wait => .wait
  | .fault q => .fault q

/-- A read of slot head+n of q0 to q5 (R18, R93). -/
def Hart.readSlot (h : Hart) (q : BitVec 3) (n : BitVec 4) : Opnd V512 :=
  let x := h.rq q
  match x.ents[n.toNat]? with
  | some (.fault _) => .fault q
  | _ => if n.toNat < x.filled then .val x.slots[(x.head + n).toNat] else .wait

/-- A vs1 operand (R64, R105). -/
def Hart.src1 (h : Hart) : VSrc → Opnd V512
  | .v r => .val (h.rv r)
  | .q q n => h.readSlot q n

/-- A vs2 operand as read: 512 bits, or the 32-bit scalar of a constant or literal (R64). -/
inductive Vs2 where
  | vec (x : V512)
  | scalar (w : W32)
  deriving DecidableEq, Repr

/-- A vs2 operand after its lane pattern, for elements of width w (R64, R105, R106). -/
def Hart.src2 (h : Hart) (w : Nat) : VSrc2 → Opnd Vs2
  | .v r p => .val (.vec (patApply p h.bLperm w (h.rv r)))
  | .q q n => (h.readSlot q n).bind fun x => .val (.vec x)
  | .k i => .val (.scalar (h.rk i))
  | .lit x => .val (.scalar x)

/-- The queue q6 or q7 of a vd operand. -/
def outQ (hi : Bool) : BitVec 3 := if hi then 7 else 6
/-- Slot tail+n of q6 or q7. -/
def Queue.tailSlot (x : Queue) (n : BitVec 4) : BitVec 4 := x.head + BitVec.ofNat 4 x.ents.length + n
/-- The old value of a destination, once it can be written: a queue waits for n+1 free slots (R18, R107, R108). -/
def Hart.dst (h : Hart) : VDst → Opnd V512
  | .v r => .val (h.rv r)
  | .q hi n =>
    let x := h.rq (outQ hi)
    if x.ents.length + n.toNat < 16 then .val x.slots[(x.tailSlot n).toNat] else .wait
/-- Writes a destination (R108). -/
def Hart.putDst (h : Hart) (d : VDst) (v : V512) : Hart :=
  match d with
  | .v r => h.setV r v
  | .q hi n => let x := h.rq (outQ hi); h.setQ (outQ hi) { x with slots := x.slots.set (x.tailSlot n).toNat v }

/-- Is element i active (R107)? -/
def Hart.active (h : Hart) (m : BMask) (i : Nat) : Bool :=
  m.sel == 0 || (h.v[m.sel.toNat]'(by have := m.sel.isLt; omega)).getLsbD i
/-- Is any of n elements active? -/
def Hart.anyActive (h : Hart) (m : BMask) (n : Nat) : Bool := (List.range n).any (h.active m)

/-- A scalar as an element of a type (R64): FP32 converted under the rounding, or the integer's low or sign-extended bits. -/
def scalarAs (t : ETy) (rm : Nat) (nanm : Bool) (x : W32) : Rl :=
  match t.float? with
  | some _ => convert .f32 t rm nanm x.toNat
  | none => (ofSigned t.width (toSigned 32 x.toNat), 0)

/-- The elements of a vs2 operand of a type, and the flags of a converted scalar, which count if any of n elements is active (R64). DEDUCED: the conversion's flags count for every instruction with such an operand, those of R115, R116, R128 and R134 too, whose own operations set no flag (log entry 35). -/
def Hart.elems2 (h : Hart) (m : BMask) (n : Nat) (t : ETy) (rm : Nat) (nanm : Bool) (b : Vs2) : List Nat × FFl :=
  match b with
  | .vec x => (elems512 t.width x, 0)
  | .scalar x => let r := scalarAs t rm nanm x; (List.replicate (512 / t.width) r.1, if h.anyActive m n then r.2 else 0)

/-- Writes element by element (R107): an active element takes its result, another keeps its old bits or becomes zero. -/
def Hart.writeElems (h : Hart) (m : BMask) (w : Nat) (old : V512) (f : Nat → Rl) : V512 × FFl :=
  let o := elems512 w old
  let rs := (List.range (512 / w)).map fun i => if h.active m i then f i else (if m.agn then 0 else o.getD i 0, 0)
  (pack512 w (rs.map Prod.fst), rs.foldl (fun a r => a ||| r.2) 0)

/-- Writes mask bits 0 to n-1 (R107, R118): the bits above are zero. -/
def Hart.writeBits (h : Hart) (m : BMask) (n : Nat) (old : V512) (f : Nat → Bool × FFl) : V512 × FFl :=
  let rs := (List.range n).map fun i => if h.active m i then f i else (!m.agn && old.getLsbD i, 0)
  (pack512 1 ((rs.map fun r => r.1.toNat)), rs.foldl (fun a r => a ||| r.2) 0)

/-- The stream-fault trap of a B word that reads the slot of a faulted group (R93). -/
def State.trapStream (s : State) (q : BitVec 3) : State :=
  let x := s.hart.stream q
  s.trapB ⟨14, streamVal q x.next, x.groupAddr x.next⟩

/-- The B word retires: its flags join FFLAGS (R51). -/
def Hart.retireFlags (h : Hart) (fl : FFl) : Hart := (h.setReg .fflags (h.reg .fflags ||| fl.setWidth 64)).retireB

/-- Ends a B instruction whose operands answered `x`: a wait (R110), a stream fault, or its destination written and its flags ORed in. -/
def State.endB (s : State) (d : VDst) (x : Opnd (V512 × FFl)) : State :=
  match x with
  | .wait => s.waitB .queue
  | .fault q => s.trapStream q
  | .val (v, fl) => s.mapHart fun h => (h.putDst d v).retireFlags fl

/-- The rounding mode of a RND field (R65, R109). -/
def rndMode (r : Rnd) (h : Hart) : Nat :=
  match r with
  | .dyn => h.bRm | .rne => 0 | .rtz => 1 | .rup => 2 | .rdn => 3

/-- A BR instruction of element type t (R105): `f` gives the result of an element from the old destination, vs1 and vs2. DESIGN CHOICE: the operands are looked at in their order, so a wait for an earlier one goes before the stream fault of a later one, for which the spec gives no order (log entry 25). -/
def State.br (s : State) (t : ETy) (m : BMask) (d : VDst) (a : VSrc) (b : VSrc2) (f : Nat → Nat → Nat → Rl) : State :=
  let h := s.hart
  let w := t.width
  s.endB d ((h.src1 a).bind fun x => (h.src2 w b).bind fun y => (h.dst d).bind fun o =>
    let e2 := h.elems2 m (512 / w) t h.bRm false y
    let xs := elems512 w x
    let os := elems512 w o
    let r := h.writeElems m w o fun i => f (os.getD i 0) (xs.getD i 0) (e2.1.getD i 0)
    .val (r.1, r.2 ||| e2.2))

/-- A BR instruction that sees whole operands: the old destination, the list of vs1, the list of vs2, the element's number. -/
def State.brAll (s : State) (t : ETy) (m : BMask) (d : VDst) (a : VSrc) (b : VSrc2) (f : V512 → List Nat → List Nat → Nat → Rl) : State :=
  let h := s.hart
  let w := t.width
  s.endB d ((h.src1 a).bind fun x => (h.src2 w b).bind fun y => (h.dst d).bind fun o =>
    let e2 := h.elems2 m (512 / w) t h.bRm false y
    let r := h.writeElems m w o (f o (elems512 w x) e2.1)
    .val (r.1, r.2 ||| e2.2))

/-- A compare (R118): a mask bit for each element. -/
def State.cmp (s : State) (t : ETy) (m : BMask) (d : VDst) (a : VSrc) (b : VSrc2) (f : Nat → Nat → Bool × FFl) : State :=
  let h := s.hart
  let w := t.width
  s.endB d ((h.src1 a).bind fun x => (h.src2 w b).bind fun y => (h.dst d).bind fun o =>
    let e2 := h.elems2 m (512 / w) t h.bRm false y
    let xs := elems512 w x
    let r := h.writeBits m (512 / w) o fun i => f (xs.getD i 0) (e2.1.getD i 0)
    .val (r.1, r.2 ||| e2.2))

/-- A B2 instruction that writes element by element with the rounding mode given for a converted scalar. -/
def State.b2 (s : State) (t : ETy) (rm : Nat) (m : BMask) (d : VDst) (b : VSrc2) (f : Nat → Rl) : State :=
  let h := s.hart
  let w := t.width
  s.endB d ((h.src2 w b).bind fun y => (h.dst d).bind fun o =>
    let e2 := h.elems2 m (512 / w) t rm false y
    let r := h.writeElems m w o fun i => f (e2.1.getD i 0)
    .val (r.1, r.2 ||| e2.2))

/-- A B2 instruction that writes its whole destination from the elements of vs2 (R107). -/
def State.b2All (s : State) (t : ETy) (rm : Nat) (m : BMask) (d : VDst) (b : VSrc2) (f : List Nat → V512 × FFl) : State :=
  let h := s.hart
  let w := t.width
  s.endB d ((h.src2 w b).bind fun y => (h.dst d).bind fun _ =>
    let e2 := h.elems2 m (512 / w) t rm false y
    let r := f e2.1
    .val (r.1, r.2 ||| e2.2))

end Sys2Proof.Machine
end

