-- ==== Sys2Proof/Machine/Vec.lean ====
section
/-! DEFINITION. B instructions of the BR format: arithmetic (R112 to R115), compares and selects (R118, R119), integer operations (R121 to R123), packed 8-bit arithmetic (R124), refinement (R131), temperature (R132), permutes (R135) and mixing (R139). -/
namespace Sys2Proof.Machine

/-- A floating operation of R112 to R114 on elements of a type, rounded by FMODE.RM (R109). -/
def State.vfloat (s : State) (t : ETy) (f : FFmt) (op : FOp) (m : BMask) (d : VDst) (a : VSrc) (b : VSrc2) : State :=
  s.br t m d a b fun o x y => f.op op s.hart.bRm o x y

/-- An integer operation on the numbers that elements stand for, modulo 2^w and without a flag (R45). -/
def State.vint (s : State) (t : ETy) (op : Int → Int → Int) (m : BMask) (d : VDst) (a : VSrc) (b : VSrc2) : State :=
  s.br t m d a b fun _ x y => (ofSigned t.width (op (t.ival x) (t.ival y)), 0)

/-- vmin or vmax of two elements (R115). -/
def pickElem (t : ETy) (max : Bool) (x y : Nat) : Nat :=
  if t.isNan x && t.isNan y then t.nan
  else if t.isNan x then y
  else if t.isNan y then x
  else if ranksBelow t x y == max then y else x

/-- `vmin`, `vmax` (R115). -/
def State.vpick (s : State) (t : ETy) (max : Bool) (m : BMask) (d : VDst) (a : VSrc) (b : VSrc2) : State :=
  s.br t m d a b fun _ x y => (pickElem t max x y, 0)

/-- The comparisons of R118. -/
inductive CmpOp where
  | eq | lt | le | un
  deriving DecidableEq, Repr

/-- A comparison of two elements and its flag (R118). -/
def cmpElem (t : ETy) (op : CmpOp) (x y : Nat) : Bool × FFl :=
  let un := t.isNan x || t.isNan y
  match op with
  | .eq => (!un && elemEq t x y, 0)
  | .lt => (!un && elemLt t x y, flIf un fNV)
  | .le => (!un && (elemLt t x y || elemEq t x y), flIf un fNV)
  | .un => (un, 0)

/-- `vsel` (R119): bit i of the old vd selects vs1. -/
def State.vsel (s : State) (t : ETy) (m : BMask) (d : VReg) (a : VSrc) (b : VSrc2) : State :=
  s.brAll t m (.v d) a b fun o x y i => ((if o.getLsbD i then x else y).getD i 0, 0)

/-- A bitwise operation on elements, without a flag (R121, R122). -/
def State.vbits (s : State) (t : ETy) (op : Nat → Nat → Nat) (m : BMask) (d : VDst) (a : VSrc) (b : VSrc2) : State :=
  s.br t m d a b fun _ x y => (op x y % 2 ^ t.width, 0)

/-- Shift counts are taken modulo w (R122). -/
def shlElem (w x y : Nat) : Nat := x <<< (y % w)
/-- Logical shift right (R122). -/
def shrElem (w x y : Nat) : Nat := x >>> (y % w)
/-- Arithmetic shift right (R122). -/
def sraElem (w x y : Nat) : Nat := ofSigned w (toSigned w x / (2 ^ (y % w) : Nat))

/-- High half of the product (R123). -/
def State.vmulh (s : State) (t : ETy) (m : BMask) (d : VDst) (a : VSrc) (b : VSrc2) : State :=
  s.br t m d a b fun _ x y => (ofSigned t.width (t.ival x * t.ival y / (2 ^ t.width : Nat)), 0)

/-- A sub-element of `vpadd` or `vpmul` (R124). -/
def packedElem (t : ETy) (mul nanm : Bool) (rm x y : Nat) : Rl :=
  match t.float? with
  | some f => f.put rm nanm (if mul then fvMul (f.dec x) (f.dec y) else fvAdd rm (f.dec x) (f.dec y))
  | none => (clampTo t (if mul then t.ival x * t.ival y else t.ival x + t.ival y), 0)

/-- Packed 8-bit arithmetic (R124): 16 lanes of four sub-elements; a scalar becomes one sub-element, broadcast. -/
def State.vpacked (s : State) (t : ETy) (mul nanm : Bool) (m : BMask) (d : VDst) (a : VSrc) (b : VSrc2) : State :=
  let h := s.hart
  s.endB d ((h.src1 a).bind fun x => (h.src2 32 b).bind fun y => (h.dst d).bind fun o =>
    let e2 := h.elems2 m 16 t h.bRm nanm y
    let xs := elems512 8 x
    let lane (i : Nat) : Rl :=
      let rs := (List.range 4).map fun j => packedElem t mul nanm h.bRm (xs.getD (4 * i + j) 0) (e2.1.getD (4 * i + j) 0)
      (packElems 8 (rs.map Prod.fst), rs.foldl (fun z r => z ||| r.2) 0)
    let r := h.writeElems m 32 o lane
    .val (r.1, r.2 ||| e2.2))

/-- Half of a value. -/
def FV.half : FV → FV
  | .num s m e => .num s m (e - 1)
  | v => v

/-- Refinement of an estimate y of 1/x or 1/√x (R131), on FP32. -/
def refineElem (root : Bool) (x y : Nat) : Rl :=
  let a := fF32.dec x
  let b := fF32.dec y
  let neg := match a with | .inf s => s | .num s m _ => s && m != 0 | .nan => false
  if a.isNan || b.isNan then (fF32.nan, 0)
  else if b.isZero || b.isInf then (y, 0)
  else if neg && root then (fF32.nan, fNV)
  else if !neg && (a.isZero || a.isInf) then (if root then SFn.rsq else SFn.rcp).apply fF32 x
  else
    let xy := (fvMul a b).1
    let d := (fvAdd 0 (.num false 1 0) (if root then (fvMul xy b).1 else xy).neg).1
    let c := (fvMul b d).1
    fF32.put 0 false (fvAdd 0 b (if root then c.half else c))

/-- The greedy element of R132: the lowest active one that holds the maximum of the active elements that are not NaN. -/
def greedy (t : ETy) (act : Nat → Bool) (xs : List Nat) : Option Nat :=
  ((xs.zipIdx.filter fun p => act p.2 && !t.isNan p.1).foldl (fun best p => match best with
    | none => some p
    | some q => if ranksBelow t q.1 p.1 then some p else some q) none).map Prod.snd

/-- An element of `vtemp` (R132) at temperature T. -/
def tempElem (t : ETy) (f : FFmt) (rm : Nat) (best : Option Nat) (tv x i : Nat) : Rl :=
  match f.dec tv with
  | .nan => (f.nan, fNV)
  | .inf true => (f.nan, fNV)
  | .inf false => if t.isNan x then (f.nan, 0) else if (f.dec x).isInf then (x, 0) else (f.zero false, 0)
  | .num true _ _ => (f.nan, fNV)
  | .num false m _ => if m < 2 ^ f.mb then (f.inf (best != some i), 0) else fvDiv rm f (f.dec x) (f.dec tv)

/-- `vtemp` (R132): T is element 0 of vs2. -/
def State.vtemp (s : State) (t : ETy) (f : FFmt) (m : BMask) (d : VDst) (a : VSrc) (b : VSrc2) : State :=
  s.brAll t m d a b fun _ xs ys i =>
    tempElem t f s.hart.bRm (greedy t (s.hart.active m) xs) (ys.getD 0 0) (xs.getD i 0) i

/-- `vperm` (R135): vs2 as read is the index, modulo E. -/
def State.vperm (s : State) (t : ETy) (m : BMask) (d : VDst) (a : VSrc) (b : VSrc2) : State :=
  s.brAll t m d a b fun _ xs ys i => (xs.getD (ys.getD i 0 % (512 / t.width)) 0, 0)

/-- `vmerge` (R135). -/
def State.vmerge (s : State) (t : ETy) (m : BMask) (d : VDst) (a : VSrc) (b : VSrc2) : State :=
  s.brAll t m d a b fun _ xs ys i => ((if i % 2 = 0 then xs else ys).getD (i / 2) 0, 0)

/-- `vadd.f32` (R112, R114). -/
def execVaddF32 (m : BMask) (d : VDst) (a : VSrc) (b : VSrc2) (s : State) : Out := .next (s.vfloat .f32 fF32 .add m d a b)
/-- `vadd.f16` (R112, R114). -/
def execVaddF16 (m : BMask) (d : VDst) (a : VSrc) (b : VSrc2) (s : State) : Out := .next (s.vfloat .f16 fF16 .add m d a b)
/-- `vadd.bf16` (R112, R114). -/
def execVaddBf16 (m : BMask) (d : VDst) (a : VSrc) (b : VSrc2) (s : State) : Out := .next (s.vfloat .bf16 fBf16 .add m d a b)
/-- `vadd.i32` (R112). -/
def execVaddI32 (m : BMask) (d : VDst) (a : VSrc) (b : VSrc2) (s : State) : Out := .next (s.vint .i32 (· + ·) m d a b)
/-- `vsub.f32` (R112, R114). -/
def execVsubF32 (m : BMask) (d : VDst) (a : VSrc) (b : VSrc2) (s : State) : Out := .next (s.vfloat .f32 fF32 .sub m d a b)
/-- `vsub.f16` (R112, R114). -/
def execVsubF16 (m : BMask) (d : VDst) (a : VSrc) (b : VSrc2) (s : State) : Out := .next (s.vfloat .f16 fF16 .sub m d a b)
/-- `vsub.bf16` (R112, R114). -/
def execVsubBf16 (m : BMask) (d : VDst) (a : VSrc) (b : VSrc2) (s : State) : Out := .next (s.vfloat .bf16 fBf16 .sub m d a b)
/-- `vsub.i32` (R112). -/
def execVsubI32 (m : BMask) (d : VDst) (a : VSrc) (b : VSrc2) (s : State) : Out := .next (s.vint .i32 (· - ·) m d a b)
/-- `vmul.f32` (R112, R114). -/
def execVmulF32 (m : BMask) (d : VDst) (a : VSrc) (b : VSrc2) (s : State) : Out := .next (s.vfloat .f32 fF32 .mul m d a b)
/-- `vmul.f16` (R112, R114). -/
def execVmulF16 (m : BMask) (d : VDst) (a : VSrc) (b : VSrc2) (s : State) : Out := .next (s.vfloat .f16 fF16 .mul m d a b)
/-- `vmul.bf16` (R112, R114). -/
def execVmulBf16 (m : BMask) (d : VDst) (a : VSrc) (b : VSrc2) (s : State) : Out := .next (s.vfloat .bf16 fBf16 .mul m d a b)
/-- `vmul.i32` (R112). -/
def execVmulI32 (m : BMask) (d : VDst) (a : VSrc) (b : VSrc2) (s : State) : Out := .next (s.vint .i32 (· * ·) m d a b)
/-- `vfma.f32` (R113, R114). -/
def execVfmaF32 (m : BMask) (d : VReg) (a : VSrc) (b : VSrc2) (s : State) : Out := .next (s.vfloat .f32 fF32 .fma m (.v d) a b)
/-- `vfma.f16` (R113, R114). -/
def execVfmaF16 (m : BMask) (d : VReg) (a : VSrc) (b : VSrc2) (s : State) : Out := .next (s.vfloat .f16 fF16 .fma m (.v d) a b)
/-- `vfma.bf16` (R113, R114). -/
def execVfmaBf16 (m : BMask) (d : VReg) (a : VSrc) (b : VSrc2) (s : State) : Out := .next (s.vfloat .bf16 fBf16 .fma m (.v d) a b)
/-- `vfms.f32` (R113, R114). -/
def execVfmsF32 (m : BMask) (d : VReg) (a : VSrc) (b : VSrc2) (s : State) : Out := .next (s.vfloat .f32 fF32 .fms m (.v d) a b)
/-- `vfms.f16` (R113, R114). -/
def execVfmsF16 (m : BMask) (d : VReg) (a : VSrc) (b : VSrc2) (s : State) : Out := .next (s.vfloat .f16 fF16 .fms m (.v d) a b)
/-- `vfms.bf16` (R113, R114). -/
def execVfmsBf16 (m : BMask) (d : VReg) (a : VSrc) (b : VSrc2) (s : State) : Out := .next (s.vfloat .bf16 fBf16 .fms m (.v d) a b)
/-- `vfnma.f32` (R113, R114). -/
def execVfnmaF32 (m : BMask) (d : VReg) (a : VSrc) (b : VSrc2) (s : State) : Out := .next (s.vfloat .f32 fF32 .fnma m (.v d) a b)
/-- `vfnma.f16` (R113, R114). -/
def execVfnmaF16 (m : BMask) (d : VReg) (a : VSrc) (b : VSrc2) (s : State) : Out := .next (s.vfloat .f16 fF16 .fnma m (.v d) a b)
/-- `vfnma.bf16` (R113, R114). -/
def execVfnmaBf16 (m : BMask) (d : VReg) (a : VSrc) (b : VSrc2) (s : State) : Out := .next (s.vfloat .bf16 fBf16 .fnma m (.v d) a b)
/-- `vfnms.f32` (R113, R114). -/
def execVfnmsF32 (m : BMask) (d : VReg) (a : VSrc) (b : VSrc2) (s : State) : Out := .next (s.vfloat .f32 fF32 .fnms m (.v d) a b)
/-- `vfnms.f16` (R113, R114). -/
def execVfnmsF16 (m : BMask) (d : VReg) (a : VSrc) (b : VSrc2) (s : State) : Out := .next (s.vfloat .f16 fF16 .fnms m (.v d) a b)
/-- `vfnms.bf16` (R113, R114). -/
def execVfnmsBf16 (m : BMask) (d : VReg) (a : VSrc) (b : VSrc2) (s : State) : Out := .next (s.vfloat .bf16 fBf16 .fnms m (.v d) a b)
/-- `vmin.f32` (R115). -/
def execVminF32 (m : BMask) (d : VDst) (a : VSrc) (b : VSrc2) (s : State) : Out := .next (s.vpick .f32 false m d a b)
/-- `vmin.f16` (R115). -/
def execVminF16 (m : BMask) (d : VDst) (a : VSrc) (b : VSrc2) (s : State) : Out := .next (s.vpick .f16 false m d a b)
/-- `vmin.bf16` (R115). -/
def execVminBf16 (m : BMask) (d : VDst) (a : VSrc) (b : VSrc2) (s : State) : Out := .next (s.vpick .bf16 false m d a b)
/-- `vmin.i32` (R115). -/
def execVminI32 (m : BMask) (d : VDst) (a : VSrc) (b : VSrc2) (s : State) : Out := .next (s.vpick .i32 false m d a b)
/-- `vmin.n32` (R115). -/
def execVminN32 (m : BMask) (d : VDst) (a : VSrc) (b : VSrc2) (s : State) : Out := .next (s.vpick .n32 false m d a b)
/-- `vmax.f32` (R115). -/
def execVmaxF32 (m : BMask) (d : VDst) (a : VSrc) (b : VSrc2) (s : State) : Out := .next (s.vpick .f32 true m d a b)
/-- `vmax.f16` (R115). -/
def execVmaxF16 (m : BMask) (d : VDst) (a : VSrc) (b : VSrc2) (s : State) : Out := .next (s.vpick .f16 true m d a b)
/-- `vmax.bf16` (R115). -/
def execVmaxBf16 (m : BMask) (d : VDst) (a : VSrc) (b : VSrc2) (s : State) : Out := .next (s.vpick .bf16 true m d a b)
/-- `vmax.i32` (R115). -/
def execVmaxI32 (m : BMask) (d : VDst) (a : VSrc) (b : VSrc2) (s : State) : Out := .next (s.vpick .i32 true m d a b)
/-- `vmax.n32` (R115). -/
def execVmaxN32 (m : BMask) (d : VDst) (a : VSrc) (b : VSrc2) (s : State) : Out := .next (s.vpick .n32 true m d a b)
/-- `vcmpeq.f32` (R118). -/
def execVcmpeqF32 (m : BMask) (d : VDst) (a : VSrc) (b : VSrc2) (s : State) : Out := .next (s.cmp .f32 m d a b (cmpElem .f32 .eq))
/-- `vcmpeq.f16` (R118). -/
def execVcmpeqF16 (m : BMask) (d : VDst) (a : VSrc) (b : VSrc2) (s : State) : Out := .next (s.cmp .f16 m d a b (cmpElem .f16 .eq))
/-- `vcmpeq.bf16` (R118). -/
def execVcmpeqBf16 (m : BMask) (d : VDst) (a : VSrc) (b : VSrc2) (s : State) : Out := .next (s.cmp .bf16 m d a b (cmpElem .bf16 .eq))
/-- `vcmpeq.i32` (R118). -/
def execVcmpeqI32 (m : BMask) (d : VDst) (a : VSrc) (b : VSrc2) (s : State) : Out := .next (s.cmp .i32 m d a b (cmpElem .i32 .eq))
/-- `vcmpeq.n32` (R118). -/
def execVcmpeqN32 (m : BMask) (d : VDst) (a : VSrc) (b : VSrc2) (s : State) : Out := .next (s.cmp .n32 m d a b (cmpElem .n32 .eq))
/-- `vcmplt.f32` (R118). -/
def execVcmpltF32 (m : BMask) (d : VDst) (a : VSrc) (b : VSrc2) (s : State) : Out := .next (s.cmp .f32 m d a b (cmpElem .f32 .lt))
/-- `vcmplt.f16` (R118). -/
def execVcmpltF16 (m : BMask) (d : VDst) (a : VSrc) (b : VSrc2) (s : State) : Out := .next (s.cmp .f16 m d a b (cmpElem .f16 .lt))
/-- `vcmplt.bf16` (R118). -/
def execVcmpltBf16 (m : BMask) (d : VDst) (a : VSrc) (b : VSrc2) (s : State) : Out := .next (s.cmp .bf16 m d a b (cmpElem .bf16 .lt))
/-- `vcmplt.i32` (R118). -/
def execVcmpltI32 (m : BMask) (d : VDst) (a : VSrc) (b : VSrc2) (s : State) : Out := .next (s.cmp .i32 m d a b (cmpElem .i32 .lt))
/-- `vcmplt.n32` (R118). -/
def execVcmpltN32 (m : BMask) (d : VDst) (a : VSrc) (b : VSrc2) (s : State) : Out := .next (s.cmp .n32 m d a b (cmpElem .n32 .lt))
/-- `vcmple.f32` (R118). -/
def execVcmpleF32 (m : BMask) (d : VDst) (a : VSrc) (b : VSrc2) (s : State) : Out := .next (s.cmp .f32 m d a b (cmpElem .f32 .le))
/-- `vcmple.f16` (R118). -/
def execVcmpleF16 (m : BMask) (d : VDst) (a : VSrc) (b : VSrc2) (s : State) : Out := .next (s.cmp .f16 m d a b (cmpElem .f16 .le))
/-- `vcmple.bf16` (R118). -/
def execVcmpleBf16 (m : BMask) (d : VDst) (a : VSrc) (b : VSrc2) (s : State) : Out := .next (s.cmp .bf16 m d a b (cmpElem .bf16 .le))
/-- `vcmple.i32` (R118). -/
def execVcmpleI32 (m : BMask) (d : VDst) (a : VSrc) (b : VSrc2) (s : State) : Out := .next (s.cmp .i32 m d a b (cmpElem .i32 .le))
/-- `vcmple.n32` (R118). -/
def execVcmpleN32 (m : BMask) (d : VDst) (a : VSrc) (b : VSrc2) (s : State) : Out := .next (s.cmp .n32 m d a b (cmpElem .n32 .le))
/-- `vcmpun.f32` (R118). -/
def execVcmpunF32 (m : BMask) (d : VDst) (a : VSrc) (b : VSrc2) (s : State) : Out := .next (s.cmp .f32 m d a b (cmpElem .f32 .un))
/-- `vcmpun.f16` (R118). -/
def execVcmpunF16 (m : BMask) (d : VDst) (a : VSrc) (b : VSrc2) (s : State) : Out := .next (s.cmp .f16 m d a b (cmpElem .f16 .un))
/-- `vcmpun.bf16` (R118). -/
def execVcmpunBf16 (m : BMask) (d : VDst) (a : VSrc) (b : VSrc2) (s : State) : Out := .next (s.cmp .bf16 m d a b (cmpElem .bf16 .un))
/-- `vsel.i8` (R119). -/
def execVselI8 (m : BMask) (d : VReg) (a : VSrc) (b : VSrc2) (s : State) : Out := .next (s.vsel .i8 m d a b)
/-- `vsel.i16` (R119). -/
def execVselI16 (m : BMask) (d : VReg) (a : VSrc) (b : VSrc2) (s : State) : Out := .next (s.vsel .i16 m d a b)
/-- `vsel.i32` (R119). -/
def execVselI32 (m : BMask) (d : VReg) (a : VSrc) (b : VSrc2) (s : State) : Out := .next (s.vsel .i32 m d a b)
/-- `vsel.i64` (R119). -/
def execVselI64 (m : BMask) (d : VReg) (a : VSrc) (b : VSrc2) (s : State) : Out := .next (s.vsel .i64 m d a b)
/-- `vand` (R121). -/
def execVand (m : BMask) (d : VDst) (a : VSrc) (b : VSrc2) (s : State) : Out := .next (s.vbits .i32 (· &&& ·) m d a b)
/-- `vor` (R121). -/
def execVor (m : BMask) (d : VDst) (a : VSrc) (b : VSrc2) (s : State) : Out := .next (s.vbits .i32 (· ||| ·) m d a b)
/-- `vxor` (R121). -/
def execVxor (m : BMask) (d : VDst) (a : VSrc) (b : VSrc2) (s : State) : Out := .next (s.vbits .i32 (· ^^^ ·) m d a b)
/-- `vshl.i32` (R122). -/
def execVshlI32 (m : BMask) (d : VDst) (a : VSrc) (b : VSrc2) (s : State) : Out := .next (s.vbits .i32 (shlElem 32) m d a b)
/-- `vshl.i64` (R122). -/
def execVshlI64 (m : BMask) (d : VDst) (a : VSrc) (b : VSrc2) (s : State) : Out := .next (s.vbits .i64 (shlElem 64) m d a b)
/-- `vshr.i32` (R122). -/
def execVshrI32 (m : BMask) (d : VDst) (a : VSrc) (b : VSrc2) (s : State) : Out := .next (s.vbits .i32 (shrElem 32) m d a b)
/-- `vshr.i64` (R122). -/
def execVshrI64 (m : BMask) (d : VDst) (a : VSrc) (b : VSrc2) (s : State) : Out := .next (s.vbits .i64 (shrElem 64) m d a b)
/-- `vsra.i32` (R122). -/
def execVsraI32 (m : BMask) (d : VDst) (a : VSrc) (b : VSrc2) (s : State) : Out := .next (s.vbits .i32 (sraElem 32) m d a b)
/-- `vsra.i64` (R122). -/
def execVsraI64 (m : BMask) (d : VDst) (a : VSrc) (b : VSrc2) (s : State) : Out := .next (s.vbits .i64 (sraElem 64) m d a b)
/-- `vmulh.i32` (R123). -/
def execVmulhI32 (m : BMask) (d : VDst) (a : VSrc) (b : VSrc2) (s : State) : Out := .next (s.vmulh .i32 m d a b)
/-- `vmulh.n32` (R123). -/
def execVmulhN32 (m : BMask) (d : VDst) (a : VSrc) (b : VSrc2) (s : State) : Out := .next (s.vmulh .n32 m d a b)
/-- `vmulh.i16` (R123). -/
def execVmulhI16 (m : BMask) (d : VDst) (a : VSrc) (b : VSrc2) (s : State) : Out := .next (s.vmulh .i16 m d a b)
/-- `vmulh.n16` (R123). -/
def execVmulhN16 (m : BMask) (d : VDst) (a : VSrc) (b : VSrc2) (s : State) : Out := .next (s.vmulh .n16 m d a b)
/-- `vpadd.l8e4` (R124). -/
def execVpaddL8e4 (m : BMask) (d : VDst) (a : VSrc) (b : VSrc2) (s : State) : Out := .next (s.vpacked .l8e4 false false m d a b)
/-- `vpadd.l8e5` (R124). -/
def execVpaddL8e5 (m : BMask) (d : VDst) (a : VSrc) (b : VSrc2) (s : State) : Out := .next (s.vpacked .l8e5 false false m d a b)
/-- `vpadd.l8e4.nan` (R124). -/
def execVpaddL8e4Nan (m : BMask) (d : VDst) (a : VSrc) (b : VSrc2) (s : State) : Out := .next (s.vpacked .l8e4 false true m d a b)
/-- `vpadd.l8e5.nan` (R124). -/
def execVpaddL8e5Nan (m : BMask) (d : VDst) (a : VSrc) (b : VSrc2) (s : State) : Out := .next (s.vpacked .l8e5 false true m d a b)
/-- `vpadd.i8` (R124). -/
def execVpaddI8 (m : BMask) (d : VDst) (a : VSrc) (b : VSrc2) (s : State) : Out := .next (s.vpacked .i8 false false m d a b)
/-- `vpadd.n8` (R124). -/
def execVpaddN8 (m : BMask) (d : VDst) (a : VSrc) (b : VSrc2) (s : State) : Out := .next (s.vpacked .n8 false false m d a b)
/-- `vpmul.l8e4` (R124). -/
def execVpmulL8e4 (m : BMask) (d : VDst) (a : VSrc) (b : VSrc2) (s : State) : Out := .next (s.vpacked .l8e4 true false m d a b)
/-- `vpmul.l8e5` (R124). -/
def execVpmulL8e5 (m : BMask) (d : VDst) (a : VSrc) (b : VSrc2) (s : State) : Out := .next (s.vpacked .l8e5 true false m d a b)
/-- `vpmul.l8e4.nan` (R124). -/
def execVpmulL8e4Nan (m : BMask) (d : VDst) (a : VSrc) (b : VSrc2) (s : State) : Out := .next (s.vpacked .l8e4 true true m d a b)
/-- `vpmul.l8e5.nan` (R124). -/
def execVpmulL8e5Nan (m : BMask) (d : VDst) (a : VSrc) (b : VSrc2) (s : State) : Out := .next (s.vpacked .l8e5 true true m d a b)
/-- `vpmul.i8` (R124). -/
def execVpmulI8 (m : BMask) (d : VDst) (a : VSrc) (b : VSrc2) (s : State) : Out := .next (s.vpacked .i8 true false m d a b)
/-- `vpmul.n8` (R124). -/
def execVpmulN8 (m : BMask) (d : VDst) (a : VSrc) (b : VSrc2) (s : State) : Out := .next (s.vpacked .n8 true false m d a b)
/-- `vmix` (R139). -/
def execVmix (m : BMask) (d : VDst) (a : VSrc) (b : VSrc2) (s : State) : Out := .next (s.br .n32 m d a b fun _ x y => (mix x y, 0))
/-- `vtemp.f32` (R132). -/
def execVtempF32 (m : BMask) (d : VDst) (a : VSrc) (b : VSrc2) (s : State) : Out := .next (s.vtemp .f32 fF32 m d a b)
/-- `vtemp.f16` (R132). -/
def execVtempF16 (m : BMask) (d : VDst) (a : VSrc) (b : VSrc2) (s : State) : Out := .next (s.vtemp .f16 fF16 m d a b)
/-- `vtemp.bf16` (R132). -/
def execVtempBf16 (m : BMask) (d : VDst) (a : VSrc) (b : VSrc2) (s : State) : Out := .next (s.vtemp .bf16 fBf16 m d a b)
/-- `vrcpr` (R131). -/
def execVrcpr (m : BMask) (d : VDst) (a : VSrc) (b : VSrc2) (s : State) : Out := .next (s.br .f32 m d a b fun _ x y => refineElem false x y)
/-- `vrsqr` (R131). -/
def execVrsqr (m : BMask) (d : VDst) (a : VSrc) (b : VSrc2) (s : State) : Out := .next (s.br .f32 m d a b fun _ x y => refineElem true x y)
/-- `vperm.i8` (R135). -/
def execVpermI8 (m : BMask) (d : VDst) (a : VSrc) (b : VSrc2) (s : State) : Out := .next (s.vperm .i8 m d a b)
/-- `vperm.i16` (R135). -/
def execVpermI16 (m : BMask) (d : VDst) (a : VSrc) (b : VSrc2) (s : State) : Out := .next (s.vperm .i16 m d a b)
/-- `vperm.i32` (R135). -/
def execVpermI32 (m : BMask) (d : VDst) (a : VSrc) (b : VSrc2) (s : State) : Out := .next (s.vperm .i32 m d a b)
/-- `vperm.i64` (R135). -/
def execVpermI64 (m : BMask) (d : VDst) (a : VSrc) (b : VSrc2) (s : State) : Out := .next (s.vperm .i64 m d a b)
/-- `vmerge.i32` (R135). -/
def execVmergeI32 (m : BMask) (d : VDst) (a : VSrc) (b : VSrc2) (s : State) : Out := .next (s.vmerge .i32 m d a b)
/-- `vmerge.i64` (R135). -/
def execVmergeI64 (m : BMask) (d : VDst) (a : VSrc) (b : VSrc2) (s : State) : Out := .next (s.vmerge .i64 m d a b)

end Sys2Proof.Machine
end

