-- ==== Sys2Proof/Machine/Tarn.lean ====
section
/-! DEFINITION. Tarn arrays: graph images and their checks (R277 to R280), units (R278, R279), beats and the permute unit (R280), the fixed graphs (R276, R284), and commands (R285 to R287). -/
namespace Sys2Proof.Machine

/-- Word i of a graph image. -/
def imgWord (img : List Byte) (i : Nat) : W64 := w64 (leNat ((img.drop (8 * i)).take 8))
/-- The word of unit n = 8 * stage + index (R277). -/
def imgUnit (img : List Byte) (n : Nat) : W64 := imgWord img (8 + n)
/-- DEPTH: the last stage. -/
def gDepth (img : List Byte) : Nat := bitsN (imgWord img 0) 58 56
/-- OUTB. -/
def gOutb (img : List Byte) : Nat := bitsN (imgWord img 0) 55 48
/-- NTAB. -/
def gNtab (img : List Byte) : Nat := bitsN (imgWord img 0) 43 41
/-- DEL. -/
def gDel (img : List Byte) : Bool := (imgWord img 0).getLsbD 40
/-- MUNIT. -/
def gMunit (img : List Byte) : Nat := bitsN (imgWord img 0) 39 34
/-- PEN. -/
def gPen (img : List Byte) : Bool := (imgWord img 2).getLsbD 63
/-- W, the permute window in bytes (R280). -/
def gWin (img : List Byte) : Nat := 2 ^ (6 + bitsN (imgWord img 0) 47 44)
/-- Output pieces in use: unit and bytes (R277). -/
def gOuts (img : List Byte) : List (Nat × Nat) :=
  ((List.range 4).map fun i => (bitsN (imgWord img 1) (16 * i + 15) (16 * i + 10), bitsN (imgWord img 1) (16 * i + 7) (16 * i))).filter fun p => p.2 != 0
/-- Bytes of an image with NTAB tables (R277). -/
def gSize (ntab : Nat) : Nat := 576 + 256 * ntab

/-- Is a type one of f32, f16 and bf16 (R279)? -/
def ieeeTy (t : ETy) : Bool := match t.float? with | some f => f.ieee | none => false

/-- Does a unit word break R278 or R279, in a stage up to DEPTH? An all-zero word is OFF (log entry 26). -/
def unitBad (ntab stage : Nat) (u : W64) : Bool :=
  let op := bitsN u 63 60
  let src (c : Nat) : Bool := decide (12 ≤ c) || (decide (c < 8) && stage == 0)
  u != 0 && (src (bitsN u 51 48) || src (bitsN u 47 44) ||
    ((decide (12 < op) || decide (4 < bitsN u 43 41) || (op != 7 && bitsN u 55 52 != 0) ||
      (match etyOf (bitsN u 59 56) with
        | none => true
        | some t =>
          let p := bitsN u 39 32
          match op with
          | 2 => t.float?.isSome && !ieeeTy t
          | 3 => t.float?.isSome && !ieeeTy t
          | 4 => t.float?.isSome && !ieeeTy t
          | 5 => !ieeeTy t
          | 6 => decide (5 < p)
          | 7 => (match etyOf (bitsN u 55 52) with
            | none => true
            | some d => u.getLsbD 40 && (d.float?.isNone || ieeeTy d))
          | 8 => t.float?.isSome || decide (192 ≤ p)
          | 10 => decide (ntab ≤ p % 8)
          | 11 => decide (p < 128) && decide (512 / t.width < 2 ^ (p % 16))
          | 12 => decide (512 / t.width < 2 ^ (p % 16))
          | _ => false))))

/-- Does a header break R277 or R280? -/
def headerBad (img : List Byte) : Bool :=
  let w0 := imgWord img 0
  let w1 := imgWord img 1
  let w2 := imgWord img 2
  let ob := gOutb img
  let n := 6 + bitsN w0 47 44 - bitsN w2 61 60
  let nib (b : Nat) : Nat := bitsN w2 (4 * b + 3) (4 * b)
  bitsN w0 63 59 != 0 || bitsN w0 33 6 != 0 || w2.getLsbD 62 || bitsN w2 59 48 != 0 ||
    ((List.range 5).any fun i => imgWord img (3 + i) != 0) ||
    decide (ob < 4) || decide (128 < ob) || ob % 4 != 0 || decide (6 < bitsN w0 47 44) || decide (4 < gNtab img) ||
    ((List.range 4).any fun i => bitsN w1 (16 * i + 9) (16 * i + 8) != 0) ||
    ((gOuts img).any fun p => p.2 % 4 != 0 || decide (64 < p.2) || p.1 / 8 != gDepth img) ||
    ((gOuts img).map Prod.snd).sum != ob ||
    (gPen img && !((List.range n).all (fun i => (List.range n).any fun b => nib b == i) && (List.range 12).all fun b => decide (b < n) || nib b == 0)) ||
    (if gDel img then
      decide (gDepth img < gMunit img / 8) || bitsN (imgUnit img (gMunit img)) 63 60 != 11 || !(imgUnit img (gMunit img)).getLsbD 39
    else gMunit img != 0)

/-- A graph image without the owner that its slot records, which an image ignores (R277, R282). -/
def unowned : List Byte → List Byte
  | b :: bs => (b &&& 0xC0) :: bs
  | [] => []

/-- Is an image malformed (R280)? -/
def imageMalformed (img : List Byte) : Bool :=
  headerBad img || (List.range 64).any fun i =>
    if i / 8 ≤ gDepth img then unitBad (gNtab img) (i / 8) (imgUnit img i) else imgUnit img i != 0

/-- Does some unit of a graph name OLD (R282)? -/
def namesOld (img : List Byte) : Bool :=
  (List.range 64).any fun i => imgUnit img i != 0 && (bitsN (imgUnit img i) 51 48 == 9 || bitsN (imgUnit img i) 47 44 == 9)

/-- Rounding of a unit: RND 0 is RNE (R278). -/
def unitRm (u : W64) : Nat := bitsN u 43 41 - 1

/-- CMP of R279 on two elements. -/
def cmpUnit (t : ETy) (p : Nat) (nanm : Bool) (x y : Nat) : Nat :=
  let mask (c : Bool) : Nat := if c then 2 ^ t.width - 1 else 0
  match p with
  | 0 => mask (cmpElem t .eq x y).1
  | 1 => mask (cmpElem t .lt x y).1
  | 2 => mask (cmpElem t .le x y).1
  | 3 => pickElem t true x y
  | 4 => pickElem t false x y
  | _ => absDiff t nanm x y

/-- ADD, SUB, MUL and DIV of R279 on two elements. -/
def arithUnit (t : ETy) (op rm x y : Nat) : Nat :=
  match t.float? with
  | some f =>
    match op with
    | 2 => (f.op .add rm 0 x y).1
    | 3 => (f.op .sub rm 0 x y).1
    | 4 => (f.op .mul rm 0 x y).1
    | _ => match f.dec x, f.dec y with
      | .num s m _, .num d 0 _ => if m = 0 then f.nan else f.inf (s != d)
      | .num s _ _, .inf d => f.zero (s != d)
      | .inf _, .inf _ => f.nan
      | a, b => (fvDiv rm f a b).1
  | none => ofSigned t.width (match op with
    | 2 => t.ival x + t.ival y
    | 3 => t.ival x - t.ival y
    | _ => t.ival x * t.ival y)

/-- The output of a unit of type t on 512-bit inputs (R279); `c` is its CONST, `tab` its lookup table. -/
def unitOut (t : ETy) (u : W64) (tab : List Byte) (a b c : V512) : V512 :=
  let w := t.width
  let n := 512 / w
  let p := bitsN u 39 32
  let nanm := u.getLsbD 40
  let xs := elems512 w a
  let ys := elems512 w b
  let each (f : Nat → Nat → Nat) : V512 := pack512 w (List.zipWith f xs ys)
  match bitsN u 63 60 with
  | 0 => 0
  | 1 => a
  | 6 => each (cmpUnit t p nanm)
  | 7 => match etyOf (bitsN u 55 52) with
    | none => 0
    | some d => pack512 d.width ((xs.take (512 / Nat.max w d.width)).map fun x => (convert t d (unitRm u) nanm x).1)
  | 8 =>
    let k := p % 64
    pack512 w (xs.map fun x => match p / 64 with
      | 0 => x <<< k
      | 1 => x >>> k
      | _ => ofSigned w (toSigned w x / (2 ^ k : Nat)))
  | 9 => pack512 w (List.zipWith (fun xy z => if xy.2 = 0 then z else xy.1) (xs.zip ys) (elems512 w c))
  | 10 => v512 ((leBytes 64 a.toNat).map fun x => tab.getD x.toNat 0)
  | 11 =>
    if 128 ≤ p then a
    else
      let k := 2 ^ (p % 16)
      pack512 w ((List.range (n / k)).map fun g => ((xs.drop (g * k)).take k).foldl (fun m x => max m (magElem t x)) 0)
  | 12 => pack512 w ((List.range n).map fun i => xs.getD (i / 2 ^ (p % 16)) 0)
  | o => each (arithUnit t o (unitRm u))

/-- Unit i of a stage (R278, R279): its inputs are outputs of the stage before, IN, OLD, CONST or zero. -/
def runUnit (img : List Byte) (stage i : Nat) (prev : List V512) (inp old : V512) : V512 :=
  let u := imgUnit img (8 * stage + i)
  match etyOf (bitsN u 59 56) with
  | none => 0
  | some t =>
    let c := splat t.width (scalarAs t (unitRm u) (u.getLsbD 40) (u.setWidth 32)).1
    let src (k : Nat) : V512 := if k < 8 then prev.getD k 0 else if k = 8 then inp else if k = 9 then old else if k = 10 then c else 0
    unitOut t u ((img.drop (576 + 256 * (bitsN u 34 32))).take 256) (src (bitsN u 51 48)) (src (bitsN u 47 44)) c

/-- Outputs of all units of stages 0 to n - 1, the last stage first. -/
def runStages (img : List Byte) (inp old : V512) : Nat → List (List V512)
  | 0 => []
  | n + 1 =>
    let r := runStages img inp old n
    ((List.range 8).map fun i => runUnit img n i (r.headD []) inp old) :: r

/-- One beat (R280): its output bytes and its measure. -/
def runBeat (img : List Byte) (inp old : V512) : List Byte × W32 :=
  let d := gDepth img
  let r := runStages img inp old (d + 1)
  let out := (gOuts img).flatMap fun p => (leBytes 64 ((r.headD []).getD (p.1 % 8) 0).toNat).take p.2
  let m := gMunit img
  let meas := if gDel img then
    (match etyOf (bitsN (imgUnit img m) 59 56) with
      | some t => measureOf t ((r.getD (d - m / 8) []).getD (m % 8) 0)
      | none => 0) else 0
  (out, meas)

/-- Where byte p of a transformed row goes (R280). -/
def permuteTo (img : List Byte) (p : Nat) : Nat :=
  if gPen img then
    let w2 := imgWord img 2
    let g := 2 ^ bitsN w2 61 60
    let n := 6 + bitsN (imgWord img 0) 47 44 - bitsN w2 61 60
    let j := p % gWin img / g
    let j' := ((List.range n).map fun b => (j >>> bitsN w2 (4 * b + 3) (4 * b)) % 2 * 2 ^ b).sum
    p / gWin img * gWin img + j' * g + p % g
  else p

/-- A unit word of a fixed graph: OP, TYPE, SRCA, SRCB, PARAM. -/
def fixedUnit (op t a b p : Nat) : Nat := op * 2 ^ 60 + t * 2 ^ 56 + a * 2 ^ 48 + b * 2 ^ 44 + p * 2 ^ 32

/-- The image of the fixed graph in slot 1, 2 or 3, DELTA of type code t (R276, R284). -/
def deltaImage (t : Nat) : List Byte :=
  let word (i : Nat) : Nat :=
    match i with
    | 0 => 2 ^ 56 + 64 * 2 ^ 48 + 2 ^ 40 + 9 * 2 ^ 34
    | 1 => 8 * 1024 + 64
    | 8 => fixedUnit 1 t 8 11 0
    | 9 => fixedUnit 6 t 8 9 5
    | 16 => fixedUnit 1 t 0 11 0
    | 17 => fixedUnit 11 t 1 11 0x80
    | _ => 0
  (List.range 72).flatMap fun i => leBytes 8 (word i)

/-- What a slot of an array holds: a fixed graph in slots 1 to 3, else what was loaded (R276). Slot 0 is the identity and needs no image. -/
def State.tarnSlot (s : State) (d key : Nat) : Option TarnSlot :=
  match key % 16 with
  | 0 => some ⟨0x3F, leBytes 16 (64 * 2 ^ 48 + 64 * 2 ^ 64) ++ List.replicate 560 0, 0⟩
  | 1 => some ⟨0x3F, deltaImage 1, 0⟩
  | 2 => some ⟨0x3F, deltaImage 2, 0⟩
  | 3 => some ⟨0x3F, deltaImage 0, 0⟩
  | _ => kget none (s.die d).tarn key

/-- Writes a slot that can be loaded. -/
def State.setTarnSlot (s : State) (d key : Nat) (x : Option TarnSlot) : State :=
  if key % 16 < 4 then s else s.setDie d { s.die d with tarn := kset none (s.die d).tarn key x }

/-- Adds to the holds of a slot (R282). -/
def State.holdSlot (s : State) (up : Bool) (p : Nat × Nat) : State :=
  match s.tarnSlot p.1 p.2 with
  | some x => s.setTarnSlot p.1 p.2 (some { x with holds := if up then x.holds + 1 else x.holds - 1 })
  | none => s

/-- Does an engine selector break its layout (R285)? -/
def selBad (x : W64) : Bool :=
  bitsN x 63 62 != 1 || bitsN x 61 16 != 0 || bitsN x 13 12 != 0 || bitsN x 7 0 != 0 || decide (11 < bitsN x 11 8)

/-- The first word of a Tarn command that fails its checks (R286). -/
def tarnBad (w : Vector W64 4) (ctlM user : Bool) : Option W64 :=
  let op := bitsN w[0] 63 60
  if op = 0 ∨ 3 < op ∨ bitsN w[0] 59 14 ≠ 0 ∨ bitsN w[0] 7 4 ≠ 0 ∨ (user ∧ op ≠ 3) ∨ (bitsN w[0] 13 8 ≠ 0 ∧ !(ctlM ∧ op = 1)) then some w[0]
  else if (if op = 1 then bitsN w[1] 5 0 ≠ 0 else w[1] ≠ 0) then some w[1]
  else if w[2] ≠ 0 then some w[2]
  else if w[3] ≠ 0 then some w[3] else none

/-- Four words from a group of g registers. -/
def State.group (s : State) (a : GReg) : Vector W64 4 := Vector.ofFn fun (i : Fin 4) => s.g (a + BitVec.ofNat 5 i.val)

/-- Units of the own pool that user mode may reach (R192). -/
def State.ownUnits (s : State) : List Nat := (List.range 64).filter fun u => s.localOk { s.me with mode := 0 } (4096 * u) 4096

/-- May an engine reach n bytes at an address for a hart: in the hart's own pool user mode stays in the units its share held at the push, supervisor mode outside vector backing and accumulators (R192)? -/
def State.engAllowed (s : State) (hart mode : Nat) (share : List Nat) (a : W64) (n : Nat) : Bool :=
  let us := unitsOf (bitsN a 17 0) n
  !a.getLsbD 63 || coreMalformed a || !isLocal hart a || mode == 3 ||
    (if mode = 0 then us.all share.contains
     else us.all fun v => match kget UnitUse.free (s.core (coreOf hart)).units v with | .backing _ => false | _ => true)

/-- `engpush` (R285, R286): at most 8 commands of a hart are outstanding. -/
def execEngpush (c : Scope) (a b : GReg) (s : State) : Out :=
  let sel := s.g b
  let w := s.group a
  .next (if selBad sel then s.trapA ⟨2, sel, 0⟩
    else match tarnBad w (s.ctl && s.hart.priv == 3) (s.hart.priv == 0) with
      | some x => s.trapA ⟨2, x, 0⟩
      | none => s.whenReleased c fun s =>
        if 8 ≤ s.hart.tarnOut + s.hart.tarnRes.length then s.waitA .other
        else
          let d := bitsN sel 15 14
          let x := s.die d
          let q : TarnCmd := ⟨sel, w, s.hid, BitVec.ofNat 2 s.hart.priv, s.part, true⟩
          ((s.setDie d { x with tarnq := x.tarnq ++ [q] }).mapHart fun h => { h with tarnOut := h.tarnOut + 1 }).retire)

/-- Has a hart a command under way at an array? -/
def State.tarnFlying (s : State) (id : Nat) (sel : W64) : Bool :=
  (s.die (bitsN sel 15 14)).tarnq.any fun c => c.hart == id && c.owed && c.sel == sel

/-- `engpop` (R285): the oldest result of the array, 0 with nothing outstanding there. -/
def execEngpop (d b : GReg) (s : State) : Out :=
  let sel := s.g b
  .next (if selBad sel then s.trapA ⟨2, sel, 0⟩
    else s.whenRetired fun s =>
      match s.hart.tarnRes.find? (·.1 == sel) with
      | some (_, v) => (s.mapHart fun h => { h with tarnRes := removeFirst (·.1 == sel) h.tarnRes }).retireG d v
      | none => if s.tarnFlying s.hid sel then s.waitA .other else s.retireG d 0)

/-- What the reads of a graph image leave (R203, R207). -/
def State.imageSeen (s : State) (part : Nat) (a : W64) : State :=
  let n := match s.superRead part a 64 with | .ok bs => gSize (min 4 (gNtab bs)) / 64 | .error _ => 1
  (List.range n).foldl (fun t i => t.superSeen part (a + w64 (64 * i)) 64) s

/-- A graph image read as a supervisor, line by line (R287); `none` where a line cannot be read. -/
def State.readImage (s : State) (part : Nat) (a : W64) : Option (List Byte) :=
  let line (i : Nat) : Option (List Byte) := match s.superRead part (a + w64 (64 * i)) 64 with | .ok bs => some bs | .error _ => none
  match line 0 with
  | none => none
  | some l0 =>
    let n := gSize (min 4 (gNtab l0)) / 64
    ((List.range n).foldr (fun i acc => match line i, acc with | some x, some y => some (x ++ y) | _, _ => none) (some []))

/-- A result element of a Tarn command (R286). -/
def tarnElem (status hdr : Nat) : W64 := w64 (2 ^ 63 + status * 2 ^ 60 + hdr % 2 ^ 59)

/-- What a Tarn command does: the slot's new contents, if it changes, and the result (R286, R287). -/
def State.tarnDo (s : State) (c : TarnCmd) : Option (Option TarnSlot) × W64 :=
  let op := bitsN c.w[0] 63 60
  let d := bitsN c.sel 15 14
  let key := 16 * bitsN c.sel 11 8 + bitsN c.w[0] 3 0
  let cur := s.tarnSlot d key
  let machine := isControl c.hart && c.mode == 3
  if op = 3 then
    match cur with
    | none => (none, tarnElem 6 0)
    | some x => (none, tarnElem 0 (bitsN (imgWord x.image 0) 58 6 * 64 + x.owner))
  else if key % 16 < 4 then (none, tarnElem 1 0)
  else if (match cur with | some x => x.owner != c.part && !machine | none => false) then (none, tarnElem 2 0)
  else if (match cur with | some x => x.holds != 0 | none => false) then (none, tarnElem 3 0)
  else if op = 2 then
    match cur with
    | none => (none, tarnElem 6 0)
    | some _ => (some none, tarnElem 0 0)
  else match s.readImage c.part c.w[1] with
    | none => (none, tarnElem 4 0)
    | some img => if imageMalformed img then (none, tarnElem 5 0)
      else (some (some ⟨if machine then bitsN c.w[0] 13 8 else c.part, img, 0⟩), tarnElem 0 0)

/-- A command of a die's queue is performed and its element returns to its hart (R285). -/
def State.tarnRun (s : State) (d : Nat) (c : TarnCmd) : State :=
  let r := s.tarnDo c
  let s0 := if bitsN c.w[0] 63 60 = 1 then s.imageSeen c.part c.w[1] else s
  let s1 := s0.setDie d { s0.die d with tarnq := removeFirst (· == c) (s0.die d).tarnq }
  let s2 := match r.1 with
    | some x => s1.setTarnSlot d (16 * bitsN c.sel 11 8 + bitsN c.w[0] 3 0) x
    | none => s1
  if c.owed then
    let h := s2.getHart c.hart
    s2.setHart c.hart { h with tarnOut := h.tarnOut - 1, tarnRes := h.tarnRes ++ [(c.sel, r.2)], aStall := none }
  else s2

/-- The first command of a hart at some array that is the next of its array (R285), if it has the OP given. -/
def State.tarnNext (s : State) (hart op : Nat) : Option (Nat × TarnCmd) :=
  (List.range 4).findSome? fun d =>
    let q := (s.die d).tarnq
    (q.zipIdx.find? fun p => p.1.hart == hart && bitsN p.1.w[0] 63 60 == op && !(q.take p.2).any fun c => c.sel == p.1.sel).map fun p => (d, p.1)

/-- A step of a Tarn array for a hart's command of a kind. -/
def State.tarnStep (s : State) (hart op : Nat) : State :=
  match s.tarnNext hart op with
  | some (d, c) => s.tarnRun d c
  | none => s

/-- TARN_LOAD (R287). -/
def execTarnLoad (hart : Nat) (s : State) : Out := .next (s.tarnStep hart 1)
/-- TARN_UNLOAD (R287). -/
def execTarnUnload (hart : Nat) (s : State) : Out := .next (s.tarnStep hart 2)
/-- TARN_QUERY (R286). -/
def execTarnQuery (hart : Nat) (s : State) : Out := .next (s.tarnStep hart 3)

end Sys2Proof.Machine
end

