-- ==== Sys2Proof/Machine/Copy.lean ====
section
/-! DEFINITION. The copy engine (R267 to R275): requests and their checks, the FIFO of a core, the binding of Tarn graphs (R281, R282), rows and their packets (R270, R271, R273, R280, R283), completion (R218, R272). -/
namespace Sys2Proof.Machine

/-- ROWLEN (R268). -/
def CopyReq.rowlen (q : CopyReq) : Nat := bitsN q.w[2] 63 40
/-- Rows: NROWS + 1 (R268). -/
def CopyReq.nrows (q : CopyReq) : Nat := bitsN q.w[2] 39 34 + 1
/-- Address of row r of the source (R268). -/
def CopyReq.src (q : CopyReq) (r : Nat) : W64 := q.w[0] + w64 (64 * r * bitsN q.w[2] 33 22)
/-- Address of row r of the destination (R268). -/
def CopyReq.dst (q : CopyReq) (r : Nat) : W64 := q.w[1] + w64 (64 * r * bitsN q.w[2] 21 10)
/-- GSEL (R268). -/
def CopyReq.gsel (q : CopyReq) : Nat := bitsN q.w[2] 9 6
/-- TEN (R268). -/
def CopyReq.ten (q : CopyReq) : Bool := q.w[2].getLsbD 5
/-- GSIDE (R268). -/
def CopyReq.gside (q : CopyReq) : Nat := bitsN q.w[3] 62 61
/-- Counter address: W3 with [62:56] and [2:0] cleared; 0 is no counter (R268). -/
def CopyReq.ctr (q : CopyReq) : W64 := putBits (putBits q.w[3] 62 56 0) 2 0 0
/-- The engine as a requester for a command: the pushing hart's mode and partition (R205, R218). -/
def CopyReq.who (q : CopyReq) : Req := ⟨q.hart, q.mode.toNat, q.part, true⟩

/-- Does an address break R190? -/
def addrBad (a : W64) : Bool := if a.getLsbD 63 then coreMalformed a else bitsN a 62 56 != 0

/-- The first word of a copy request that fails the field checks of R269: rows 1 to 3 of its table, in order. -/
def copyBad (w : Vector W64 4) : Option W64 :=
  let q : CopyReq := ⟨w, 0, 0, 0, false, []⟩
  if q.rowlen = 0 ∨ (q.gsel ≠ 0 ∧ q.gside = 0) ∨ (bitsN w[2] 4 0 ≠ 0 ∧ q.ten = false) then some w[2]
  else if bitsN w[3] 1 0 ≠ 0 ∨ q.gside = 3 ∨ (w[3].getLsbD 63 = true ∧ bitsN w[3] 55 33 ≠ 0) then some w[3]
  else if q.ten = true ∧ w[1].getLsbD 63 = false then some w[1]
  else if addrBad w[0] then some w[0]
  else if addrBad w[1] then some w[1]
  else if addrBad q.ctr then some w[3] else none

/-- Address and length of every part of a request's rows and of its counter that lies in core space (R269). -/
def CopyReq.coreParts (q : CopyReq) : List (W64 × Nat) :=
  let rows (f : Nat → W64) : List (W64 × Nat) :=
    if (f 0).getLsbD 63 then (List.range q.nrows).flatMap fun r => (cutAt (f r) q.rowlen 4096).map fun p => (f r + w64 p.1, p.2) else []
  rows q.src ++ rows q.dst ++ (if q.ctr.getLsbD 63 then [(q.ctr, 8)] else [])

/-- The trap of a copy request, by the checks of R269 in their order. -/
def State.copyCheck (s : State) (w : Vector W64 4) : Option Exn :=
  let q : CopyReq := ⟨w, s.hid, 0, 0, false, []⟩
  match copyBad w with
  | some x => some ⟨0x17, x, 0⟩
  | none =>
    let foreign (p : W64 × Nat) : Bool :=
      coreMalformed p.1 || (s.ctl && p.1.getLsbD 32) || s.gpart (coreNamed s.hid p.1 / 8) != s.part
    match q.coreParts.find? foreign with
    | some p => some ⟨5, 0, p.1⟩
    | none =>
      (q.coreParts.findSome? fun p =>
        if isLocal s.hid p.1 && !s.localOk s.me (bitsN p.1 17 0) p.2 then
          (lowest p.2 fun i => !s.localOk s.me (bitsN p.1 17 0 + i) 1).map fun i => p.1 + w64 i
        else none).map fun a => ⟨5, 0, a⟩

/-- Pushes a request as a release (R217, R274); requests enter the FIFO in order (R267). -/
def State.copyPush (s : State) (sc : Scope) (w : Vector W64 4) (done : State → State) : State :=
  s.whenReleased sc fun s =>
    let c := coreIx s.hid
    let x := s.core c
    done ((s.setCore c { x with fifo := x.fifo ++ [⟨w, s.hid, BitVec.ofNat 2 s.hart.priv, s.part, true, s.ownUnits⟩] }).mapHart (·.capCount 8))

/-- Is the core's FIFO of 16 requests full (R267)? -/
def State.copyFull (s : State) : Bool := decide (16 ≤ (s.core (coreIx s.hid)).fifo.length)

/-- `cpy` (R274): waits while the FIFO is full. -/
def execCpy (c : Scope) (a : GReg) (s : State) : Out :=
  .next (match s.copyCheck (s.group a) with
    | some e => s.trapA e
    | none => if s.copyFull then s.waitA .other else s.copyPush c (s.group a) State.retire)

/-- `cpynb` (R274): answers 1 while the FIFO is full. -/
def execCpynb (c : Scope) (d a : GReg) (s : State) : Out :=
  .next (match s.copyCheck (s.group a) with
    | some e => s.trapA e
    | none => if s.copyFull then s.retireG d 1 else s.copyPush c (s.group a) (·.retireG d 0))

/-- What an access of an engine answers: bytes, a failure with its ERR bits from bit 56 on (R271), or a wait. -/
inductive EngAns where
  | ok (bs : List Byte) (s : State)
  | fail (bits : Nat) (s : State)
  | wait (w : Held)

/-- A read by an engine: full-empty bits are ignored (R270). A walk that meets an uncorrectable entry is a data error, and so is what another device finds uncorrectable (R343); a line that no port delivers is refused with bit 56 (R358). -/
def State.engRead (s : State) (rq : Req) (a : W64) (n : Nat) : EngAns :=
  match s.access rq a n .read with
  | .trap e => .fail (if e.cause = 8 then 2 else 4) (s.walked rq.part a)
  | .wait => .wait ⟨rq, a, n, .read⟩
  | .ok (.mem k) _ => let t := (s.count k n).adFor rq a .read
    if s.badIn k n then .fail 2 (t.retireBad k n) else .ok (s.rdBytes k n) t
  | .ok (.reg _) _ => .fail 4 s
  | .ok (.remote _ _) _ =>
    let (f, s1) := s.nextFv
    if Config.remoteAccepts f then (if Config.remoteBad f then .fail 2 (s1.adFor rq a .read) else .ok (remoteBytes f n) (s1.adFor rq a .read)) else .fail (if Config.portDelivers f then 4 else 1) s1

/-- A write by an engine, which sets the granules of a pool full (R193, R270). -/
def State.engWrite (s : State) (rq : Req) (a : W64) (bs : List Byte) : EngAns :=
  match s.access rq a bs.length .write with
  | .trap e => .fail (if e.cause = 8 then 2 else 1) (s.walked rq.part a)
  | .wait => .wait ⟨rq, a, bs.length, .write⟩
  | .ok (.mem k) _ =>
    if s.badPart k bs.length then .fail 2 (((s.count k bs.length).adFor rq a .write).retireBad k bs.length) else .ok [] ((s.storeAt (.mem k) bs true).adFor rq a .write)
  | .ok (.reg _) _ => .fail 1 s
  | .ok (.remote _ _) _ =>
    let (f, s1) := s.nextFv
    if Config.remoteAccepts f then .ok [] (s1.adFor rq a .write) else .fail 1 s1

/-- An atomic update by an engine of n bytes; `maxu` marks the measure, which a path must carry (R218, R272, R360). -/
def State.engAtomic (s : State) (rq : Req) (a : W64) (n : Nat) (maxu : Bool) (f : W64 → W64) : EngAns :=
  match s.access rq a n .atomic with
  | .trap e => .fail (if e.cause = 8 then 2 else 1) (s.walked rq.part a)
  | .wait => .wait ⟨rq, a, n, .atomic⟩
  | .ok (.mem k) _ =>
    if s.badIn k n || (maxu && isHostMem k) then .fail 1 (((s.count k n).adFor rq a .atomic).retireBad k n)
    else .ok [] ((s.storeAt (.mem k) (leBytes n (f (w64 (s.rdN k n))).toNat) false).adFor rq a .atomic)
  | .ok (.reg _) _ => .fail 1 s
  | .ok (.remote dev _) _ =>
    let (f, s1) := s.nextFv
    if !(maxu && (s.route dev).getLsbD 62) && Config.remoteAccepts f then .ok [] (s1.adFor rq a .atomic) else .fail 1 s1

/-- Page binding and place of a line: 16 + TSEL where TB is 1, else 0 (R281); `none` where the line does not resolve. A page whose writes a dump holds resolves as it will once W is set again (R380). For a remote leaf the receiving device's own leaf decides, which is a free value for each page. -/
def State.scanLine (s : State) (rq : Req) (k : AccKind) (f : Nat) (a : W64) : Option (Nat × Loc) :=
  let bound (e : W64) : Nat := if e.getLsbD 12 then 16 + bitsN e 11 8 else 0
  match s.access rq a 1 k with
  | .ok (.remote d v) _ =>
    let b := (Config.remoteByte f (2 ^ 20 + a.toNat / 65536)).toNat
    some (if b % 2 = 1 then 16 + b / 2 % 16 else 0, .remote d v)
  | .ok l e => some (bound e, l)
  | .wait => if a.getLsbD 63 then none else (s.leafAt rq.part a).bind fun p =>
    let e := w64 (s.rdN p.1 8)
    let pa := pteFrame e + a.toNat % 2 ^ pageLog p.2
    if s.owns rq.part pa && !isRegSpace pa then some (bound e, .mem pa) else none
  | _ => none

/-- Binding of a side (R281): slot 0 is identity; the arrays (die, 16 * controller + slot) that home its lines; the graph's image, where this device knows it; and whether another device homes lines. -/
structure Side where
  slot : Nat
  homes : List (Nat × Nat)
  image : Option (List Byte)
  remote : Bool
  deriving DecidableEq, Repr

/-- The binding of lines to a slot that is named, or by their pages (R281, R282); `none` for pages that disagree, lines in core space or host memory, an address or length that is no multiple of 64, an unbound slot, or graphs that differ. `f` numbers the free values of another device's answer. -/
def State.bindLines (s : State) (rq : Req) (sel : Option Nat) (k : AccKind) (lines : List W64) (aligned : Bool) (f : Nat) : Option Side :=
  let sc := lines.filterMap (s.scanLine rq k f)
  let code : Option Nat :=
    match sel with
    | some x => some x
    | none => match (sc.map Prod.fst).eraseDups with
      | [] => some 0
      | [c] => some (c % 16)
      | _ => none
  match code with
  | none => none
  | some 0 => some ⟨0, [], none, false⟩
  | some slot =>
    let inner (l : Loc) : Bool := match l with | .mem k => !isDevMem k | .reg _ => true | .remote _ _ => false
    let homes := (sc.filterMap fun p => match p.2 with | .mem k => some (homeDie k, 16 * s.homeCtl k + slot) | _ => none).eraseDups
    let away := sc.any fun p => match p.2 with | .remote _ _ => true | _ => false
    let held (p : Nat × Nat) : Option (List Byte) := match s.tarnSlot p.1 p.2 with
      | some x => if slot < 4 ∨ x.owner = rq.part then some x.image else none
      | none => none
    if !aligned || (lines.any (·.getLsbD 63)) || sc.any (fun p => inner p.2) || (away && decide (4 ≤ slot) && !Config.remoteAccepts f) then none
    else
      let img := if slot < 4 then (s.tarnSlot 0 slot).map TarnSlot.image else (homes.head?).bind held
      if homes.all fun p => (held p).map unowned == img.map unowned && img.isSome then some ⟨slot, homes, img, away⟩ else none

/-- The binding of a side of a copy whose lines are given (R281, R282). -/
def State.bindSide (s : State) (q : CopyReq) (dst : Bool) (lines : List W64) (aligned : Bool) (f : Nat) : Option Side :=
  s.bindLines q.who (if q.gside = (if dst then 2 else 1) then some q.gsel else none) (if dst then .write else .read) lines aligned f

/-- Lines of n bytes of each row. -/
def CopyReq.lines (q : CopyReq) (dst : Bool) (n : Nat) : List W64 :=
  (List.range q.nrows).flatMap fun r =>
    let a := if dst then q.dst r else q.src r
    (cutAt a n 64).map fun p => a + w64 p.1

/-- Bytes of a row after a side's graph: OUTB for each 64 B beat (R280); a graph that only another device knows gives a free OUTB. -/
def Side.rowOut (x : Side) (n f : Nat) : Nat :=
  match x.image with
  | some img => n / 64 * gOutb img
  | none => if x.slot = 0 then n else n / 64 * (4 * (1 + (Config.remoteByte f 0).toNat % 32))

/-- Both sides' bindings and the bytes of a destination row, or a shape mismatch or an unbound slot (R282). -/
def State.copyBind (s : State) (q : CopyReq) (f : Nat) : Option (Side × Side × Nat) :=
  let n := q.rowlen
  let srcBad (img : List Byte) : Bool := gPen img || namesOld img
  match s.bindSide q false (q.lines false n) (q.w[0].toNat % 64 == 0 && n % 64 == 0) f with
  | none => none
  | some a =>
    if (match a.image with | some i => a.slot != 0 && srcBad i | none => false) then none
    else
      let n1 := a.rowOut n f
      -- the destination's length follows from the graph that its first line binds
      let n2 := match s.bindSide { q with w := q.w.set 2 (putBits q.w[2] 39 34 0) } true [q.dst 0] (n1 % 64 == 0) f with
        | some x => (match x.image with | some i => if namesOld i then max n1 (x.rowOut n1 f) else x.rowOut n1 f | none => n1)
        | none => n1
      match s.bindSide q true (q.lines true n2) (q.w[1].toNat % 64 == 0 && n1 % 64 == 0) f with
      | none => none
      | some b =>
        let penBad := match b.image with
          | some i => gPen i && (q.w[1].toNat % gWin i != 0 || 64 * bitsN q.w[2] 21 10 % gWin i != 0 || b.rowOut n1 f % gWin i != 0)
          | none => false
        if penBad then none else some (a, b, b.rowOut n1 f)

/-- What a copy in flight records of a side: its slot; 16 + OUTB at the source and 16 + DEL at the destination for a graph that only another device knows. -/
def Side.code (x : Side) (dst : Bool) (f : Nat) : Nat :=
  if x.slot = 0 ∨ x.image.isSome = true then x.slot
  else if dst then 16 + (Config.remoteByte f 1).toNat % 2 else 16 + 4 * (1 + (Config.remoteByte f 0).toNat % 32)

/-- Has a graph of a side DEL 1 (R272)? One that only another device knows has a free DEL. -/
def Side.del (x : Side) (dst : Bool) (f : Nat) : Bool :=
  match x.image with
  | some i => x.slot != 0 && gDel i
  | none => x.code dst f == 17

/-- May the head of a core's FIFO start (R267): fewer than 96 requests are in flight and, with SER, none is? -/
def Core.copyReady (x : Core) : Bool :=
  match x.fifo with
  | q :: _ => decide (x.infl < 96) && !(q.w[3].getLsbD 2 && decide (0 < x.infl))
  | [] => false

/-- COPY_START (R267, R282): the head of a core's FIFO starts; its binding is checked before any line moves, its slots are held, and the rotation of its cluster goes on behind the core. -/
def execCopyStart (core : Nat) (s : State) : Out :=
  let x := s.core core
  match x.fifo with
  | [] => .next s
  | q :: rest =>
    .next (if x.copyReady = false then s
    else
      let (f, s1) := s.nextFv
      let (id, s2) := s1.stamp
      let s3 := s2.setCore core { x with fifo := rest, infl := x.infl + 1 }
      let s4 := if 16384 ≤ core then s3 else s3.setCluster (core / 8) { s3.cluster (core / 8) with rotCopy := (core + 1) % 8 }
      let rows := List.range q.nrows
      let c : CopyFly := match s.copyBind q f with
        | some (a, b, out) => ⟨id, core, q, a.code false f, b.code true f, a.homes, b.homes, out, a.del false f || b.del true f, rows, 0, none, [], 0, 0⟩
        | none => ⟨id, core, q, 0, 0, [], [], q.rowlen, false, rows, 0, none, [], 8, 0⟩
      let s5 := (c.hsrc ++ c.hdst).foldl (State.holdSlot · true) s4
      { s5 with dev := { s5.dev with copies := s5.dev.copies ++ [c] } })

/-- The image of the graph that a side of a copy in flight runs. -/
def State.copyImage (s : State) (c : CopyFly) (dst : Bool) : Option (List Byte) :=
  let g := if dst then c.gdst else c.gsrc
  if g = 0 ∨ 16 ≤ g then none
  else if g < 4 then (s.tarnSlot 0 g).map TarnSlot.image
  else ((if dst then c.hdst else c.hsrc).head?).bind fun p => (s.tarnSlot p.1 p.2).map TarnSlot.image

/-- Bytes that an engine gathers or makes: `none` where a byte is not to be written (R271); the ERR bits, the measure, the state, and the access that waits, if one does. -/
structure Row where
  bytes : List (Option Byte)
  err : Nat
  measure : Nat
  st : State
  waits : Option Held

/-- Bytes read at a place, with those that the copy itself has overwritten as they stood before (R270). -/
def State.asBefore (s : State) (rq : Req) (a : W64) (old : List (Nat × Byte)) (bs : List Byte) : List Byte :=
  if old.isEmpty then bs
  else match s.resolve rq a bs.length .read with
    | .ok (.mem k) _ => bs.zipIdx.map fun (b, i) => match old.find? (·.1 == k + i) with | some x => x.2 | none => b
    | _ => bs

/-- Reads the parts of a source range (R270, R271). -/
def State.gather (s : State) (rq : Req) (a : W64) (old : List (Nat × Byte)) : List (Nat × Nat) → Row
  | [] => ⟨[], 0, 0, s, none⟩
  | (o, n) :: ps =>
    match s.engRead rq (a + w64 o) n with
    | .wait w => ⟨[], 0, 0, s, some w⟩
    | .fail b t => let r := t.gather rq a old ps; { r with bytes := List.replicate n none ++ r.bytes, err := b ||| r.err }
    | .ok bs t => let r := t.gather rq a old ps; { r with bytes := (s.asBefore rq (a + w64 o) old bs).map some ++ r.bytes }

/-- What a write of n bytes will overwrite, added to what the copy has overwritten (R270). -/
def State.keepOld (s : State) (rq : Req) (a : W64) (n : Nat) (old : List (Nat × Byte)) : List (Nat × Byte) :=
  match s.resolve rq a n .write with
  | .ok (.mem k) _ => old ++ ((List.range n).filter fun i => !old.any (·.1 == k + i)).map fun i => (k + i, s.rdB (k + i))
  | _ => old

/-- OLD of a beat (R283), read where a graph names it. -/
def State.oldBeat (s : State) (rq : Req) (a : W64) : Row :=
  match s.engRead rq a 64 with
  | .wait w => ⟨[], 0, 0, s, some w⟩
  | .fail 2 t => ⟨List.replicate 64 none, 2, 0, t, none⟩
  | .fail _ t => ⟨List.replicate 64 none, 1, 0, t, none⟩
  | .ok bs t => ⟨bs.map some, 0, 0, t, none⟩

/-- All bytes of a range, if every one is there. -/
def allBytes (l : List (Option Byte)) : Option (List Byte) := if l.all Option.isSome then some (l.filterMap id) else none

/-- Runs a graph over the 64 B beats of a row (R271, R280): a beat that lacks a byte gives OUTB holes and takes no part in the measure. `old` is the address of OLD's row for a graph that names it. -/
def State.runGraph (s : State) (rq : Req) (img : List Byte) (old : Option W64) (bs : List (Option Byte)) : Nat → Row
  | 0 => ⟨[], 0, 0, s, none⟩
  | n + 1 =>
    let o : Row := match old with
      | some a => s.oldBeat rq a
      | none => ⟨List.replicate 64 (some 0), 0, 0, s, none⟩
    if o.waits.isSome then { o with bytes := [] }
    else
      let r := o.st.runGraph rq img (old.map (· + 64)) (bs.drop 64) n
      match allBytes (bs.take 64), allBytes o.bytes with
      | some x, some y =>
        let (out, m) := runBeat img (v512 x) (v512 y)
        { r with bytes := out.map some ++ r.bytes, measure := max m.toNat r.measure }
      | _, _ => { r with bytes := List.replicate (gOutb img) none ++ r.bytes, err := o.err ||| r.err }

/-- The permute unit on a row (R280). -/
def permuteRow (img : List Byte) (bs : List (Option Byte)) : List (Option Byte) :=
  if gPen img then
    let to_ := (List.range bs.length).map (permuteTo img)
    (List.range bs.length).map fun p => match to_.idxOf? p with | some j => bs.getD j none | none => none
  else bs

/-- Runs of bytes that are there, with their offsets. -/
def runsOf (o : Nat) : List (Option Byte) → List (Nat × List Byte)
  | [] => []
  | none :: bs => runsOf (o + 1) bs
  | some b :: bs =>
    match runsOf (o + 1) bs with
    | (p, l) :: rs => if p = o + 1 then (o, b :: l) :: rs else (o, [b]) :: (p, l) :: rs
    | [] => [(o, [b])]

/-- Writes runs of bytes at a row's address (R271): those refused set their ERR bit. -/
def State.scatter (s : State) (rq : Req) (a : W64) : List (Nat × List Byte) → Nat × State × Option Held
  | [] => (0, s, none)
  | (o, bs) :: rs =>
    match s.engWrite rq (a + w64 o) bs with
    | .wait w => (0, s, some w)
    | .fail b t => let r := t.scatter rq a rs; (b ||| r.1, r.2)
    | .ok _ t => t.scatter rq a rs

/-- The receiving core counts a landed packet in mailbox counter PTAG (R182, R273). -/
def State.mailUp (s : State) (c tag : Nat) : State :=
  let x := s.core c
  s.setCore c { x with mbox := kset 0 x.mbox tag (min 65535 (kget 0 x.mbox tag + 1)) }

/-- Writes one part of a destination row, a packet under TEN (R270, R271, R273): a packet is refused whole, and counts once all of its bytes are written. A part that a longer row lays outside the share is refused (R192). -/
def State.writePart (s : State) (q : CopyReq) (a : W64) (bs : List (Option Byte)) : Nat × State × Option Held :=
  let refused := match s.access q.who a bs.length .write with | .trap _ => true | _ => false
  if !s.engAllowed q.hart q.mode.toNat q.share a bs.length || (q.ten && refused) then (1, s, none)
  else
    let r := s.scatter q.who a (runsOf 0 bs)
    if q.ten && bs.all Option.isSome && r.1 == 0 && r.2.2.isNone then (0, r.2.1.mailUp (coreNamed q.hart a) (bitsN q.w[2] 4 0), none) else r

/-- An untransformed destination line that lacks a source byte is not written at all (R271). -/
def dropLines (a : W64) (bs : List (Option Byte)) : List (Option Byte) :=
  (cutAt a bs.length 64).flatMap fun p =>
    let l := (bs.drop p.1).take p.2
    if l.all Option.isSome then l else List.replicate p.2 none

/-- A line of a copy has moved: the monitors of that source at the core's cluster take a sample of its latency (R375). -/
def State.lineSample (s : State) (c : CopyFly) : State :=
  if 16384 ≤ c.core then s else s.sampled (c.core / 4096) 4 (c.core / 8 % 512)

/-- Replaces the record of a copy in flight. -/
def State.putCopy (s : State) (c : CopyFly) : State :=
  { s with dev := { s.dev with copies := replaceFirst (·.id == c.id) (fun _ => c) s.dev.copies } }

/-- Does a destination graph read OLD of a line and write the line as one access (R283): OUTB 64 and no permute? -/
def beatwise (img : List Byte) : Bool := gOutb img == 64 && !gPen img

/-- Lines that a side of a copy has still to move: those of its rows still to begin, and of the one under way the parts not yet written; a row under way has been read. -/
def CopyFly.linesLeft (c : CopyFly) (dst : Bool) : List W64 :=
  let q := c.req
  let of (r from_ : Nat) : List W64 :=
    let a := if dst then q.dst r else q.src r
    ((cutAt a (if dst then c.out else q.rowlen) 64).drop from_).map fun p => a + w64 p.1
  match c.row, c.todo with
  | some _, r :: rs => (if dst then of r c.pos else []) ++ rs.flatMap (of · 0)
  | _, rs => rs.flatMap (of · 0)

/-- A slot is held at an array until the copy's last line there has completed (R282). -/
def State.letGo (s : State) (c : CopyFly) : State :=
  let left (dst : Bool) (p : Nat × Nat) : Bool := (c.linesLeft dst).any fun a =>
    match s.resolve c.req.who a 1 (if dst then .write else .read) with
    | .ok (.mem k) _ => isDevMem k && homeDie k == p.1 && s.homeCtl k == p.2 / 16
    | _ => true
  let c1 := { c with hsrc := c.hsrc.filter (left false), hdst := c.hdst.filter (left true) }
  (((c.hsrc.filter (!left false ·)) ++ c.hdst.filter (!left true ·)).foldl (State.holdSlot · false) s).putCopy c1

/-- One part of a plain row: it is read, and written at its place in the destination (R270). -/
def State.copyPart (s : State) (c : CopyFly) (r : Nat) : State :=
  let q := c.req
  let ps := cutAt (q.dst r) q.rowlen (if q.ten then 256 else 64)
  match ps[c.pos]? with
  | none => s.putCopy { c with todo := c.todo.filter (· != r), pos := 0 }
  | some (o, n) =>
    let a := q.src r + w64 o
    let g := s.gather q.who a c.old (cutAt a n 64)
    let d := q.dst r + w64 o
    let w := g.st.writePart q d (dropLines d g.bytes)
    match g.waits.orElse fun _ => w.2.2 with
    | some x => s.holdUp (.copy c.id r) x
    | none =>
      let c1 := { c with todo := r :: c.todo.filter (· != r), pos := c.pos + 1, err := c.err ||| g.err ||| w.1, old := g.st.keepOld q.who d n c.old }
      (w.2.1.lineSample c).putCopy (if ps.length ≤ c1.pos then { c1 with todo := c.todo.filter (· != r), pos := 0 } else c1)

/-- A row after a graph that only another device knows: outb free bytes for each beat, holes for a beat that was not read. -/
def remoteRow (f outb : Nat) (bs : List (Option Byte)) : List (Option Byte) :=
  (bs.zipIdx.filter fun p => p.2 % 64 == 0).zipIdx.flatMap fun p =>
    (List.range outb).map fun i => p.1.1.map fun _ => Config.remoteByte f (outb * p.2 + i)

/-- A row that graphs transform begins (R271, R280, R283): it is read and goes through the source's graph, and through the destination's where that needs the whole row. -/
def State.rowBegin (s : State) (c : CopyFly) (r : Nat) : State :=
  let q := c.req
  let who := q.who
  let n := q.rowlen
  let g := s.gather who (q.src r) c.old (cutAt (q.src r) n 64)
  match g.waits with
  | some x => s.holdUp (.copy c.id r) x
  | none =>
    let a : Row := match s.copyImage c false with
      | some img => g.st.runGraph who img none g.bytes (n / 64)
      | none =>
        if 16 ≤ c.gsrc then
          let (f, t) := g.st.nextFv
          ⟨remoteRow f (c.gsrc - 16) g.bytes, 0, 0, t, none⟩
        else { g with err := 0 }
    let b : Row :=
      match s.copyImage c true with
      | some img =>
        if beatwise img then { a with err := 0, measure := 0 }
        else
          let x := a.st.runGraph who img (if namesOld img then some (q.dst r) else none) a.bytes (a.bytes.length / 64)
          { x with bytes := permuteRow img x.bytes }
      | none => { a with err := 0, measure := 0 }
    match b.waits with
    | some x => s.holdUp (.copy c.id r) x
    | none => b.st.letGo { c with todo := r :: c.todo.filter (· != r), pos := 0, row := some b.bytes, err := c.err ||| g.err ||| a.err ||| b.err,
                                       measure := BitVec.ofNat 32 (max c.measure.toNat (max a.measure b.measure)) }

/-- A part of a row under way is written (R220, R270): through the destination's graph, with OLD read in the same access, where that works line by line (R283). -/
def State.rowPart (s : State) (c : CopyFly) (r : Nat) (bs : List (Option Byte)) : State :=
  let q := c.req
  let ps := cutAt (q.dst r) bs.length (if q.ten then 256 else 64)
  let ended (c : CopyFly) : CopyFly := { c with todo := c.todo.filter (· != r), pos := 0, row := none }
  match ps[c.pos]? with
  | none => s.letGo (ended c)
  | some (o, n) =>
    let d := q.dst r + w64 o
    let x : Row := match s.copyImage c true with
      | some img =>
        if beatwise img then s.runGraph q.who img (if namesOld img then some d else none) ((bs.drop o).take n) 1
        else ⟨(bs.drop o).take n, 0, 0, s, none⟩
      | none => ⟨(bs.drop o).take n, 0, 0, s, none⟩
    let w := x.st.writePart q d x.bytes
    match x.waits.orElse fun _ => w.2.2 with
    | some y => s.holdUp (.copy c.id r) y
    | none =>
      let c1 := { c with pos := c.pos + 1, err := c.err ||| x.err ||| w.1, measure := BitVec.ofNat 32 (max c.measure.toNat x.measure), old := x.st.keepOld q.who d n c.old }
      (w.2.1.lineSample c).letGo (if ps.length ≤ c1.pos then ended c1 else c1)

/-- A row that graphs transform, one step of it. -/
def State.copyRow (s : State) (c : CopyFly) (r : Nat) : State :=
  match c.row with
  | none => s.rowBegin c r
  | some bs => s.rowPart c r bs

/-- COPY_LINE (R270): the next part of a row still to move; rows move in no defined order. -/
def execCopyLine (k row : Nat) (s : State) : Out :=
  match s.dev.copies.find? (·.id == k) with
  | none => .next s
  | some c =>
    .next (if !c.todo.contains row || ((decide (0 < c.pos) || c.row.isSome) && c.todo.head? != some row) then s
    else if c.gsrc = 0 ∧ c.gdst = 0 then s.copyPart c row else s.copyRow c row)

/-- ORs bits into CPYSTAT.NCERR of the pushing hart, while they are its own (R271, R272). -/
def State.ncerr (s : State) (q : CopyReq) (bits : Nat) : State :=
  if q.owed && bits != 0 then
    let h := s.getHart q.hart
    s.setHart q.hart (h.setReg .cpystat (h.reg .cpystat ||| w64 (bits * 2 ^ 20)))
  else s

/-- The measure and the counter of a completed copy (R272): ERR bits lost with a refused update, and the update that waits. -/
def State.copyCounter (s : State) (c : CopyFly) : Nat × State × Option Held :=
  let q := c.req
  if q.ctr = 0 then (c.err, s, none)
  else
    let (f, s0) := s.nextFv
    let m := if c.gdst = 17 then leNat (remoteBytes f 4) else c.measure.toNat
    let r : EngAns := if c.del then s0.engAtomic q.who (q.ctr + 8) 4 true fun x => w64 (max x.toNat m) else .ok [] s0
    let go (bits : Nat) (t : State) : Nat × State × Option Held :=
      match t.engAtomic q.who q.ctr 8 false fun x => counterAdd x (bitsN q.w[3] 60 56) c.err with
      | .ok _ u => (bits, u, none)
      | .fail _ u => (1, u, none)
      | .wait w => (0, s, some w)
    match r with
    | .ok _ t => go 0 t
    | .fail _ t => go 1 t
    | .wait w => (0, s, some w)

/-- COPY_COMPLETE (R267, R272): the measure, the counter, the holds and INFL. -/
def execCopyComplete (k : Nat) (s : State) : Out :=
  match s.dev.copies.find? (·.id == k) with
  | none => .next s
  | some c =>
    .next (if !c.todo.isEmpty then s
    else
      let r := s.copyCounter c
      match r.2.2 with
      | some w => s.holdUp (.copyEnd k) w
      | none =>
        let s1 := (c.hsrc ++ c.hdst).foldl (State.holdSlot · false) (r.2.1.ncerr c.req r.1)
        let x := s1.core c.core
        let s2 := s1.setCore c.core { x with infl := x.infl - 1 }
        { s2 with dev := { s2.dev with copies := removeFirst (·.id == k) s2.dev.copies } })

end Sys2Proof.Machine
end

