-- ==== Sys2Proof/Machine/Flint.lean ====
section
/-! DEFINITION. Flint (R290 to R299): jobs and their checks, the walk over bit planes, records and lists, `sel` and `selwait`. -/
namespace Sys2Proof.Machine

/-- MODE of a job: 0 QUANT, 1 TOPK, 2 WQUANT (R291). -/
def FlintJob.mode' (j : FlintJob) : Nat := bitsN j.w[2] 63 62
/-- N, the elements of a job (R291). -/
def FlintJob.n (j : FlintJob) : Nat := bitsN j.w[2] 47 32 + 1
/-- PARAM (R291). -/
def FlintJob.param (j : FlintJob) : Nat := bitsN j.w[2] 31 0
/-- Element type (R291). -/
def FlintJob.ty (j : FlintJob) : ETy := (etyOf (bitsN j.w[2] 59 56)).getD .n8
/-- Flint as a requester for a job (R205). -/
def FlintJob.who (j : FlintJob) : Req := ⟨j.hart, j.mode.toNat, j.part, true⟩

/-- The first word of a job that fails the field checks of R298. -/
def flintBad (w : Vector W64 4) : Option W64 :=
  let mode := bitsN w[2] 63 62
  let p := bitsN w[2] 31 0
  let fmtOk := [0, 1, 2, 3, 4, 8, 9, 10, 12, 13, 14].contains (bitsN w[2] 59 56)
  if mode = 2 ∧ w[1] = 0 then some w[1]
  else if mode = 3 ∨ w[2].getLsbD 60 = true ∨ bitsN w[2] 55 48 ≠ 0 ∨ !fmtOk ∨
      (if mode = 2 then p = 0 ∨ 0x3F800000 < p else p = 0 ∨ bitsN w[2] 47 32 + 1 < p) then some w[2]
  else if bitsN w[3] 5 0 ≠ 0 then some w[3] else none

/-- The trap of a job, by the checks of R298 in their order. -/
def State.flintCheck (s : State) (w : Vector W64 4) : Option Exn :=
  match flintBad w with
  | some x => some ⟨0x18, x, 0⟩
  | none =>
    if w[0].toNat % (flintWidth (bitsN w[2] 59 56) / 8) ≠ 0 then some ⟨4, 0, w[0]⟩
    else if w[1].toNat % 4 ≠ 0 then some ⟨4, 0, w[1]⟩
    else
      let rs := flintRanges w
      let out (p : W64 × Nat) : Bool :=
        !p.1.getLsbD 63 || coreMalformed p.1 || coreNamed s.hid p.1 / 8 != clusOf s.hid || decide (262144 < bitsN p.1 17 0 + p.2)
      match rs.find? out with
      | some p => some ⟨5, 0, p.1⟩
      | none =>
        (rs.findSome? fun p =>
          if isLocal s.hid p.1 && !s.localOk s.me (bitsN p.1 17 0) p.2 then
            (lowest p.2 fun i => !s.localOk s.me (bitsN p.1 17 0 + i) 1).map fun i => p.1 + w64 i
          else none).map fun a => ⟨5, 0, a⟩

/-- `sel` (R297). -/
def execSel (c : Scope) (a : GReg) (s : State) : Out :=
  let w := s.group a
  .next (if s.ctl then s.illegalA
    else match s.flintCheck w with
      | some e => s.trapA e
      | none => s.whenReleased c fun s =>
        let x := s.core (coreOf s.hid)
        if 4 ≤ s.hart.flintOut + s.hart.flintRes.length ∨ 8 ≤ x.flintq.length then s.waitA .other
        else
          let j : FlintJob := ⟨w, s.hid, BitVec.ofNat 2 s.hart.priv, s.part, true⟩
          ((s.setCore (coreOf s.hid) { x with flintq := x.flintq ++ [j] }).mapHart fun h => { h with flintOut := h.flintOut + 1 }.capCount 10).retire)

/-- `selwait` (R297): the oldest result, 0 with no job outstanding. -/
def execSelwait (d : GReg) (s : State) : Out :=
  .next (if s.ctl then s.illegalA
    else s.whenRetired fun s => match s.hart.flintRes with
      | v :: vs => (s.mapHart fun h => { h with flintRes := vs }).retireG d v
      | [] => if 0 < s.hart.flintOut then s.waitA .other else s.retireG d 0)

/-- FLINT_JOB_START (R296): Flint takes the next head of its cluster's queues, in rotating order. -/
def execFlintJobStart (cl : Nat) (s : State) : Out :=
  let c := s.cluster cl
  if c.flint.isSome then .next s
  else
    match (List.range 8).findSome? fun i =>
      let n := (c.rotFlint + i) % 8
      match (s.core (8 * cl + n)).flintq with | j :: js => some (n, j, js) | [] => none with
    | none => .next s
    | some (n, j, js) =>
      let s1 := s.setCore (8 * cl + n) { s.core (8 * cl + n) with flintq := js }
      .next (s1.setCluster cl { c with flint := some j, rotFlint := (n + 1) % 8 })

/-- Fix40 (R290): an FP32 weight in units of 2^-40, and whether it lies outside [0, 1]. -/
def fix40 (x : Nat) : Nat × Bool :=
  match fF32.dec x with
  | .nan => (0, true)
  | .inf s => (if s then 0 else 2 ^ 40 - 1, true)
  | .num s m e =>
    if m = 0 then (0, false)
    else if s then (0, true)
    else (min (2 ^ 40 - 1) ((Exact.mk false m e false).grid 0 (-40)).1, decide (0x3F800000 < x))

/-- An element of a job: its index, its bits, its key in the walk's order, its weight (R290). -/
structure FlintEl where
  i : Nat
  bits : Nat
  key : Nat
  wt : Nat
  deriving DecidableEq, Repr

/-- Where the walk stands (R290). -/
structure FlintWalk where
  c : List FlintEl
  above : List FlintEl
  t : Nat
  deriving DecidableEq, Repr

/-- The mass of elements. -/
def massOf (l : List FlintEl) : Nat := (l.map FlintEl.wt).sum

/-- Is a mass at least p times the total, exactly (R290)? -/
def massMeets (p total m : Nat) : Bool :=
  match fF32.dec p with
  | .num _ q e => decide (q * total ≤ m <<< (-e).toNat)
  | _ => false

/-- The walk from plane b - 1 down (R290); `take` decides from the elements beyond t and those with a 1. -/
def flintWalk (take : List FlintEl → List FlintEl → Bool) : Nat → FlintWalk → FlintWalk
  | 0, x => x
  | b + 1, x =>
    let o := x.c.filter fun e => e.key.testBit b
    if take x.above o then flintWalk take b { x with c := o, t := x.t + 2 ^ b }
    else flintWalk take b { x with c := x.c.filter fun e => !e.key.testBit b, above := x.above ++ o }

/-- What a job finds: STATUS, and the walk's end, the total and the eligible elements (R290). -/
structure FlintRes where
  status : Nat
  walk : FlintWalk
  elig : List FlintEl
  badw : Nat
  deriving DecidableEq, Repr

/-- A job on its column and weights (R290). -/
def FlintJob.run (j : FlintJob) (col wts : List Nat) : FlintRes :=
  let t := j.ty
  let dir := j.w[2].getLsbD 61
  let key (x : Nat) : Nat := let k := orderKey t x; if dir then 2 ^ t.width - 1 - k else k
  let el := (col.zipIdx.filter fun p => !t.isNan p.1).map fun p =>
    FlintEl.mk p.2 p.1 (key p.1) (if j.w[1] = 0 then 0 else (fix40 (wts.getD p.2 0)).1)
  let badw := if j.w[1] = 0 then 0 else (el.filter fun e => (fix40 (wts.getD e.i 0)).2).length
  let total := massOf el
  if el = [] ∨ (j.mode' ≠ 2 ∧ el.length < j.param) then ⟨1, ⟨[], [], 0⟩, el, badw⟩
  else
    let take (above o : List FlintEl) : Bool :=
      if j.mode' = 2 then o != [] && massMeets j.param total (massOf above + massOf o) else decide (j.param ≤ above.length + o.length)
    ⟨0, flintWalk take t.width ⟨el, [], 0⟩, el, badw⟩

/-- The record and the list of a job (R293, R294): eight words, and the list's 8 B entries. -/
def FlintJob.record (j : FlintJob) (r : FlintRes) : List W64 × List W64 :=
  let w := j.ty.width
  let entry (e : FlintEl) : W64 := w64 (e.bits * 2 ^ 32 + e.i)
  if r.status = 1 then
    ([w64 (2 ^ 63 + 2 ^ 60), w64 r.elig.length, 0, 0, 0, w64 r.elig.length, w64 (0xFFFFFFFF * 2 ^ 32), 0],
     if j.mode' = 1 then r.elig.map entry ++ List.replicate (j.param - r.elig.length) 0xFFFFFFFF else [])
  else
    let key := if j.w[2].getLsbD 61 then 2 ^ w - 1 - r.walk.t else r.walk.t
    let first := match r.walk.c with | e :: _ => e.i * 2 ^ 32 + e.bits | [] => 0xFFFFFFFF * 2 ^ 32
    let chosen := r.walk.above.map FlintEl.i ++ (r.walk.c.take (j.param - r.walk.above.length)).map FlintEl.i
    ([w64 (2 ^ 63 + key), w64 (r.walk.c.length * 2 ^ 32 + r.walk.above.length), w64 (massOf r.walk.above), w64 (massOf r.walk.c),
      w64 (massOf r.elig), w64 (r.badw * 2 ^ 32 + r.elig.length), w64 first, 0],
     if j.mode' = 1 then (r.elig.filter fun e => chosen.contains e.i).map entry else [])

/-- Reads a range line by line: STATUS 0, 2 or 3 (R293), the bytes, the state; the error is a read that waits. -/
def State.flintRead (s : State) (j : FlintJob) (a : W64) : List (Nat × Nat) → Except Held (Nat × List Byte × State)
  | [] => .ok (0, [], s)
  | (o, n) :: ps =>
    match s.engRead j.who (a + w64 o) n with
    | .wait w => .error w
    | .fail b t => .ok (if b = 2 then 3 else 2, [], t)
    | .ok bs t => match t.flintRead j a ps with
      | .error w => .error w
      | .ok (st, cs, u) => .ok (st, bs ++ cs, u)

/-- Makes writes in order; those that fail are counted, and the error is a write that waits. -/
def State.flintWrite (s : State) (j : FlintJob) : List (W64 × List Byte) → Except Held (Nat × State)
  | [] => .ok (0, s)
  | (a, bs) :: ws =>
    match s.engWrite j.who a bs with
    | .wait w => .error w
    | .ok _ t => t.flintWrite j ws
    | .fail _ t => (t.flintWrite j ws).map fun r => (r.1 + 1, r.2)

/-- The writes of a job, the granule of W0 last (R295). -/
def FlintJob.writes (j : FlintJob) (recW lst : List W64) : List (W64 × List Byte) :=
  let res := putBits j.w[3] 5 0 0
  let bytes (l : List W64) : List Byte := l.flatMap fun x => leBytes 8 x.toNat
  let lb := bytes lst
  ((cutAt (res + 64) lb.length 64).map fun p => (res + 64 + w64 p.1, (lb.drop p.1).take p.2)) ++
    [(res + 8, bytes (recW.drop 1)), (res, bytes (recW.take 2))]

/-- Completes the job of a cluster with its element, owed to its hart (R295, R299); the monitors of that source take a sample of its duration (R375). -/
def State.flintDone (s : State) (cl : Nat) (j : FlintJob) (el : W64) : State :=
  let s1 := (s.setCluster cl { s.cluster cl with flint := none }).sampled (cl / 512) 5 (cl % 512)
  if j.owed then
    let h := s1.getHart j.hart
    s1.setHart j.hart { h with flintOut := h.flintOut - 1, flintRes := h.flintRes ++ [el], aStall := none }
  else s1

/-- FLINT_JOB_COMPLETE (R290 to R296): reads, walks, writes, and returns the element. Where a write fails, which of the job's writes landed is a free value (log entry 21). -/
def execFlintJobComplete (cl : Nat) (s : State) : Out :=
  match (s.cluster cl).flint with
  | none => .next s
  | some j =>
    let w := j.ty.width
    let reads : Except Held (Nat × List Nat × List Nat × State) :=
      match s.flintRead j j.w[0] (cutAt j.w[0] (j.n * w / 8) 64) with
      | .error w => .error w
      | .ok (st, cb, t) =>
        if st ≠ 0 then .ok (st, [], [], t)
        else match t.flintRead j j.w[1] (if j.w[1] = 0 then [] else cutAt j.w[1] (4 * j.n) 64) with
          | .error w => .error w
          | .ok (st2, wb, u) => .ok (st2, elemsOf w j.n (leNat cb), elemsOf 32 j.n (leNat wb), u)
    .next (match reads with
    | .error x => s.holdUp (.flint cl) x
    | .ok (st, col, wts, t) =>
      let r : List W64 × List W64 :=
        if st ≠ 0 then ([w64 (2 ^ 63 + st * 2 ^ 60), 0, 0, 0, 0, 0, 0, 0], []) else j.record (j.run col wts)
      let ws := j.writes r.1 r.2
      match t.flintWrite j ws with
      | .error x => s.holdUp (.flint cl) x
      | .ok (0, u) => u.flintDone cl j (r.1.headD 0)
      | .ok (_, _) =>
        let (f, t1) := t.nextFv
        let some' := (ws.zipIdx.filter fun p => Config.flintLands f p.2).map Prod.fst
        match t1.flintWrite j some' with
        | .error x => s.holdUp (.flint cl) x
        | .ok (_, u) => u.flintDone cl j (w64 (2 ^ 63 + 4 * 2 ^ 60)))

end Sys2Proof.Machine
end

