-- ==== Sys2Proof/Machine/Matrix.lean ====
section
/-! DEFINITION. The matrix array: formats (R233, R235), operands (R237, R238), group sums and accumulation (R243 to R247), drains (R253, R254). -/
namespace Sys2Proof.Machine

/-- What MXFMT says of an accumulator (R233, R235): formats of A and B, the group size G, the accumulator mode. -/
structure MxForm where
  a : ETy
  b : ETy
  g : Nat
  mode : Nat
  deriving DecidableEq, Repr

/-- An operand format of the array (R235). -/
def mxTy (code : Nat) : Option ETy := if [1, 2, 3, 4, 5, 8, 12].contains code then etyOf code else none
/-- A 16-bit float format. -/
def mxHalf (t : ETy) : Bool := t == .f16 || t == .bf16
/-- Family of formats that combine (R233). -/
def mxFamily (t : ETy) : Nat :=
  match t with
  | .i8 => 0 | .n8 => 0 | .l8e4 => 1 | .l8e5 => 1 | .l4 => 2 | .bf16 => 3 | _ => 4
/-- ASC (R235). -/
def mxAsc (f : W64) : Bool := f.getLsbD 11
/-- BSC (R235). -/
def mxBsc (f : W64) : Bool := f.getLsbD 10
/-- SPAR (R235). -/
def mxSpar (f : W64) : Nat := bitsN f 9 8
/-- ACCMODE of an accumulator (R235). -/
def mxMode (f : W64) (acc : Nat) : Nat := bitsN f (2 * acc + 1) (2 * acc)

/-- The combination that MXFMT gives an accumulator, if R233 allows it. -/
def mxForm (f : W64) (acc : Nat) : Option MxForm :=
  match mxTy (bitsN f 19 16), mxTy (bitsN f 15 12) with
  | some a, some b =>
    let scaled := mxAsc f || mxBsc f
    let int := mxFamily a == 0
    let mode := mxMode f acc
    if mxFamily a ≠ mxFamily b ∨ mxSpar f = 3 ∨ mode = 1 ∨ int ≠ decide (2 ≤ mode) ∨ (scaled = true ∧ (int = true ∨ mxHalf a = true)) then none
    else some ⟨a, b, if mxHalf a then 16 else if a = .l4 ∧ !scaled then 64 else 32, mode⟩
  | _, _ => none

/-- KIND of a descriptor's second register (R237). -/
def dKind (d : W64) : Nat := bitsN d 63 62
/-- K of a descriptor (R237). -/
def dK (d : W64) : Nat := bitsN d 58 45
/-- Bytes of a row of A (R238). -/
def rowBytes (t : ETy) (k : Nat) : Nat := k * t.width / 8
/-- Stored values per 16 positions under SPAR: 16, 8 or 4 (R235, R247). -/
def sparN (f : W64) : Nat := match mxSpar f with | 0 => 16 | 1 => 8 | _ => 4
/-- Bytes of a column of B, compressed under sparsity (R237, R238). -/
def colBytes (t : ETy) (f : W64) (k : Nat) : Nat := k * sparN f / 16 * t.width / 8

/-- Pool offset and length of the parts of row r of a KIND 0 operand, in the order of its bytes (R238). -/
def rowParts (base d : W64) (kb r : Nat) : List (Nat × Nat) :=
  let nt := (kb + 63) / 64
  (List.range nt).map fun t =>
    let tt := if bitsN d 61 60 = 0 then t else (t + r * 2 ^ (bitsN d 61 60 - 1)) % nt
    (bitsN base 17 0 + r * bitsN d 44 29 + tt * bitsN d 28 13, min 64 (kb - 64 * t))

/-- The trap of an address that is not in a pool of the issuing cluster, or of n bytes from a pool offset that leave the pool or that R192 refuses in the own pool (R238). -/
def State.mxSpan (s : State) (a : W64) (o n : Nat) : Option Exn :=
  let at_ := a + w64 (o - bitsN a 17 0)
  if !a.getLsbD 63 || coreMalformed a || coreNamed s.hid a / 8 != clusOf s.hid then some ⟨5, 0, a⟩
  else if 262144 < o + n then some ⟨5, 0, at_⟩
  else if isLocal s.hid a && !s.localOk s.me o n then some ⟨5, 0, at_⟩ else none

/-- Does a descriptor break the rules of its kind (R237)? -/
def mxDescBad (base d : W64) : Option Exn :=
  let bad : Bool := match dKind d with
    | 0 => d.getLsbD 59 || base.toNat % 32 != 0 || bitsN d 44 29 % 32 != 0 || bitsN d 28 13 % 32 != 0
    | 1 => d.getLsbD 59 || base.toNat / 32 != 0
    | _ => false
  if bad then some ⟨0x14, d, 0⟩ else none

/-- Checks of an operand's bytes at the `mma` (R238): `n` rows or columns of `kb` bytes; `sparse` for a compressed B. -/
def State.mxOperand (s : State) (base d : W64) (n kb : Nat) (sparse : Bool) : Option Exn :=
  let bad : Option Exn := some ⟨0x14, d, 0⟩
  match dKind d with
  | 0 =>
    match s.mxSpan base (bitsN base 17 0) 1 with
    | some e => some e
    | none => (List.range n).findSome? fun r => (rowParts base d kb r).findSome? fun p => s.mxSpan base p.1 p.2
  | 1 => if kb != 32 || sparse then bad else none
  | _ => if sparse then bad else none

/-- Is the core of a command the lead of its gang, the lowest core of the mask (R241)? -/
def MCmd.leads (c : MCmd) : Bool := lowest 8 (w64 c.gang).getLsbD == some (coreOf c.hart % 8)

/-- Checks of `mma` against the sampled registers, in order (R250): R233, R237, R238, R246. A core that is not the lead checks its A descriptor by R237 and for K only (R241). -/
def State.mmaCheck (s : State) (c : MCmd) : Option Exn :=
  let f := c.mxfmt
  match mxForm f c.acc with
  | none => some ⟨0x14, f, 0⟩
  | some x =>
    let k := dK c.w[1]
    let kmax := if x.a = .l4 then 8192 else if mxHalf x.a then 2048 else 4096
    let sparse := mxSpar f != 0
    let kb := colBytes x.b f k
    let first (l : List (Option Exn)) : Option Exn := l.findSome? id
    let scale (used : Bool) (a : W64) (n al : Nat) : List (Option Exn) :=
      if used then [if a.toNat % al ≠ 0 then some ⟨4, 0, a⟩ else none, s.mxSpan a (bitsN a 17 0) n] else []
    if k % x.g ≠ 0 ∨ k < x.g ∨ kmax < k ∨ (sparse = true ∧ kb % 32 ≠ 0) then some ⟨0x14, c.w[1], 0⟩
    else first ([mxDescBad c.w[0] c.w[1], mxDescBad c.w[2] c.w[3],
        if c.leads then s.mxOperand c.w[0] c.w[1] 32 (rowBytes x.a k) false else none, s.mxOperand c.w[2] c.w[3] 8 kb sparse] ++
      scale (mxAsc f && c.leads) c.scaleA (4 * 32 * (k / 32)) 4 ++ scale (mxBsc f) c.scaleB (4 * 8 * (k / 32)) 4 ++
      scale sparse c.smeta (8 * (k * sparN f / 32)) 32)

/-- A fault found while an operation runs (R256): the queue it belongs to, its cause, TRAPVAL and TRAPADDR. -/
structure MxFault where
  own : Nat
  cause : Nat
  val : W64
  addr : W64
  deriving DecidableEq, Repr

/-- Bytes read for an operation, with the faults found: refused reads deliver zero and code 2 (R238). -/
structure MxRead where
  bytes : List Byte
  faults : List MxFault
  st : State
  waits : Option Held

/-- The engine that performs a command, as a requester (R205). -/
def MCmd.who (c : MCmd) : Req := ⟨c.hart, c.mode.toNat, c.part, true⟩
/-- An access of a command of `mpre` or `mdrain`, refused where R192 forbids it (R251, R254, R255). -/
def State.mxAccess (s : State) (c : MCmd) (a : W64) (n : Nat) (go : State → EngAns) : EngAns :=
  if s.engAllowed c.hart c.mode.toNat c.share a n then go s else .fail 1 s

/-- Reads parts of a pool for a command (R238). -/
def State.mxReads (s : State) (own : Nat) (c : MCmd) (base : W64) : List (Nat × Nat) → MxRead
  | [] => ⟨[], [], s, none⟩
  | (o, n) :: ps =>
    let a := base + w64 (o - bitsN base 17 0)
    match s.engRead c.who a n with
    | .wait w => ⟨[], [], s, some w⟩
    | .ok bs t => let r := t.mxReads own c base ps; { r with bytes := bs ++ r.bytes }
    | .fail _ t =>
      let r := t.mxReads own c base ps
      { r with bytes := List.replicate n 0 ++ r.bytes, faults := ⟨own, 0x16, 2, a⟩ :: r.faults }

/-- Byte b of row r of an operand of R rows that came as link words (R238, R239); words that never came read as zero. -/
def linkByte (ws : List W64) (rows r b : Nat) : Byte :=
  BitVec.ofNat 8 ((ws.getD (((b / 32) * rows + r) * 4 + b % 32 / 8) 0).toNat >>> (8 * (b % 8)))

/-- Words of a link operand (R238). -/
def linkWords (rows kb : Nat) : Nat := (kb + 31) / 32 * rows * 4

/-- The rows of an operand, each kb bytes (R238): a pool, the copied v registers, or link words. -/
def State.mxRows (s : State) (own : Nat) (c : MCmd) (base d : W64) (v : List V512) (ws : List W64) (rows kb : Nat) : MxRead :=
  match dKind d with
  | 0 => s.mxReads own c base ((List.range rows).flatMap (rowParts base d kb))
  | 1 => ⟨(List.range rows).flatMap fun r => ((leBytes 64 ((v.getD (r / 2) 0).toNat)).drop (32 * (r % 2))).take 32, [], s, none⟩
  | _ => ⟨(List.range rows).flatMap fun r => (List.range kb).map (linkByte ws rows r), [], s, none⟩

/-- Elements of row r of rows of kb bytes. -/
def rowElems (t : ETy) (bs : List Byte) (kb r : Nat) : List Nat :=
  elemsOf t.width (kb * 8 / t.width) (leNat ((bs.drop (r * kb)).take kb))

/-- FP32 words of a scale array (R246). -/
def scaleWords (bs : List Byte) : List Nat := elemsOf 32 (bs.length / 4) (leNat bs)
/-- Is a scale valid (R53)? -/
def scaleOk (x : Nat) : Bool := x / 2 ^ 31 == 0 && x / 2 ^ 23 % 256 != 0 && x / 2 ^ 23 % 256 != 255

/-- The exact sum of finite values. -/
def fvSum (l : List FV) : FV :=
  let q := l.foldl (fun q v => match v with | .num _ m e => if m = 0 then q else min q e | _ => q) (0 : Int)
  let t := l.foldl (fun t v => match v with | .num s m e => if m = 0 then t else t + sgn s (m <<< (e - q).toNat) | _ => t) (0 : Int)
  .num (decide (t < 0)) t.natAbs q

/-- Truncation of a product to a multiple of 2^q (R244). -/
def truncTo (q : Int) (v : FV) : FV :=
  match v with
  | .num s m e => if q ≤ e then v else .num s (m >>> (q - e).toNat) q
  | v => v

/-- floor(log2 |p|) of the largest non-zero product (R244). -/
def topExp (l : List FV) : Option Int :=
  l.foldl (fun t v => match v with
    | .num _ m e => if m = 0 then t else (match t with | none => some (Nat.log2 m + e) | some x => some (max x (Nat.log2 m + e)))
    | _ => t) none

/-- A group sum of floating products (R243, R244): its value, and whether it is NaN from operands that were not NaN. -/
def groupSum (half : Bool) (ps : List (FV × FV)) : FV × Bool :=
  let prods := ps.map fun p => fvMul p.1 p.2
  if ps.any fun p => p.1.isNan || p.2.isNan then (.nan, false)
  else if prods.any fun p => p.2 ≠ 0 then (.nan, true)
  else
    let vs := prods.map Prod.fst
    match vs.contains (.inf false), vs.contains (.inf true) with
    | true, true => (.nan, true)
    | true, false => (.inf false, false)
    | false, true => (.inf true, false)
    | false, false => (fvSum (if half then (match topExp vs with | some t => vs.map (truncTo (t - 63)) | none => vs) else vs), false)

/-- acc + S * s, rounded once to A56 (R245): the result, INV, OVF. DESIGN CHOICE: a NaN operand sets no INV, by R236 against the comment in R245 (log entry 56). -/
def accFloat (acc : Nat) (g : FV × Bool) (s : Nat) : Nat × Bool × Bool :=
  let a := fA56.dec acc
  let p := fvMul g.1 (fF32.dec s)
  if g.1.isNan then (fA56.nan, g.2 && !a.isNan, false)
  else if a.isNan then (fA56.nan, false, false)
  else if p.2 ≠ 0 then (fA56.nan, true, false)
  else match fvAdd 0 a p.1 with
    | (.nan, _) => (fA56.nan, true, false)
    | (.inf t, _) => (fA56.inf t, false, !a.isInf && !g.1.isInf)
    | (.num t m e, _) => if m = 0 then (0, false, false) else
      let r := fA56.round 0 false ⟨t, m, e, false⟩
      (r.1, false, r.2 &&& fOF != 0)

/-- Range of an integer accumulator mode (R55): 2 `wide`, 3 `sat32`. -/
def accRange (mode : Nat) : Int × Int := if mode = 3 then (-(2 ^ 31), 2 ^ 31 - 1) else (-(2 ^ 55), 2 ^ 55 - 1)
/-- acc + S, clamped (R245): the result and SAT. -/
def accInt (mode acc : Nat) (v : Int) : Nat × Bool :=
  let t := toSigned 56 acc + v
  let c := max (accRange mode).1 (min (accRange mode).2 t)
  (ofSigned 56 c, c != t)

/-- Pairs of an element of A and one of B in group g (R243, R247); `idx` gives the index of each stored value, under sparsity. -/
def groupPairs (gsz n : Nat) (idx : Option (List Nat)) (a b : List Nat) (g : Nat) : List (Nat × Nat) :=
  match idx with
  | none => ((a.drop (g * gsz)).take gsz).zip ((b.drop (g * gsz)).take gsz)
  | some is =>
    let per := gsz * n / 16
    (List.range per).map fun j =>
      let i := g * per + j
      (a.getD (16 * (i / n) + is.getD i 0) 0, b.getD i 0)

/-- Operands of one member of an operation: rows of A, its columns of B, the scales and indices (R246, R247), and the addresses of the scale arrays. -/
structure MxData where
  form : MxForm
  k : Nat
  n : Nat
  a : List (List Nat)
  b : List (List Nat)
  sa : Option (List Nat)
  sb : Option (List Nat)
  idx : List (Option (List Nat))
  deriving DecidableEq, Repr

/-- What accumulating an element answers: its value, the SAT, INV and OVF it meets, and the invalid scales it meets: whether A's, and their index. -/
structure MxElem where
  v : Nat
  sat : Bool
  inv : Bool
  ovf : Bool
  bad : List (Bool × Nat)
  deriving DecidableEq, Repr

/-- Element (m, c) of the operation from its incoming value (R245, R246). -/
def MxData.elem (d : MxData) (m c acc : Nat) : MxElem :=
  let nb := d.k / 32
  let a := d.a.getD m []
  let b := d.b.getD c []
  (List.range (d.k / d.form.g)).foldl (fun x g =>
    let ps := groupPairs d.form.g d.n (d.idx.getD c none) a b g
    if 2 ≤ d.form.mode then
      let r := accInt d.form.mode x.v ((ps.map fun p => d.form.a.ival p.1 * d.form.b.ival p.2).sum)
      { x with v := r.1, sat := x.sat || r.2 }
    else
      let sa := match d.sa with | some l => l.getD (m * nb + g) 0 | none => 0x3F800000
      let sb := match d.sb with | some l => l.getD (c * nb + g) 0 | none => 0x3F800000
      let bad := (if scaleOk sa then [] else [(true, m * nb + g)]) ++ (if scaleOk sb then [] else [(false, c * nb + g)])
      if bad ≠ [] then { x with bad := x.bad ++ bad }
      else
        let r := accFloat x.v (groupSum (mxHalf d.form.a) (ps.map fun p => (d.form.a.value p.1, d.form.b.value p.2))) (fF32.op .mul 0 0 sa sb).1
        { x with v := r.1, inv := x.inv || r.2.1, ovf := x.ovf || r.2.2 }) ⟨acc, false, false, false, []⟩

/-- Key of an element of a bank (R231). -/
def accKey (acc : Nat) (vis : Bool) (m c : Nat) : Nat := 512 * acc + 256 * vis.toNat + 8 * m + c

/-- The 64-bit image of an element (R55): an integer copies bit 55 upwards. DESIGN CHOICE: under the reserved ACCMODE 1, for which the spec gives no image, bits [63:56] are 0 as for a float (log entry 56). -/
def accImage (mode : Nat) (x : BitVec 56) : Nat := x.toNat + (if 2 ≤ mode ∧ x.getLsbD 55 then 0xFF * 2 ^ 56 else 0)

/-- Output formats of a drain (R253): code to type. -/
def drainTy (code : Nat) : Option ETy := if [0, 1, 2, 3, 4, 8, 10, 12].contains code then etyOf code else none
/-- Bytes of an output element. -/
def drainSize (ctl : W64) : Nat := if ctl.getLsbD 40 then 8 else match drainTy (bitsN ctl 47 44) with | some t => t.width / 8 | none => 1

/-- Is a drain control word at odds with R253 or R254, or with the accumulator's mode? -/
def drainBad (ctl rec_ : W64) (mode : Nat) : Bool :=
  let of := bitsN ctl 47 44
  let rnd := bitsN ctl 43 41
  mode == 1 || decide (4 < rnd) || bitsN ctl 63 48 % drainSize ctl != 0 ||
  (if ctl.getLsbD 40 then of != 0 || rnd != 0 || ctl.getLsbD 39
   else if mode = 0 then decide (4 < of) || (ctl.getLsbD 39 && decide (of < 3))
   else (of != 8 && of != 10 && of != 12) || ctl.getLsbD 39 || (of != 10 && rec_ == 0))

/-- Checks of `mdrain` (R253). -/
def mdrainCheck (c : MCmd) : Option Exn :=
  let ctl := c.w[2]
  let ok (x : Nat) : Bool := x == 0 || scaleOk x
  if drainBad ctl c.w[3] (mxMode c.mxfmt c.acc) then some ⟨0x14, ctl, 0⟩
  else if c.w[0].toNat % drainSize ctl ≠ 0 then some ⟨4, 0, c.w[0]⟩
  else if c.w[3].toNat % 64 ≠ 0 then some ⟨4, 0, c.w[3]⟩
  else if !ok (bitsN c.tscale 31 0) || !ok (bitsN c.tscale 63 32) then some ⟨0x15, c.tscale, 0⟩ else none

/-- A drained element in float mode (R253): its bits and DSAT. -/
def drainFloat (acc : Nat) (ta tb : Nat) (t : ETy) (rm : Nat) (nanm : Bool) : Nat × Bool :=
  let one (x : Nat) : Nat := if x = 0 then 0x3F800000 else x
  match t.float? with
  | none => (0, false)
  | some f =>
    let p := fvMul (fA56.dec acc) (fF32.dec (fF32.op .mul 0 0 (one ta) (one tb)).1)
    let r := f.put rm nanm (p.1, 0)
    (r.1, r.2 &&& fOF != 0)

/-- A drained element of column n in integer mode (R254): its bits and DSAT; `rec_` is the record. -/
def drainInt (acc : Nat) (t : ETy) (rec_ : List Byte) (n : Nat) : Nat × Bool :=
  let v := toSigned 56 acc
  let q : Int :=
    if t = .i32 then v
    else
      let p := v * toSigned 32 (leNat ((rec_.drop (4 * n)).take 4))
      let sh := (rec_.getD (32 + n) 0).toNat % 64
      let h := (p.natAbs + 2 ^ sh / 2) / 2 ^ sh
      (if p < 0 then -(h : Int) else h) + toSigned 16 (leNat ((rec_.drop (40 + 2 * n)).take 2))
  let c := max t.range.1 (min t.range.2 q)
  (ofSigned t.width c, c != q)

/-- Row m of a drain (R253, R254): its bytes and DSAT. -/
def drainRow (c : MCmd) (acc : List (Nat × BitVec 56)) (rec_ : List Byte) (m : Nat) : List Byte × Bool :=
  let ctl := c.w[2]
  let mode := mxMode c.mxfmt c.acc
  (List.range 8).foldl (fun (bs, sat) n =>
    let x := kget 0 acc (accKey c.acc true m n)
    if ctl.getLsbD 40 then (bs ++ leBytes 8 (accImage mode x), sat)
    else match drainTy (bitsN ctl 47 44) with
      | none => (bs, sat)
      | some t =>
        let r := if 2 ≤ mode then drainInt x.toNat t rec_ n
          else drainFloat x.toNat (bitsN c.tscale 31 0) (bitsN c.tscale 63 32) t (c.rnd - 1) (ctl.getLsbD 39)
        (bs ++ leBytes (t.width / 8) r.1, sat || r.2)) ([], false)

end Sys2Proof.Machine
end

