-- ==== Sys2Proof/Machine/MatrixOps.lean ====
section
/-! DEFINITION. Matrix commands as they run: queues and what a task left behind (R232, R260), gangs (R240, R241), link operands (R239), operations, drains and their counters (R251 to R255), pending faults (R256). -/
namespace Sys2Proof.Machine

/-- Owners of matrix queues on a core: its harts, and the tails of ended tasks (R260). -/
def State.mxOwners (s : State) (core : Nat) : List (Nat × List MCmd) :=
  ((List.range 4).map fun n => (hartOf core n, (s.getHart (hartOf core n)).mq)) ++
    ((s.cluster (core / 8)).tails.filter (·.core == core)).map fun t => (t.key, t.mq)

/-- Queue, accumulators and core of an owner: a hart, or a tail of a cluster. -/
def State.mxGet (s : State) (cl own : Nat) : List MCmd × List (Nat × BitVec 56) :=
  if own < 2 ^ 20 then ((s.getHart own).mq, (s.getHart own).acc)
  else match (s.cluster cl).tails.find? (·.key == own) with
    | some t => (t.mq, t.acc)
    | none => ([], [])

/-- Writes the queue and accumulators of an owner. -/
def State.mxPut (s : State) (cl own : Nat) (x : List MCmd × List (Nat × BitVec 56)) : State :=
  if own < 2 ^ 20 then s.setHart own { s.getHart own with mq := x.1, acc := x.2, aStall := none }
  else
    let c := s.cluster cl
    s.setCluster cl { c with tails := c.tails.map fun t => if t.key = own then { t with mq := x.1, acc := x.2 } else t }

/-- Sets MSTAT bits of an owner that is still a hart (R236). -/
def State.mxStat (s : State) (own : Nat) (bits : W64) : State :=
  if own < 2 ^ 20 ∧ bits ≠ 0 then s.setHart own ((s.getHart own).setReg .mstat ((s.getHart own).reg .mstat ||| bits)) else s

/-- A fault becomes pending on its hart (R256): the first records its cause, TRAPVAL and TRAPADDR. -/
def State.mxFault (s : State) (f : MxFault) : State :=
  if f.own < 2 ^ 20 then
    let h := s.getHart f.own
    let h1 := if bitsN (h.reg .mstat) 17 16 = 0 then ((h.setReg .mxcause (w64 f.cause)).setReg .mxval f.val).setReg .mxaddr f.addr else h
    s.setHart f.own (h1.setReg .mstat (h1.reg .mstat ||| (if f.cause = 0x15 then 0x20000 else 0x10000)))
  else s
/-- Several faults, the first one first. -/
def State.mxFaults (s : State) (l : List MxFault) : State := l.foldl State.mxFault s

/-- Is a core's slice free (R230)? -/
def State.sliceFree (s : State) (core : Nat) : Bool :=
  !((s.cluster (core / 8)).ops.any fun o => o.members.any (·.core == core)) && !s.dev.drains.any (·.core == core)

/-- May a command of an owner start? Not while its hart is being saved (R258, R346), and not while an older trap could discard it (R23). -/
def State.mxMoves (s : State) (own : Nat) (c : MCmd) : Bool :=
  decide (2 ^ 20 ≤ own) || ((match (s.getHart own).pre with | some p => p.st != .cut | none => true) && !(s.getHart own).discardable c.fno)

/-- Heads of a core's queues that may start. -/
def State.mxHeads (s : State) (core : Nat) : List (Nat × MCmd) :=
  (s.mxOwners core).filterMap fun p => match p.2 with
    | c :: _ => if s.mxMoves p.1 c then some (p.1, c) else none
    | [] => none

/-- The command that entered its queue earliest. -/
def oldestCmd (l : List (Nat × MCmd)) : Option (Nat × MCmd) :=
  l.foldl (fun b x => match b with | none => some x | some y => if x.2.age < y.2.age then some x else b) none

/-- Members of the operation with a gang mask, if it can form (R240): owner and command on each core, lowest core first. -/
def State.gang (s : State) (cl mask : Nat) : Option (List (Nat × Nat × MCmd)) :=
  ((List.range 8).filter fun i => (w64 mask).getLsbD i).foldr (fun i acc =>
    let core := 8 * cl + i
    match acc, s.sliceFree core, oldestCmd ((s.mxHeads core).filter fun p => p.2.kind == .mma && p.2.gang == mask) with
    | some l, true, some (o, c) => some ((core, o, c) :: l)
    | _, _, _ => none) (some [])

/-- Is no other head of the core that can start older (R232)? Between two `mma` the oldest command of their gangs decides instead (R240). -/
def State.mxFirst (s : State) (core : Nat) (c : MCmd) : Bool :=
  (s.mxHeads core).all fun p => decide (c.age ≤ p.2.age) || (p.2.kind == .mma && (c.kind == .mma || (s.gang (core / 8) p.2.gang).isNone))

/-- The operation of a cluster that forms next (R240): of those whose members each may take their slice, the one that holds the oldest command. -/
def State.nextGang (s : State) (cl : Nat) : Option (List (Nat × Nat × MCmd)) :=
  let masks := ((List.range 8).flatMap fun i => ((s.mxHeads (8 * cl + i)).filter fun p => p.2.kind == .mma).map fun p => p.2.gang).eraseDups
  let age (l : List (Nat × Nat × MCmd)) : Nat := l.foldl (fun a p => min a p.2.2.age) (2 ^ 64)
  ((masks.filterMap (s.gang cl)).filter fun l => l.all fun p => s.mxFirst p.1 p.2.2).foldl (fun b l => match b with
    | none => some l
    | some x => if age l < age x then some l else b) none

/-- Words that an operand still takes from a link (R238, R239). -/
def linkNeed (d : W64) (rows kb : Nat) : Nat := if 2 ≤ dKind d then linkWords rows kb else 0

/-- A member as it joins: the lead's A words and its own B words are still to come. -/
def joinMember (lead : Bool) (core own : Nat) (c : MCmd) (now : W64) : MatMem :=
  let k := dK c.w[1]
  match mxForm c.mxfmt c.acc with
  | some x => ⟨own, core, c, [], if lead then linkNeed c.w[1] 32 (rowBytes x.a k) else 0, [], linkNeed c.w[3] 8 (colBytes x.b c.mxfmt k), now⟩
  | none => ⟨own, core, c, [], 0, [], 0, now⟩

/-- GANG_FORM (R240, R382): once every slice of the gang is enabled, the members' commands leave their queues and their slices are taken. -/
def execGangForm (cl : Nat) (s : State) : Out :=
  match s.nextGang cl with
  | none => .next s
  | some l =>
    if l.any fun p => decide ((s.cluster cl).slices ≤ p.1 % 8) then .next s
    else
    let (id, s1) := s.stamp
    let lead := (l.head?.map Prod.fst).getD 0
    let s2 := l.foldl (fun t p => let q := t.mxGet cl p.2.1; t.mxPut cl p.2.1 (q.1.drop 1, q.2)) s1
    let ms := l.map fun p => joinMember (p.1 == lead) p.1 p.2.1 p.2.2 s.clk
    .next (s2.setCluster cl { s2.cluster cl with ops := (s2.cluster cl).ops ++ [⟨id, ms⟩], mxBusy := s.clk })

/-- Do the members of an operation disagree in K or AFMT (R241)? -/
def MatOp.mismatch (o : MatOp) : Bool :=
  match o.members with
  | [] => false
  | l :: ms => ms.any fun m => dK m.cmd.w[1] != dK l.cmd.w[1] || bitsN m.cmd.mxfmt 19 16 != bitsN l.cmd.mxfmt 19 16

/-- Has pre-emption been asked for a hart of the operation (R239)? -/
def State.gangPre (s : State) (o : MatOp) : Bool := o.members.any fun m => decide (m.own < 2 ^ 20) && (s.getHart m.own).pre.isSome

/-- A link read ends not-ready: LNKSTAT and MSTAT.LNR (R185, R239). -/
def State.linkLost (s : State) (core own : Nat) (west : Bool) : State :=
  let x := s.core core
  (s.setCore core { x with lnkerr := x.lnkerr ||| (if west then 2 else 1) }).mxStat own 0x80000

/-- One operand of a member takes the words that its link holds (R239): the words so far, those still to come, the state, and when it last took one. `now_` ends the wait at once. -/
def State.pump (s : State) (core own : Nat) (d : W64) (now_ : Bool) : Nat → List W64 → Nat → W64 → List W64 × Nat × State × W64
  | 0, ws, need, since => (ws, need, s, since)
  | fuel + 1, ws, need, since =>
    let west := dKind d == 2
    let fwd := d.getLsbD 59
    if need = 0 then (ws, 0, s, since)
    else
      let side := if ((s.core core).link west).isEmpty then west else !west
      match (s.core core).link west with
      | v :: rest =>
        if !fwd || s.linkRoom core (!west) then
          let x := s.core core
          let t := s.setCore core (x.setLink west rest)
          (if fwd then t.linkPush core (!west) v else t).pump core own d now_ fuel (ws ++ [v]) (need - 1) s.clk
        else if now_ || s.linkDead core side since then (ws, 0, s.linkLost core own side, since)
        else (ws, need, s, since)
      | [] =>
        if now_ || s.linkDead core side since then (ws, 0, s.linkLost core own side, since) else (ws, need, s, since)
/-- A member reads its link operands, A before B. -/
def State.pumpMember (s : State) (m : MatMem) (now_ : Bool) : MatMem × State :=
  let a := s.pump m.core m.own m.cmd.w[1] now_ 64 m.la m.na m.since
  if a.2.1 ≠ 0 then ({ m with la := a.1, na := a.2.1, since := a.2.2.2 }, a.2.2.1)
  else
    let b := a.2.2.1.pump m.core m.own m.cmd.w[3] now_ 64 m.lb m.nb a.2.2.2
    ({ m with la := a.1, na := 0, lb := b.1, nb := b.2.1, since := b.2.2.2 }, b.2.2.1)

/-- Every member reads its link operands. -/
def State.pumpAll (s : State) (now_ : Bool) : List MatMem → List MatMem × State
  | [] => ([], s)
  | m :: ms =>
    let r := s.pumpMember m now_
    let q := r.2.pumpAll now_ ms
    (r.1 :: q.1, q.2)

/-- Indices of the stored values of B's columns (R247): nibbles, the low one first. -/
def spIndices (bs : List Byte) (per : Nat) : List (Option (List Nat)) :=
  (List.range 8).map fun c => some (elemsOf 4 (2 * per) (leNat ((bs.drop (c * per)).take per)))

/-- A part of the array of an operand's scales or indices. -/
def State.mxWords (s : State) (own : Nat) (c : MCmd) (used : Bool) (a : W64) (n : Nat) : MxRead :=
  if used then s.mxReads own c a [(bitsN a 17 0, n)] else ⟨[], [], s, none⟩

/-- What a member does (R241 to R247): it reads its B, scales and indices, and accumulates into its working bank. -/
def State.mxMember (s : State) (cl : Nat) (lead : MatMem) (a : List (List Nat)) (sa : Option (List Nat)) (m : MatMem) : Except Held (State × List MxFault) :=
  let c := m.cmd
  let k := dK lead.cmd.w[1]
  match mxForm c.mxfmt c.acc with
  | none => .ok (s, [])
  | some x =>
    let kb := colBytes x.b c.mxfmt k
    let b := s.mxRows m.own c c.w[2] c.w[3] c.vb m.lb 8 kb
    let sb := b.st.mxWords m.own c (mxBsc c.mxfmt) c.scaleB (4 * 8 * (k / 32))
    let per := k * sparN c.mxfmt / 32
    let ix := sb.st.mxWords m.own c (mxSpar c.mxfmt != 0) c.smeta (8 * per)
    match (b.waits.orElse fun _ => sb.waits).orElse fun _ => ix.waits with
    | some w => .error w
    | none =>
      let d : MxData := ⟨{ x with a := (mxTy (bitsN lead.cmd.mxfmt 19 16)).getD x.a,
                                  g := if x.a = .l4 then (if sa.isSome ∨ mxBsc c.mxfmt = true then 32 else 64) else x.g }, k, sparN c.mxfmt, a,
        (List.range 8).map (rowElems x.b b.bytes kb), sa, if mxBsc c.mxfmt then some (scaleWords sb.bytes) else none,
        if mxSpar c.mxfmt = 0 then List.replicate 8 none else spIndices ix.bytes per⟩
      let q := ix.st.mxGet cl m.own
      let pos := (List.range 32).flatMap fun i => (List.range 8).map fun j => (i, j)
      let es := pos.map fun p => (p, d.elem p.1 p.2 (kget 0 q.2 (accKey c.acc false p.1 p.2)).toNat)
      let acc := es.foldl (fun t e => kset 0 t (accKey c.acc false e.1.1 e.1.2) (BitVec.ofNat 56 e.2.v)) q.2
      let bit (f : MxElem → Bool) (lo : Nat) : W64 := if es.any fun e => f e.2 then w64 (2 ^ (lo + c.acc)) else 0
      let bad := (es.flatMap fun e => e.2.bad).eraseDups
      let fs := bad.map fun p =>
        if p.1 then MxFault.mk lead.own 0x15 (w64 ((sa.getD []).getD p.2 0)) (lead.cmd.scaleA + w64 (4 * p.2))
        else MxFault.mk m.own 0x15 (w64 ((d.sb.getD []).getD p.2 0)) (c.scaleB + w64 (4 * p.2))
      .ok ((ix.st.mxPut cl m.own (q.1, acc)).mxStat m.own (bit MxElem.sat 28 ||| bit MxElem.inv 24 ||| bit MxElem.ovf 20),
        b.faults ++ sb.faults ++ ix.faults ++ fs)

/-- Members one after the other, up to an access that waits. -/
def State.mxMembers (s : State) (cl : Nat) (lead : MatMem) (a : List (List Nat)) (sa : Option (List Nat)) : List MatMem → Except Held (State × List MxFault)
  | [] => .ok (s, [])
  | m :: ms =>
    match s.mxMember cl lead a sa m with
    | .error w => .error w
    | .ok (t, f) => match t.mxMembers cl lead a sa ms with
      | .error w => .error w
      | .ok (u, g) => .ok (u, f ++ g)

/-- The whole operation (R241, R243 to R247). -/
def State.mxRun (s : State) (cl : Nat) (o : MatOp) : Except Held (State × List MxFault) :=
  match o.members with
  | [] => .ok (s, [])
  | l :: _ =>
    if o.mismatch then .ok (s, o.members.map fun m => ⟨m.own, 0x16, 1, 0⟩)
    else
      let c := l.cmd
      let k := dK c.w[1]
      match mxTy (bitsN c.mxfmt 19 16) with
      | none => .ok (s, [])
      | some t =>
        let kb := rowBytes t k
        let a := s.mxRows l.own c c.w[0] c.w[1] c.va l.la 32 kb
        let sa := a.st.mxWords l.own c (mxAsc c.mxfmt) c.scaleA (4 * 32 * (k / 32))
        match a.waits.orElse fun _ => sa.waits with
        | some w => .error w
        | none => match sa.st.mxMembers cl l ((List.range 32).map (rowElems t a.bytes kb)) (if mxAsc c.mxfmt then some (scaleWords sa.bytes) else none) o.members with
          | .error w => .error w
          | .ok (u, f) => .ok (u, a.faults ++ sa.faults ++ f)

/-- Frees what a tail still holds once its queue is empty and its operations are complete (R260). -/
def State.reapTails (s : State) (cl : Nat) : State :=
  (s.cluster cl).tails.foldl (fun t x =>
    let busy := !x.mq.isEmpty || ((t.cluster cl).ops.any fun o => o.members.any (·.own == x.key)) || t.dev.drains.any (·.own == x.key)
    if busy then t
    else
      let y := t.core x.core
      let t1 := t.setCore x.core { y with units := x.units.foldl (fun m u => kset .free m u .free) y.units }
      t1.setCluster cl { t1.cluster cl with tails := (t1.cluster cl).tails.filter (·.key != x.key) }) s

/-- The cluster that runs an operation. -/
def State.findOp (s : State) (k : Nat) : Option (Nat × MatOp) :=
  s.clus.findSome? fun (cl, c) => (c.ops.find? (·.id == k)).map fun o => (cl, o)

/-- MMA_COMPLETE (R242): an operation takes the link words that have come; with every operand there it accumulates and frees its slices. -/
def execMmaComplete (k : Nat) (s : State) : Out :=
  match s.findOp k with
  | none => .next s
  | some (cl, o) =>
    let r := if o.mismatch then (o.members, s) else s.pumpAll (s.gangPre o) o.members
    let o1 : MatOp := { o with members := r.1 }
    let drop (t : State) : State := t.setCluster cl { t.cluster cl with ops := (t.cluster cl).ops.filter (·.id != k), mxBusy := s.clk }
    let keep (t : State) : State := t.setCluster cl { t.cluster cl with ops := (t.cluster cl).ops.map fun x => if x.id = k then o1 else x }
    .next (if !o.mismatch && r.1.any (fun m => m.na + m.nb != 0) then keep r.2
    else match r.2.mxRun cl o1 with
      | .error w => (keep r.2).holdUp (.mma k) w
      | .ok (t, f) => ((drop t).mxFaults f).reapTails cl)

/-- The bank that an `mpre` loads (R251): a line that cannot be read loads as zero. -/
def State.mpreLines (s : State) (own : Nat) (c : MCmd) : Nat → Nat → MxRead
  | _, 0 => ⟨[], [], s, none⟩
  | i, n + 1 =>
    let a := c.w[0] + w64 (64 * i)
    match s.mxAccess c a 64 (·.engRead c.who a 64) with
    | .wait w => ⟨[], [], s, some w⟩
    | .ok bs t => let r := t.mpreLines own c (i + 1) n; { r with bytes := bs ++ r.bytes }
    | .fail _ t => let r := t.mpreLines own c (i + 1) n; { r with bytes := List.replicate 64 0 ++ r.bytes, faults := ⟨own, 0x16, 3, a⟩ :: r.faults }

/-- An accumulator map with a bank replaced; the words' bits [63:56] are ignored (R55). -/
def setBank (acc : List (Nat × BitVec 56)) (n : Nat) (vis : Bool) (words : List Nat) : List (Nat × BitVec 56) :=
  words.zipIdx.foldl (fun t (x, i) => kset 0 t (512 * n + 256 * vis.toNat + i) (BitVec.ofNat 56 x)) acc

/-- Exchange of the working and visible banks (R252). -/
def swapBanks (acc : List (Nat × BitVec 56)) : List (Nat × BitVec 56) :=
  acc.foldl (fun t (k, v) => kset 0 t (if k / 256 % 2 = 0 then k + 256 else k - 256) v) []

/-- Writes the lines of a drain's rows (R253, R255): ERR bits, faults, the write that waits. -/
def State.drainLines (s : State) (own : Nat) (c : MCmd) (a : W64) (bs : List Byte) : List (Nat × Nat) → Nat × List MxFault × State × Option Held
  | [] => (0, [], s, none)
  | (o, n) :: ps =>
    match s.mxAccess c (a + w64 o) n (·.engWrite c.who (a + w64 o) ((bs.drop o).take n)) with
    | .wait w => (0, [], s, some w)
    | .ok _ t => t.drainLines own c a bs ps
    | .fail b t => let r := t.drainLines own c a bs ps; (b ||| r.1, ⟨own, 0x16, 3, a + w64 o⟩ :: r.2.1, r.2.2)

/-- Writes the rows of a drain: ERR bits, faults, the write that waits, DSAT. -/
def State.drainRows (s : State) (own : Nat) (c : MCmd) (acc : List (Nat × BitVec 56)) (rec_ : List Byte) : List Nat → Nat × List MxFault × State × Option Held × Bool
  | [] => (0, [], s, none, false)
  | m :: ms =>
    let a := c.w[0] + w64 (m * bitsN c.w[2] 63 48)
    let row := drainRow c acc rec_ m
    let r := s.drainLines own c a row.1 (cutAt a row.1.length 64)
    if r.2.2.2.isSome then (0, [], s, r.2.2.2, false)
    else
      let q := r.2.2.1.drainRows own c acc rec_ ms
      (r.1 ||| q.1, r.2.1 ++ q.2.1, q.2.2.1, q.2.2.2.1, row.2 || q.2.2.2.2)

/-- A drain runs (R253 to R255): the record first, then the rows; its counter is updated when it completes. An access that waits is the error. -/
def State.drainRun (s : State) (core own : Nat) (c : MCmd) (acc : List (Nat × BitVec 56)) : Except Held State :=
  let rec_ : EngAns := if c.w[3] = 0 then .ok [] s else s.mxAccess c c.w[3] 64 (·.engRead c.who c.w[3] 64)
  let go (t : State) (bs : List Byte) (ctr : W64) (fs : List MxFault) : Except Held State :=
    let r := t.drainRows own c acc bs (List.range 32)
    match r.2.2.2.1 with
    | some w => .error w
    | none =>
      let u := (r.2.2.1.mxFaults (fs ++ r.2.1)).mxStat own (if r.2.2.2.2 then 0x40000 else 0)
      let (id, v) := u.stamp
      .ok { v with dev := { v.dev with drains := v.dev.drains ++ [⟨id, own, core, c, ctr, r.1⟩] } }
  match rec_ with
  | .wait w => .error w
  | .ok bs t => go t bs (putBits (w64 (leNat (bs.drop 56))) 2 0 0) []
  | .fail _ t =>
    let f : MxFault := ⟨own, 0x16, 3, c.w[3]⟩
    if 2 ≤ mxMode c.mxfmt c.acc then
      let (id, v) := (t.mxFault f).stamp
      .ok { v with dev := { v.dev with drains := v.dev.drains ++ [⟨id, own, core, c, 0, 0⟩] } }
    else go t [] 0 [f]

/-- The core of an owner's queue: a hart's, or a tail's. -/
def State.mxCore (s : State) (own : Nat) : Nat :=
  if own < 2 ^ 20 then coreOf own
  else ((s.clus.findSome? fun (_, c) => c.tails.find? (·.key == own)).map MxTail.core).getD 0

/-- MATRIX_COMMAND_START (R232, R251 to R253): the `mzero`, `mpre`, `mswap` or `mdrain` at the head of an owner's queue starts once the slice is free, and acts. The owner is a HARTID, or the key of what an ended task left. -/
def execMatrixCommandStart (own : Nat) (s : State) : Out :=
  let core := s.mxCore own
  let cl := core / 8
  match (s.mxGet cl own).1 with
  | [] => .next s
  | c :: rest =>
    let acc := (s.mxGet cl own).2
    let done (t : State) (a : List (Nat × BitVec 56)) : State := (t.mxPut cl own (rest, a)).reapTails cl
    .next (if c.kind = .mma ∨ !s.sliceFree core ∨ !s.mxFirst core c ∨ !s.mxMoves own c then s
    else match c.kind with
      | .mzero => done s (setBank acc c.acc false (List.replicate 256 0))
      | .mpre =>
        let r := s.mpreLines own c 0 32
        match r.waits with | some w => s.holdUp (.command own) w | none => done (r.st.mxFaults r.faults) (setBank acc c.acc false (elemsOf 64 256 (leNat r.bytes)))
      | .mswap => done s (swapBanks acc)
      | .mma => s
      | .mdrain => match s.drainRun core own c acc with
        | .error w => s.holdUp (.command own) w
        | .ok t => t.mxPut cl own (rest, acc))

/-- DRAIN_COMPLETE (R255): the record's counter counts 1 with the drain's ERR bits; a refused update is lost. -/
def execDrainComplete (k : Nat) (s : State) : Out :=
  match s.dev.drains.find? (·.id == k) with
  | none => .next s
  | some d =>
    let fin (t : State) : State := State.reapTails { t with dev := { t.dev with drains := t.dev.drains.filter (·.id != k) } } (d.core / 8)
    .next (if d.ctr = 0 then fin s
    else match s.mxAccess d.cmd d.ctr 8 (·.engAtomic d.cmd.who d.ctr 8 false fun x => counterAdd x 1 d.err) with
      | .ok _ t => fin t
      | .fail _ t => fin t
      | .wait w => s.holdUp (.drain k) w)

end Sys2Proof.Machine
end

