-- ==== Sys2Proof/Machine/MatrixInstr.lean ====
section
/-! DEFINITION. The instructions of the matrix array (R248 to R259) and its save area (R258, R259), which a hart context image contains too (R344). -/
namespace Sys2Proof.Machine

/-- A pending matrix fault is raised first, and SCF and OPF clear (R256). `go` is what the instruction does otherwise. -/
def State.mxRaise (s : State) (go : State → State) : State :=
  let st := s.csr .mstat
  if bitsN st 17 16 ≠ 0 then
    s.trapAWith ⟨(s.csr .mxcause).toNat, s.csr .mxval, s.csr .mxaddr⟩ fun t => t.mapHart (·.setReg .mstat (putBits st 17 16 0))
  else go s

/-- A pending matrix fault first (R256); then the matrix-context fault of a trap handler that has not saved the array (R257). `after` is the instruction's own effect. -/
def State.mxReady (s : State) (after : State → State) : State :=
  if s.ctl then s.illegalA
  else s.mxRaise fun s =>
    if 0 < s.hart.td ∧ (s.csr .mstat).getLsbD 15 = false then s.trapA ⟨0x13, s.hart.word0, 0⟩ else after s

/-- `mgang` (R249): neither queued nor waiting. -/
def execMgang (a : GReg) (s : State) : Out :=
  let m := bitsN (s.g a) 7 0
  .next (s.mxReady fun s =>
    if m ≠ 0 ∧ (w64 m).getLsbD (coreOf s.hid % 8) = false then s.trapA ⟨0x14, s.g a, 0⟩
    else (s.mapHart fun h => h.setReg .mstat (putBits (h.reg .mstat) 11 4 m)).retire)

/-- GANG that a command carries: 0 stands for the issuing core alone (R240). -/
def State.gangMask (s : State) : Nat :=
  let m := bitsN (s.csr .mstat) 11 4
  if m = 0 then 2 ^ (coreOf s.hid % 8) else m

/-- A command of the current hart with its operand registers and the sampled control registers (R234). DESIGN CHOICE: a command that samples none or not all of the five keeps their values as they stand in W5 to W9 (R258; log entry 56). -/
def State.mxCmd (s : State) (kind : MKind) (acc scope : Nat) (w : Vector W64 4) : MCmd :=
  { kind := kind, acc := acc, scope := scope, w := w
    mxfmt := s.csr .mxfmt, scaleA := s.csr .mxscalea, scaleB := s.csr .mxscaleb, smeta := s.csr .mxmeta, tscale := s.csr .mxtscale
    rnd := 0, gang := s.gangMask, age := 0, hart := s.hid, mode := BitVec.ofNat 2 s.hart.priv, part := s.part, va := [], vb := [], share := s.ownUnits
    fno := s.hart.fno }

/-- The four words of operand registers: a pair from each of two registers (R237). -/
def State.mxPairs (s : State) (a b : GReg) : Vector W64 4 := ⟨#[s.g a, s.g (a + 1), s.g b, s.g (b + 1)], rfl⟩
/-- One operand register; the other words are zero. -/
def mxOne (x : W64) : Vector W64 4 := ⟨#[x, 0, 0, 0], rfl⟩

/-- Enters the queue of 8 (R232); a full queue waits. `fill` completes the command when it is queued. -/
def State.mxQueue (s : State) (c : MCmd) (fill : State → MCmd → MCmd) : State :=
  if 8 ≤ s.hart.mq.length then s.waitA .other
  else
    let (n, t) := s.stamp
    (t.mapHart fun h => { h with mq := h.mq ++ [fill s { c with age := n }] }.capCount 9).retire

/-- Enters the queue after the release of a push (R217). -/
def State.mxPush (s : State) (c : MCmd) (fill : State → MCmd → MCmd) : State :=
  s.whenReleased (if c.scope = 0 then .hart else .dev) (·.mxQueue c fill)

/-- The matrix-context fault of an accumulator that the task does not hold (R231). -/
def State.mxHolds (s : State) (acc : BitVec 2) (after : State → State) : State :=
  if s.hart.accUnits ≤ acc.toNat then s.trapA ⟨0x13, s.hart.word0, 0⟩ else after s

/-- The v registers of a KIND 1 operand (R238). -/
def Hart.vCopy (h : Hart) (base d : W64) (n : Nat) : List V512 :=
  if dKind d = 1 then (List.range n).map fun i => h.rv (BitVec.ofNat 5 (base.toNat + i)) else []

/-- `mma` (R250): the first fault found is raised precisely; the operands in v registers are copied (R238). -/
def execMma (sc : Scope) (a b : GReg) (n : BitVec 2) (s : State) : Out :=
  .next (s.mxReady fun s => s.mxHolds n fun s =>
    let c := s.mxCmd .mma n.toNat sc.code (s.mxPairs a b)
    match s.mmaCheck c with
    | some e => s.trapA e
    | none => s.mxPush c fun t c => { c with va := t.hart.vCopy c.w[0] c.w[1] 16, vb := t.hart.vCopy c.w[2] c.w[3] 4 })

/-- `mzero` (R251): it touches no memory and releases nothing. -/
def execMzero (n : BitVec 2) (s : State) : Out :=
  .next (s.mxReady fun s => s.mxHolds n fun s => s.mxQueue (s.mxCmd .mzero n.toNat 0 (mxOne 0)) fun _ c => c)

/-- `mpre` (R251). -/
def execMpre (sc : Scope) (a : GReg) (n : BitVec 2) (s : State) : Out :=
  .next (s.mxReady fun s => s.mxHolds n fun s =>
    if (s.g a).toNat % 64 ≠ 0 then s.misaligned (s.g a)
    else s.mxPush (s.mxCmd .mpre n.toNat sc.code (mxOne (s.g a))) fun _ c => c)

/-- `mswap` (R252): it orders no memory access. -/
def execMswap (s : State) : Out := .next (s.mxReady fun s => s.mxQueue (s.mxCmd .mswap 0 0 (mxOne 0)) fun _ c => c)

/-- `mdrain` (R253): RND 0 takes FMODE.RM now. DESIGN CHOICE: of its words W1 to W4 (R258), which no rule assigns, W1 is g[gs1], W2 is 0, W3 the control word and W4 the record's address (log entry 56). -/
def execMdrain (sc : Scope) (a b : GReg) (n : BitVec 2) (s : State) : Out :=
  .next (s.mxReady fun s => s.mxHolds n fun s =>
    let ctl := s.g b
    let c0 := s.mxCmd .mdrain n.toNat sc.code ⟨#[s.g a, 0, ctl, s.g (b + 1)], rfl⟩
    let c := { c0 with rnd := if bitsN ctl 43 41 = 0 then bitsN (s.csr .fmode) 1 0 + 1 else bitsN ctl 43 41 }
    match mdrainCheck c with
    | some e => s.trapA e
    | none => s.mxPush c fun _ c => c)

/-- FUNC of a queued command (R248). -/
def MKind.func : MKind → Nat
  | .mma => 1 | .mzero => 2 | .mpre => 3 | .mswap => 4 | .mdrain => 5
/-- The command of a FUNC. -/
def mkindOf : Nat → Option MKind
  | 1 => some .mma | 2 => some .mzero | 3 => some .mpre | 4 => some .mswap | 5 => some .mdrain | _ => none

/-- The ten words of a withdrawn command (R258). -/
def MCmd.words (c : MCmd) : List W64 :=
  w64 (c.kind.func + c.acc * 2 ^ 7 + c.scope * 2 ^ 19 + c.rnd * 2 ^ 22) :: c.w.toList ++ [c.mxfmt, c.scaleA, c.scaleB, c.smeta, c.tscale]

/-- Bytes of 64-bit words. -/
def wordBytes (l : List W64) : List Byte := l.flatMap fun x => leBytes 8 x.toNat
/-- Pads with zero bytes to a length. -/
def padTo (n : Nat) (l : List Byte) : List Byte := l.take n ++ List.replicate (n - l.length) 0

/-- Both banks of an accumulator as 4,096 bytes (R231, R258). -/
def bankBytes (acc : List (Nat × BitVec 56)) (mxfmt : W64) (n : Nat) : List Byte :=
  (List.range 512).flatMap fun i => leBytes 8 (accImage (mxMode mxfmt n) (kget 0 acc (512 * n + i)))

/-- Bytes of the save area (R258). -/
def mxAreaLen (n : Nat) : Nat := 11264 + 4096 * n

/-- The save area of a hart (R258). -/
def Hart.mxArea (h : Hart) : List Byte :=
  let st := h.reg .mstat
  let pend := bitsN st 17 16 != 0
  let n := h.accUnits
  padTo 64 (wordBytes [w64 (bitsN st 11 4 * 16 + h.mq.length), putBits (putBits st 15 15 0) 3 0 0,
      if pend then h.reg .mxval else 0, if pend then h.reg .mxaddr else 0]) ++
    padTo 960 (h.mq.flatMap fun c => wordBytes c.words) ++
    ((List.range n).flatMap (bankBytes h.acc (h.reg .mxfmt))) ++
    padTo 10240 (h.mq.flatMap fun c =>
      padTo 1024 (c.va.flatMap fun v => leBytes 64 v.toNat) ++ padTo 256 (c.vb.flatMap fun v => leBytes 64 v.toNat))

/-- 64-bit word i of bytes. -/
def areaWord (bs : List Byte) (i : Nat) : W64 := w64 (leNat ((bs.drop (8 * i)).take 8))

/-- 512-bit values of bytes. -/
def vectors (bs : List Byte) : List V512 := (List.range (bs.length / 64)).map fun i => v512 ((bs.drop (64 * i)).take 64)

/-- The word of a save area that fails the checks of R259. DESIGN CHOICE: the words that count are the state word and W0 of each command that it holds; bytes 32 to 63, reserved bits of the MSTAT copy and unused command slots do not (log entry 56). -/
def mxAreaBad (bs : List Byte) : Option W64 :=
  let w0 := areaWord bs 0
  if 8 < bitsN w0 3 0 ∨ bitsN w0 63 12 ≠ 0 then some w0
  else (List.range (bitsN w0 3 0)).findSome? fun i =>
    let x := areaWord bs (8 + 10 * i)
    let r := bitsN x 24 22
    let f := bitsN x 5 0
    if f = 0 ∨ 5 < f ∨ bitsN x 63 25 ≠ 0 ∨ bitsN x 18 9 ≠ 0 ∨ x.getLsbD 6 = true ∨ (f = 5 ∧ (r = 0 ∨ 4 < r)) ∨ (f ≠ 5 ∧ r ≠ 0) then some x else none

/-- Withdrawn command i of an area, for a hart that holds n accumulators, with the privilege mode of its push (R259). -/
def State.areaCmd (s : State) (bs : List Byte) (n age mode i : Nat) : MCmd :=
  let w (j : Nat) : W64 := areaWord bs (8 + 10 * i + j)
  let x := w 0
  let cp := (bs.drop (1024 + 4096 * n + 1280 * i)).take 1280
  let gang := bitsN (areaWord bs 0) 11 4
  { kind := (mkindOf (bitsN x 5 0)).getD .mzero, acc := bitsN x 8 7, scope := bitsN x 21 19
    w := ⟨#[w 1, w 2, w 3, w 4], rfl⟩, mxfmt := w 5, scaleA := w 6, scaleB := w 7, smeta := w 8, tscale := w 9
    rnd := bitsN x 24 22, gang := if gang = 0 then 2 ^ (coreOf s.hid % 8) else gang, age := age, hart := s.hid
    mode := BitVec.ofNat 2 mode, part := s.part, share := s.ownUnits, fno := 0
    va := if dKind (w 2) = 1 then vectors (cp.take 1024) else [], vb := if dKind (w 4) = 1 then vectors (cp.drop 1024) else [] }

/-- The mode in which the code pushed that a handler interrupted, or the mode itself outside one (R257): while the array of interrupted code is not saved, or once it is given back, its commands are those of STATUS.PPRIV. -/
def Hart.pushMode (h : Hart) : Nat := if 0 < h.td then bitsN (h.reg .status) 8 7 else h.priv

/-- Loads a save area (R259): banks, MSTAT with GANG and without SAVED, the pending fault, the withdrawn commands as pushed in a mode. -/
def State.loadArea (s : State) (bs : List Byte) (mode : Nat) : State :=
  let n := s.hart.accUnits
  let w0 := areaWord bs 0
  let st := putBits (putBits (areaWord bs 1 &&& 0xFFFF0000) 15 15 0) 11 4 (bitsN w0 11 4)
  let words (o : Nat) : List Nat := elemsOf 64 256 (leNat ((bs.drop o).take 2048))
  let acc := (List.range n).foldl (fun t i => setBank (setBank t i false (words (1024 + 4096 * i))) i true (words (3072 + 4096 * i))) s.hart.acc
  let cnt := min 8 (bitsN w0 3 0)
  let age := s.dev.stamp
  let s1 := { s with dev := { s.dev with stamp := age + cnt } }
  let cmds := (List.range cnt).map fun i => s.areaCmd bs n (age + i) mode i
  s1.mapHart fun h =>
    ({ h with acc := acc, mq := cmds } : Hart).setReg .mstat st |>.setReg .mxval (areaWord bs 2) |>.setReg .mxaddr (areaWord bs 3)
      |>.setReg .mxcause (if bitsN st 17 16 = 0 then 0 else if st.getLsbD 17 then 0x15 else 0x16)

/-- Has the hart a matrix operation that has started and not completed (R258)? -/
def State.mxRunning (s : State) (id : Nat) : Bool :=
  ((s.cluster (clusOf id)).ops.any fun o => o.members.any (·.own == id)) || s.dev.drains.any (·.own == id)

/-- What a store or load of a range by the hart itself answers. -/
inductive RangeAns where
  | ok (bs : List Byte) (s : State)
  | trap (e : Exn) (s : State)
  | wait (s : State)

/-- The lines of a range, 64 B each. -/
def rangeLines (a : W64) (n : Nat) : List W64 := (List.range (n / 64)).map fun i => a + w64 (64 * i)

/-- Stores of a quiet hart to a range of 64 B lines, performed in order; the first that traps ends them (R351). -/
def State.storeLines (s : State) (bs : List Byte) : List W64 → RangeAns
  | [] => .ok [] s
  | a :: as =>
    match s.access s.me a 64 .write with
    | .trap e => .trap e (s.walked s.part a)
    | .wait => .wait (s.held a 64 .write)
    | .ok l pte =>
      let buf := s.hart.isBuffered && !a.getLsbD 63
      let adm := match l with | .remote _ _ => Config.remoteAccepts s.fv | _ => true
      let s0 := match l with | .remote _ _ => s.nextFv.2 | _ => s
      if !adm then .trap (remoteDeny s.fv .write a) s0
      else
        ((if buf then s0 else s0.walkNow a .write pte).performStore ⟨l, a, bs.take 64, s.hart.fno, false, buf, false, false⟩).storeLines (bs.drop 64) as

/-- Loads of a quiet hart from a range of 64 B lines. -/
def State.loadLines (s : State) : List W64 → RangeAns
  | [] => .ok [] s
  | a :: as =>
    match s.readA a 64 with
    | .trap e t => .trap e t
    | .wait t => .wait t
    | .ok bs t => match t.loadLines as with
      | .ok cs u => .ok (bs ++ cs) u
      | r => r

/-- Would stores to a range need more lines than the commit buffer holds (R162)? -/
def Hart.overflows (h : Hart) (ls : List W64) : Bool :=
  h.isBuffered && decide (1024 < (h.cbufLines ++ (ls.filter fun (a : W64) => !a.getLsbD 63).map fun (a : W64) => a.toNat / 64).eraseDups.length)

/-- A store of a range by the current hart, all of it or a trap: the commit buffer's overflow discards the task (R162). -/
def State.storeRange (s : State) (a : W64) (bs : List Byte) (done : State → State) : State :=
  let ls := rangeLines a bs.length
  if s.hart.overflows ls then s.discardTask s.hid true
  else s.whenClear a bs.length fun s => match s.storeLines bs ls with
    | .ok _ t => done t
    | .trap e t => t.trapA e
    | .wait t => t.waitA .other

/-- `mxsave` (R258): waits for started operations, writes the area, withdraws the commands, sets SAVED. -/
def execMxsave (a : GReg) (s : State) : Out :=
  .next (if s.ctl then s.illegalA
    else if (s.csr .mstat).getLsbD 15 then s.trapA ⟨0x13, s.hart.word0, 0⟩
    else if (s.g a).toNat % 64 ≠ 0 then s.misaligned (s.g a)
    else s.whenQuiet fun s =>
      if s.mxRunning s.hid then s.waitA .other
      else s.storeRange (s.g a) s.hart.mxArea fun t =>
        (t.mapHart fun h => ({ h with mq := [] } : Hart).setReg .mstat (putBits (h.reg .mstat) 15 15 1)).retire)

/-- `mxrest` (R259): waits until the queue is empty, checks the area, restores it. -/
def execMxrest (a : GReg) (s : State) : Out :=
  .next (if s.ctl then s.illegalA
    else if (s.g a).toNat % 64 ≠ 0 then s.misaligned (s.g a)
    else s.whenQuiet fun s =>
      if !s.hart.mq.isEmpty || s.mxRunning s.hid then s.waitA .other
      else s.whenClear (s.g a) (mxAreaLen s.hart.accUnits) fun s => match s.loadLines (rangeLines (s.g a) (mxAreaLen s.hart.accUnits)) with
        | .trap e t => t.trapA e
        | .wait t => t.waitA .other
        | .ok bs t => match mxAreaBad bs with
          | some x => t.trapA ⟨0x14, x, 0⟩
          | none => (t.loadArea bs t.hart.pushMode).retire)

end Sys2Proof.Machine
end

