-- ==== Sys2Proof/Machine/Migration.lean ====
section
/-! DEFINITION. Host and device migration (R365, R366). A hart's MIGREQ holds the request: [63] answered, [62] pending, [51:16] frame, [2:0] result. -/
namespace Sys2Proof.Machine

/-- Sets a bit of a hart's INTPEND (R341). -/
def State.setPend (s : State) (id bit : Nat) : State :=
  let h := s.getHart id
  s.setHart id (h.setReg .intpend (h.reg .intpend ||| w64 (2 ^ bit)))

/-- The migration slot of a device frame (R365). -/
def migSlot (pa : Nat) : Nat := regBase (homeDie pa) + 0x8000000 + 16 * (pa % 0x3000000000 / 65536)

/-- The home controller applies a request in a direction, 0 towards the device (R366): its result. Recording sets INTPEND.SOFT on control hart 0 of the home die. -/
def State.migApply (s : State) (pa dir : Nat) : Nat × State :=
  if !isDevMem pa then (3, s)
  else
    let b := migSlot pa
    let w := s.getReg b
    if !w.getLsbD 60 then (3, s)
    else if w.getLsbD 63 then (1, s)
    else if dir ≠ bitsN w 61 61 ∧ s.clk < s.getReg (b + 8) then (2, s)
    else (0, (s.setReg b (putBits w 63 62 (2 + dir))).setPend (ctlHart (homeDie pa) 0) 0)

/-- A device-side request (R366): recorded or lost it stays pending until that migration completes. One that is not lost is noted, because a request of the host in the same clk still goes before it. -/
def State.migRequest (s : State) (v : W64) : State :=
  let pa := bitsN v 51 16 * 65536
  let (r, s0) := s.migApply pa 0
  let note : List (Nat × W64 × Nat) := if r = 0 ∨ r = 2 then [(pa / 65536, s.clk, s.hid)] else []
  let s1 : State := { s0 with dev := { s0.dev with migs := note ++ s0.dev.migs.filter (·.2.1 == s.clk) } }
  s1.mapHart (·.setReg .migreq (w64 ((if r ≤ 1 then 2 ^ 62 else 2 ^ 63) + pa + r)))

/-- MIGREQ_WRITE (R366). -/
def execMigreqWrite (v : W64) (s : State) : Out := .next (s.migRequest v)

/-- What a `csrr` of MIGREQ returns; `none` while the request is pending (R366). -/
def Hart.migAnswer (h : Hart) : Option W64 :=
  let x := h.reg .migreq
  if x.getLsbD 62 then none else some (w64 (bitsN x 63 63 * 2 ^ 63 + bitsN x 2 0))

/-- A `csrr` of MIGREQ (R366, R104). -/
def State.migRead (s : State) (d : GReg) : State :=
  match s.hart.migAnswer with
  | none => s.waitA .other
  | some x => s.retireG d x

/-- MIGREQ_READ (R366): the A word of the frame at PC completes with the answer. -/
def execMigreqRead (d : GReg) (s : State) : Out := .next (s.migRead d)

/-- A request of a hart for a frame turns out lost to the host's of the same clk (R366): it is pending until that migration completes. -/
def Hart.migLost (h : Hart) (pa : Nat) : Hart :=
  if bitsN (h.reg .migreq) 51 16 * 65536 == pa then h.setReg .migreq (w64 (2 ^ 62 + pa + 1)) else h

/-- HOST_MIGREQ (R366): a request towards the host, which goes before the device requests of the same clk. -/
def execHostMigreq (die : BitVec 2) (v : W64) (s : State) : Out :=
  let pa := bitsN v 51 16 * 65536
  let s0 := s.setReg (hostPage die.toNat + 0x1010) v
  let w := s.getReg (migSlot pa)
  let same := (s.dev.migs.filter fun m => m.1 == pa / 65536 && m.2.1 == s.clk).map (·.2.2)
  let lose (t : State) : State := same.foldl (fun u id => u.setHart id ((u.getHart id).migLost pa)) { t with dev := { t.dev with migs := t.dev.migs.filter (·.1 != pa / 65536) } }
  let held := w.getLsbD 61 = false ∧ s.clk < s.getReg (migSlot pa + 8)
  .next (if w.getLsbD 63 = true ∧ w.getLsbD 62 = false ∧ same.isEmpty = false ∧ ¬held then lose (s0.setReg (migSlot pa) (putBits w 62 62 1))
    else
      let r := s0.migApply pa 1
      if r.1 = 0 then lose r.2 else r.2)

/-- MIGREQ when the migration of a frame completes (R366): a pending request for it is answered. -/
def migAnswered (x : W64) (pa : Nat) : W64 := if x.getLsbD 62 && bitsN x 51 16 * 65536 == pa then putBits x 63 62 2 else x
/-- A pending request of a hart for a frame is answered, and a `csrr` that waits looks again. -/
def Hart.migDone (h : Hart) (pa : Nat) : Hart :=
  if migAnswered (h.reg .migreq) pa = h.reg .migreq then h else { h.setReg .migreq (migAnswered (h.reg .migreq) pa) with aStall := none }

/-- Moves a page between its device frame and its host frame (R366): requests at the controllers (R207); a word that is uncorrectable retires its frame (R343), and its bytes are free values. -/
def State.movePage (s : State) (src dst : Nat) : State :=
  let (f, t) := s.nextFv
  ((t.count src 65536).retireBad src 65536).storeAt (.mem dst) (s.rdFree f src 65536) false

/-- MIGRATION_COMPLETE (R366), for a frame PA / 65536: the page moves unless DIR already equals RES; then ACTIVE := 0, RES := DIR, HOLD := CYCLE + 460,800, and the requests that wait for it are answered. -/
def execMigrationComplete (frame : Nat) (s : State) : Out :=
  let pa := frame * 65536
  let b := migSlot pa
  let w := s.getReg b
  .next (if !isDevMem pa || !w.getLsbD 63 then s
    else
      let host := 0x8000000000000 + bitsN w 50 16 * 65536
      let s1 := if w.getLsbD 62 = w.getLsbD 61 then s else if w.getLsbD 62 then s.movePage pa host else s.movePage host pa
      let s2 := (s1.setReg b (putBits (putBits w 63 63 0) 61 61 (bitsN w 62 62))).setReg (b + 8) (s.after 460800)
      { s2.mapEntries (fun _ => true) fun e => { e with migreq := migAnswered e.migreq pa } with
        hart := s2.hart.migDone pa, others := s2.others.map fun (i, h) => (i, h.migDone pa) })

end Sys2Proof.Machine
end

