-- ==== Sys2Proof/Machine/Csr.lean ====
section
/-! DEFINITION. The control registers (R9 to R13, R72, R87, R99, R156, R176, R185, R194, R201, R234 to R236, R271, R340, R341, R354, R366): numbers, access rights, reads and writes. -/
namespace Sys2Proof.Machine

/-- May a control register be written from a mode: `none` where the number is unassigned or out of reach (R9). -/
def csrAccess (ctl : Bool) (priv : Nat) (n : Nat) : Option Bool :=
  let sup := priv != 0
  if n ≤ 0x002 ∨ n = 0x017 ∨ n = 0x018 ∨ (0x150 ≤ n ∧ n ≤ 0x155) ∨ n = 0x160 then some true
  else if (0x003 ≤ n ∧ n ≤ 0x005) ∨ (0x010 ≤ n ∧ n ≤ 0x015) ∨ n = 0x019 ∨ (0x161 ≤ n ∧ n ≤ 0x167) then some false
  else if n = 0x101 ∨ n = 0x016 then some sup
  else if n = 0x141 then some (ctl && priv == 3)
  else if n = 0x120 ∨ n = 0x121 then if ctl && priv == 3 then some true else none
  else if n = 0x100 ∨ (0x102 ≤ n ∧ n ≤ 0x10C) ∨ (0x130 ≤ n ∧ n ≤ 0x137) ∨ n = 0x140 ∨ n = 0x142 ∨ n = 0x143 then
    if sup then some true else none
  else none

/-- Registers that a hart holds as stored, by number; those of a trap bank are the current mode's (R9). -/
def csrHeld (priv n : Nat) : Option HReg :=
  match n with
  | 0x000 => some .fflags
  | 0x001 => some .fmode
  | 0x002 => some .lperm
  | 0x012 => some .spbase
  | 0x013 => some .splen
  | 0x014 => some .handin
  | 0x015 => some .handlen
  | 0x100 => some .status
  | 0x101 => some .vshare
  | 0x102 => some (bank priv).tvec
  | 0x103 => some (bank priv).cause
  | 0x104 => some (bank priv).pc
  | 0x105 => some (bank priv).val
  | 0x106 => some (bank priv).addr
  | 0x107 => some (bank priv).npc
  | 0x108 => some (bank priv).rep
  | 0x10A => some .inten
  | 0x10B => some .timecmp
  | 0x10C => some .ctxptr
  | 0x120 => some .bdsel
  | 0x150 => some .mxfmt
  | 0x151 => some .mxscalea
  | 0x152 => some .mxscaleb
  | 0x153 => some .mxtscale
  | 0x154 => some .mxmeta
  | 0x160 => some .capsel
  | 0x161 => some .capstat
  | 0x162 => some .capctr0
  | 0x163 => some .capctr1
  | 0x164 => some .capctr2
  | 0x165 => some .capctr3
  | 0x166 => some .capclk
  | 0x167 => some .capptr
  | _ => none

/-- RW and W1C bits of a control register (R5); the other bits of a held register are reserved or read-only. -/
def csrMask (ctl : Bool) (n : Nat) : W64 × W64 :=
  match n with
  | 0x000 => (0x1F, 0)
  | 0x001 => (0x3, 0)
  | 0x002 => (0xFFFFFF, 0)
  | 0x016 => (0xFFFF, 0)
  | 0x017 => (0, 0x3)
  | 0x018 => (0, 0xF00000)
  | 0x100 => (0x998, 0)
  | 0x101 => (0xF, 0)
  | 0x102 => (~~~0x3F, 0)
  | 0x103 => (0xFF, 0)
  | 0x104 => (~~~0x7, 0)
  | 0x107 => (~~~0x7, 0)
  | 0x108 => (0x7F, 0)
  | 0x109 => (0, if ctl then 0x11 else 0x1)
  | 0x10A => (if ctl then 0x3F else 0x3, 0)
  | 0x120 => (0xFF, 0)
  | 0x140 => (0x000FFFFFFFFFF000, 0)
  | 0x141 => (0x3F, 0)
  | 0x142 => (~~~0x3F, 0)
  | 0x150 => (0xFFFFF, 0)
  | 0x155 => (0, 0xFFFC0000)
  | 0x160 => (0xFFFFFFFF, 0)
  | _ => if 0x130 ≤ n ∧ n ≤ 0x137 then (0x8FC0000000007F3F, 0) else (~~~0, 0)

/-- QSTAT (R12). -/
def Hart.qstat (h : Hart) : W64 :=
  w64 (h.q.toList.zipIdx.foldl (fun a (x, i) => a + x.filled * 2 ^ (8 * i)) 0)

/-- Does some region whose first fault was reported to a die hold a non-zero FCAUSE (R163, R341)? -/
def State.regFault (s : State) (d : Nat) : Bool :=
  (s.die d).faulted.any s.faultOpen

/-- INTPEND of a hart (R341): SOFT and HOST are stored, the others are computed. -/
def State.intpend (s : State) (id : Nat) : W64 :=
  let h := s.getHart id
  let d := dieOf id
  let b (x : Bool) (i : Nat) : Nat := x.toNat * 2 ^ i
  let soft := b ((h.reg .intpend).getLsbD 0) 0
  let timer := b (decide (h.reg .timecmp ≤ s.clk)) 1
  if isControl id then
    w64 (soft + timer + b (s.regFault d) 2 + b ((s.getReg (regBase d + 0x2000018)).getLsbD 63) 3 +
      b ((h.reg .intpend).getLsbD 4) 4 + b ((s.getReg (obsBase d + 0x5000)).getLsbD 63) 5)
  else w64 (soft + timer)

/-- The full core-space form of SPBASE (R156, R190). -/
def spFull (id : Nat) (spbase : W64) : W64 :=
  if spbase = 0 then 0 else w64 (2 ^ 63 + coreOf id * 2 ^ 18 + spbase.toNat % 2 ^ 18)

/-- Key of the selected word of the die barrier table (R176). -/
def Hart.bdKey (h : Hart) : Nat := bitsN (h.reg .bdsel) 7 4 * 16 + bitsN (h.reg .bdsel) 3 0

/-- A control register as it reads (R9, R12). -/
def State.csrRead (s : State) (n : Nat) : W64 :=
  let h := s.hart
  let x := s.core (coreIx s.hid)
  match csrHeld h.priv n with
  | some r => h.reg r
  | none =>
    match n with
    | 0x003 => h.qstat
    | 0x004 => w64 h.bq.length
    | 0x005 => w64 h.loops.length
    | 0x010 => w64 s.hid
    | 0x011 => s.clk
    | 0x016 => x.lnkto
    | 0x017 => w64 (bitsN x.lnkerr 1 0 + x.east.length * 16 + x.west.length * 128)
    | 0x018 => w64 (bitsN (h.reg .cpystat) 23 20 * 2 ^ 20 + x.fifo.length * 4096 + x.infl)
    | 0x019 => if s.ctl then 0 else spFull s.hid (h.reg .spbase)
    | 0x109 => s.intpend s.hid
    | 0x121 => kget 0 (s.die (dieOf s.hid)).bdt h.bdKey
    | 0x140 => (s.prt s.part).ptroot
    | 0x141 => w64 s.part
    | 0x142 => (s.prt s.part).svec
    | 0x143 => (h.migAnswer).getD 0
    | 0x155 => w64 (bitsN (h.reg .mstat) 31 4 * 16 + h.mq.length)
    | _ => x.win[n - 0x130]?.getD 0

/-- Stores a control register's new value. DESIGN CHOICE: BDDATA while BDSEL names a word beyond 8 reads as 0 and drops the write (R176; log entry 44). -/
def State.csrStore (s : State) (n : Nat) (v : W64) : State :=
  let c := coreIx s.hid
  let x := s.core c
  let d := dieOf s.hid
  match n with
  | 0x016 => s.setCore c { x with lnkto := v }
  | 0x017 => s.setCore c { x with lnkerr := v &&& 3 }
  | 0x018 => s.mapHart (·.setReg .cpystat (v &&& 0xF00000))
  | 0x109 => s.mapHart (·.setReg .intpend (v &&& 0x11))
  | 0x121 =>
    let k := s.hart.bdKey
    let y := s.die d
    if 9 * 16 ≤ k then s else s.setDie d { y with bdt := kset 0 y.bdt k (if k < 16 then v &&& 0xC00000000000003F else v) }
  | 0x140 => s.setPrt s.part { s.prt s.part with ptroot := v }
  | 0x141 => s.mapHart (·.setReg .partid v)
  | 0x142 => s.setPrt s.part { s.prt s.part with svec := v }
  | 0x143 => s.migRequest v
  | 0x155 => s.mapHart (·.setReg .mstat (v &&& ~~~0xF))
  | _ =>
    match csrHeld s.hart.priv n with
    | some r => s.mapHart (·.setReg r v)
    | none => if 0x130 ≤ n ∧ n ≤ 0x137 then s.setCore c { x with win := x.win.setIfInBounds (n - 0x130) v } else s

/-- OP of an AC word that writes (R99). -/
inductive CsrOp where
  | write | set | clear
  deriving DecidableEq, Repr

/-- The value a write leaves (R5, R10, R99): W1C bits clear where `csrw` or `csrc` has a 1; a PPRIV of 2 leaves PPRIV. -/
def csrNew (ctl : Bool) (n : Nat) (op : CsrOp) (old x : W64) : W64 :=
  let v := match op with | .write => x | .set => old ||| x | .clear => old &&& ~~~x
  let (rw, w1c) := csrMask ctl n
  let y := (old &&& ~~~rw) ||| (v &&& rw)
  let z := match op with | .set => y | _ => y &&& ~~~(w1c &&& x)
  if n = 0x100 ∧ bitsN z 8 7 = 2 then putBits z 8 7 (bitsN old 8 7) else z

/-- Does the selected entry of the die barrier table have a pending arrival (R176)? -/
def State.bdPending (s : State) : Bool :=
  (s.die (dieOf s.hid)).doms.any fun x => x.key == bitsN (s.hart.reg .bdsel) 3 0 && x.release.isNone

/-- BDDATA_WRITE (R176): a pending entry keeps its word, else it takes the value. -/
def State.bdWrite (s : State) (v : W64) : State := if s.bdPending then s else s.csrStore 0x121 v
/-- BDDATA_WRITE (R176). -/
def execBddataWrite (v : W64) (s : State) : Out := .next (s.bdWrite v)

/-- A write by `csrw`, `csrs` or `csrc` (R9, R99): FMODE, LPERM and VSHARE travel with the B words (R13), the others wait until older B words have retired; BDDATA waits for its entry, and a window register is written in program order with the hart's own accesses (R195). -/
def State.csrWriteA (s : State) (op : CsrOp) (a : GReg) (c : BitVec 12) : State :=
  let n := c.toNat
  match csrAccess s.ctl s.hart.priv n with
  | some true =>
    let go (s : State) : State :=
      if n = 0x121 ∧ s.bdPending then s.waitA .other
      else (s.csrStore n (csrNew s.ctl n op (s.csrRead n) (s.g a))).retire
    if n = 0x001 ∨ n = 0x002 ∨ n = 0x101 then go s
    else if 0x130 ≤ n ∧ n ≤ 0x137 then s.whenReleased .dev go
    else s.whenRetired go
  | _ => s.illegalA

/-- `csrr` (R99): FFLAGS waits for the B words of earlier frames (R13), MIGREQ while its request is pending (R366). -/
def execCsrr (d : GReg) (c : BitVec 12) (s : State) : Out :=
  let n := c.toNat
  .next (match csrAccess s.ctl s.hart.priv n with
    | none => s.illegalA
    | some _ =>
      if n = 0x000 then s.whenRetired fun t => t.retireG d (t.csrRead 0)
      else if n = 0x143 then s.migRead d
      else s.retireG d (s.csrRead n))
/-- `csrw` (R99). -/
def execCsrw (a : GReg) (c : BitVec 12) (s : State) : Out := .next (s.csrWriteA .write a c)
/-- `csrs` (R99). -/
def execCsrs (a : GReg) (c : BitVec 12) (s : State) : Out := .next (s.csrWriteA .set a c)
/-- `csrc` (R99). -/
def execCsrc (a : GReg) (c : BitVec 12) (s : State) : Out := .next (s.csrWriteA .clear a c)

end Sys2Proof.Machine
end

