-- ==== Sys2Proof/Machine/System.lean ====
section
/-! DEFINITION. System instructions (R100 to R103), taking a held trap (R25), interrupts (R341, R342). -/
namespace Sys2Proof.Machine

/-- Cause of an `ecall` from a mode (R339). -/
def ecallCause (priv : Nat) : Nat := if priv = 0 then 9 else if priv = 1 then 0xA else 0xC

/-- `ecall` (R101). -/
def execEcall (s : State) : Out := .next (s.trapA ⟨ecallCause s.hart.priv, 0, 0⟩)
/-- `brk` (R101). -/
def execBrk (s : State) : Out := .next (s.trapA ⟨0xD, 0, 0⟩)

/-- The frame of an `eret` ends: STATUS and PC as R102 says, and the B word at TRAPPC to be issued if TRB was 1. -/
def Hart.eret (h : Hart) : Hart :=
  let r := h.returnFrom
  ({ r with pc := h.pc } : Hart).endFrame r.pc h.loops 1 0 0 0 true

/-- `eret` (R24, R102): illegal in user mode, and in supervisor mode with PPRIV 3. -/
def execEret (s : State) : Out :=
  .next (if s.hart.priv = 0 ∨ (s.hart.priv = 1 ∧ bitsN (s.csr .status) 8 7 = 3) then s.illegalA
    else s.whenRetired fun t => (t.trace t.hid 3 t.hart.pc).mapHart Hart.eret)

/-- Has a pre-emption request of the hart arrived and not gone on to its cut (R103, R346)? -/
def Hart.preAsked (h : Hart) : Bool := match h.pre with | some p => p.st == .requested | none => false

/-- `wfi` (R103): completes once an interrupt is pending, enabled or not, or a pre-emption request has arrived. -/
def execWfi (s : State) : Out :=
  .next (if s.intpend s.hid ≠ 0 ∨ s.hart.preAsked then s.retire else s.waitA .other)

/-- TRAP_ENTRY (R23, R25): a held trap of the access stream is taken once every older frame has retired, its loads have landed and its stores are visible. -/
def execTrapEntry (s : State) : Out :=
  match s.hart.trap with
  | some e => .next (if s.hart.older || !s.hart.flight.isEmpty || s.storing s.hart.fno then s else s.takeTrap e false s.hart.pc (s.hart.pc + 8) 1)
  | none => .next s

/-- The interrupt that a hart would take: the lowest pending and enabled one, while IE is 1 and its mode allows it (R341). -/
def State.irq (s : State) (id : Nat) : Option Nat :=
  let h := s.getHart id
  if h.run != .running || !h.ie || (!isControl id && h.priv == 3) then none
  else lowest 6 fun i => (s.intpend id &&& h.reg .inten).getLsbD i

/-- Frame number of the oldest frame that has not retired, else of the next one (R342). -/
def Hart.oldest (h : Hart) : Nat := match h.seq ++ h.enter with | e :: _ => e.fno | [] => h.fno

/-- Can the cut of R342 be made now: no load in flight, the stores of older frames walked and visible (R23, R203), no trap of the cut frame to take first (an illegal B word traps; a trap held by a younger frame is discarded with it), and the hart not released from a completed barrier (R178)? -/
def State.cuttable (s : State) : Bool :=
  let h := s.hart
  h.flight.isEmpty && !s.storing h.oldest && !h.walkUpTo h.oldest && (h.trap.isNone || !(h.seq ++ h.enter).isEmpty) && (match h.wait with | .bar (some _) => false | _ => true) &&
    (match h.seq with | e :: _ => e.bad.isNone | [] => true)

/-- INTERRUPT (R341, R342): cause 0x30 plus the bit, at the cut. -/
def execInterrupt (s : State) : Out :=
  match s.irq s.hid with
  | some i =>
    if s.cuttable then
      let c := s.hart.cutAt
      .next (((s.withdraw s.hid).mapHart fun _ => { c.2 with wait := .none }).takeTrap ⟨0x30 + i, 0, 0⟩ c.1.2.1 c.1.1 c.1.2.2.1 c.1.2.2.2)
    else .next s
  | none => .next s

/-- TIMER_COMPARE (R341): TIMER is pending from CYCLE = TIMECMP on, and a hart that waits at `wfi` sees it. -/
def execTimerCompare (s : State) : Out :=
  .next (if s.csr .timecmp ≤ s.clk then s.mapHart Hart.wake else s)

end Sys2Proof.Machine
end

