-- ==== Sys2Proof/Machine/Context.lean ====
section
/-! DEFINITION. Hart contexts: the save image (R344, R345), the pre-emption sequence (R346, R348), `ctxsave`, `ctxrest` and `yield` (R351 to R353), restoring at dispatch (R347), `tlbinv` (R350), capture (R355). -/
namespace Sys2Proof.Machine

/-- Does an invalidation remove a translation (R350)? -/
def TlbEnt.dropped (t : TlbEnt) (part : Nat) (all : Bool) (va : W64) : Bool :=
  t.part == part && (all || (!va.getLsbD 63 && bitsN va 62 56 == 0 && t.hits part va))

/-- Does a REACH of the current hart take in a cluster's caches, or a core's TLB (R350)? -/
def State.reaches (s : State) (reach cl : Nat) (core : Option Nat) : Bool :=
  match reach with
  | 0 => !s.ctl && core == some (coreOf s.hid)
  | 1 => !s.ctl && cl == clusOf s.hid
  | 2 => cl / 512 == dieOf s.hid
  | _ => s.gpart cl == s.part

/-- Removes translations in a reach (R350). -/
def State.invalidate (s : State) (reach part : Nat) (all : Bool) (va : W64) : State :=
  let keep (l : List TlbEnt) : List TlbEnt := l.filter fun t => !t.dropped part all va
  let s1 := s.cores.foldl (fun t (c, _) => if s.reaches reach (c / 8) (some c) then t.setCore c { t.core c with tlb := keep (t.core c).tlb } else t) s
  s.clus.foldl (fun t (c, _) => if s.reaches reach c none then t.setCluster c { t.cluster c with ni := keep (t.cluster c).ni } else t) s1

/-- `tlbinv` (R350): illegal in user mode and for REACH 4 to 7; after `fence.st` at device scope, and once no older B word can discard it (R23), it empties the caches. -/
def execTlbinv (a b : GReg) (s : State) : Out :=
  let c := s.g b
  .next (if s.hart.priv = 0 then s.illegalA
    else if 4 ≤ bitsN c 2 0 then s.trapA ⟨2, c, 0⟩
    else if s.hart.streaming true then s.waitStreams (s.hart.activeOf [6, 7])
    else if !s.hart.sbuf.isEmpty then s.waitDrain
    else s.whenRetired fun s => (s.invalidate (bitsN c 2 0) s.part (c.getLsbD 3) (s.g a)).retire)

/-- The control registers of an image from 0x0140 on (R344). -/
def ctxRegs : List HReg :=
  [.fflags, .fmode, .lperm, .vshare, .status,
   .stvec, .scause, .spc, .sval, .saddr, .snpc, .srep, .mtvec, .mcause, .mpc, .mval, .maddr, .mnpc, .mrep,
   .intpend, .inten, .timecmp, .ctxptr, .cpystat, .mxfmt, .mxscalea, .mxscaleb, .mxtscale, .mxmeta, .mstat,
   .capsel, .capstat, .capctr0, .capctr1, .capctr2, .capctr3, .capclk, .capptr, .spbase, .splen, .handin, .handlen, .capt0]

/-- Bits that a control register holds: the others are reserved, or of a core (R5). -/
def ctxMask (ctl : Bool) : HReg → W64
  | .fflags => 0x1F
  | .fmode => 0x3
  | .lperm => 0xFFFFFF
  | .vshare => 0xF
  | .status => 0xFF8
  | .stvec => ~~~0x3F
  | .mtvec => ~~~0x3F
  | .scause => 0xFF
  | .mcause => 0xFF
  | .spc => ~~~0x7
  | .mpc => ~~~0x7
  | .snpc => ~~~0x7
  | .mnpc => ~~~0x7
  | .srep => 0x7F
  | .mrep => 0x7F
  | .intpend => if ctl then 0x11 else 0x1
  | .inten => if ctl then 0x3F else 0x3
  | .cpystat => 0xF00000
  | .mxfmt => 0xFFFFF
  | .mstat => 0xFFFFFFF0
  | .capsel => 0xFFFFFFFF
  | .capstat => 0xC0000000FFFFFFFF
  | _ => ~~~0

/-- Scratchpad units that a hart holds now, rising: those handed on have left its share (R159). -/
def State.heldUnits (s : State) (id : Nat) : List Nat :=
  if isControl id then [] else (List.range 64).filter fun u => kget UnitUse.free (s.core (coreOf id)).units u == .scratch (id % 4)
/-- The resident range handed to a hart's task (R159). -/
def Hart.handUnits (h : Hart) : List Nat := match h.task with | some t => residentUnits t.hand | none => []
/-- PARTW of a hart's task; 0 without a task (R352). -/
def Hart.partw (h : Hart) : Nat := match h.task with | some t => imgPartw t.image | none => 0

/-- The header of an image (R345): kind, where execution resumes, PIN, length. -/
def State.ctxHeader (s : State) (id kind : Nat) (pc : W64) (trb : Bool) (npc : W64) (rep len : Nat) : List W64 :=
  let h := s.getHart id
  let pin := !(s.heldUnits id).isEmpty || !h.handUnits.isEmpty || bitsN (h.reg .mstat) 11 4 != 0 || !h.mq.isEmpty
  let region : W64 := match h.task with | some t => putBits t.image[7] 5 0 0 | none => 0
  let tag := match h.task with | some t => (imgTag t.image).toNat | none => 0
  [w64 (2 ^ 56 + kind * 2 ^ 52 + h.partw), putBits (putBits pc 2 0 0) 0 0 trb.toNat, putBits npc 2 0 0,
   w64 (pin.toNat * 2 ^ 63 + id % 65536 * 2 ^ 32 + rep % 128), region, w64 (tag * 2 ^ 32), w64 len, 0]

/-- The word of a queue: HEAD, FILL, faulted slots (R344). -/
def Queue.word (x : Queue) : W64 :=
  let bad := x.ents.zipIdx.foldl (fun m (e, i) => match e with
    | .fault _ => m + 2 ^ (x.head + BitVec.ofNat 4 i).toNat
    | _ => m) 0
  w64 (x.head.toNat + x.filled * 16 + bad * 65536)
/-- The five words of a stream unit (R344). -/
def Stream.words (x : Stream) : List W64 :=
  x.desc.toList ++ [w64 (x.active.toNat * 2 ^ 63 + x.dims.toNat * 2 ^ 61 + x.strong.toNat * 2 ^ 60 + x.faulted.toNat * 2 ^ 59 + x.next % 2 ^ 48)]

/-- Full-empty bits of a pool unit, granule g at bit g (R344). -/
def State.unitFull (s : State) (core u : Nat) : List Byte :=
  leBytes 32 ((List.range 256).foldl (fun m g => m + (s.isFull (poolKey core (4096 * u + 16 * g))).toNat * 2 ^ g) 0)

/-- The part of an image before its pool units (R344), the header apart. -/
def State.ctxBody (s : State) (id : Nat) (units : List Nat) : List Byte :=
  let h := s.getHart id
  let reg (r : HReg) : W64 := if r = .intpend then s.intpend id else h.reg r
  let loops := h.loops.reverse.flatMap fun e => [e.start, e.last, e.count]
  padTo 256 (wordBytes (0 :: h.g.toList.drop 1)) ++
    padTo 704 (wordBytes (ctxRegs.map reg)) ++
    padTo 256 (h.k.toList.flatMap fun x => leBytes 4 x.toNat) ++
    padTo 16 (wordBytes [w64 ((h.bq.zipIdx.foldl (fun m (b, i) => m + b.toNat * 2 ^ i) 0) + h.bq.length * 65536), w64 h.loops.length]) ++
    padTo 96 (wordBytes loops) ++
    padTo 80 (wordBytes (h.q.toList.map Queue.word)) ++
    padTo 320 (wordBytes (h.str.toList.flatMap Stream.words)) ++
    padTo 64 (wordBytes (w64 h.flintRes.length :: h.flintRes)) ++
    padTo 192 (wordBytes (w64 h.tarnRes.length :: 0 :: h.tarnRes.flatMap fun p => [p.1, p.2])) ++
    padTo 2048 (h.v.toList.flatMap fun x => leBytes 64 x.toNat) ++
    padTo 8192 (h.q.toList.flatMap fun x => x.slots.toList.flatMap fun y => leBytes 64 y.toNat) ++
    padTo 2048 (units.flatMap (s.unitFull (coreOf id))) ++
    padTo 30720 h.mxArea

/-- Pool units that the image of a hart's context takes in (R344). -/
def State.ctxHeld (s : State) (id : Nat) : List Nat := s.heldUnits id ++ (s.getHart id).handUnits

/-- The first uncorrectable byte of the units of a context, as its offset in the pool (R343). -/
def State.ctxBadAt (s : State) (id : Nat) : Option Nat :=
  (s.ctxHeld id).findSome? fun u => ((List.range 4096).map (4096 * u + ·)).find? fun o => s.badIn (poolKey (coreOf id) o) 1

/-- The frames or units of the uncorrectable words of a context's units are retired (R343). -/
def State.ctxRetire (s : State) (id : Nat) : State :=
  (s.ctxHeld id).foldl (fun t u => t.retireBad (poolKey (coreOf id) (4096 * u)) 4096) s

/-- A hart context image (R344); `ctxsave` reads no uncorrectable word, and pre-emption takes a free value for it (R343; log entry 27). -/
def State.ctxImage (s : State) (id kind : Nat) (pc : W64) (trb : Bool) (npc : W64) (rep : Nat) : List Byte :=
  let units := s.ctxHeld id
  wordBytes (s.ctxHeader id kind pc trb npc rep (0xB000 + 4096 * units.length)) ++ s.ctxBody id units ++
    units.zipIdx.flatMap fun (u, i) => s.rdFree (s.freeIx + 2 ^ 200 * i) (poolKey (coreOf id) (4096 * u)) 4096

/-- 64-bit word at an offset of an image. -/
def ctxWord (bs : List Byte) (o : Nat) : W64 := w64 (leNat ((bs.drop o).take 8))
/-- A control register in an image (R344). -/
def ctxReg (bs : List Byte) (r : HReg) : W64 := ctxWord bs (0x140 + 8 * ctxRegs.idxOf r)

/-- A queue from its word and slots (R344): FILL filled slots from HEAD on, then those marked faulted. -/
def ctxQueue (bs : List Byte) (q : Nat) : Queue :=
  let w := ctxWord bs (0x570 + 8 * q)
  let head : BitVec 4 := w.setWidth 4
  let fill := min 16 (bitsN w 8 4)
  let bad := (List.range (16 - fill)).filter fun i => w.getLsbD (16 + (head + BitVec.ofNat 4 (fill + i)).toNat)
  ⟨head, List.replicate fill (.full 0) ++ bad.map fun _ => .fault 0,
    Vector.ofFn fun (i : Fin 16) => v512 ((bs.drop (0x1000 + 1024 * q + 64 * i.val)).take 64)⟩

/-- The trap depth of a stopped stream's fault in an image. DESIGN CHOICE: the image does not say whether the fault has been raised, so it has where the trap registers of a mode still hold that very fault at a trap depth that is not 0 (log entry 43). -/
def ctxTold (bs : List Byte) (q : BitVec 3) (g : Nat) : Nat :=
  let td := bitsN (ctxReg bs .status) 10 9
  let mach := bitsN (ctxReg bs .status) 6 5 == 3
  if ctxReg bs (if mach then .mcause else .scause) = 14 ∧ ctxReg bs (if mach then .mval else .sval) = streamVal q g then td
  else if ctxReg bs (if mach then .scause else .mcause) = 14 ∧ ctxReg bs (if mach then .sval else .mval) = streamVal q g then td - 1
  else 0

/-- A stream unit from its words (R344). -/
def ctxStream (bs : List Byte) (q : Nat) : Stream :=
  let w (i : Nat) : W64 := ctxWord bs (0x5C0 + 40 * q + 8 * i)
  ⟨⟨#[w 0, w 1, w 2, w 3], rfl⟩, (w 4).getLsbD 63, BitVec.ofNat 2 (bitsN (w 4) 62 61), (w 4).getLsbD 60, (w 4).getLsbD 59, bitsN (w 4) 47 0, 0, if (w 4).getLsbD 59 then ctxTold bs (BitVec.ofNat 3 q) (bitsN (w 4) 47 0) else 0⟩

/-- The hart's own part of an image; frames count on from 1, after every stream of the image. -/
def Hart.ctxLoad (h : Hart) (ctl : Bool) (bs : List Byte) : Hart :=
  let h1 := ctxRegs.foldl (fun (t : Hart) r => t.setReg r (ctxReg bs r &&& ctxMask ctl r)) h
  let st := h1.reg .status
  let h2 := if bitsN st 8 7 = 2 then h1.setReg .status (putBits st 8 7 0) else h1
  let n := min 4 (ctxWord bs 0x508).toNat
  { h2 with
    g := Vector.ofFn fun (i : Fin 32) => if i.val = 0 then 0 else ctxWord bs (0x40 + 8 * i.val)
    k := Vector.ofFn fun (i : Fin 64) => BitVec.ofNat 32 (leNat ((bs.drop (0x400 + 4 * i.val)).take 4))
    bq := (List.range (min 16 (bitsN (ctxWord bs 0x500) 20 16))).map fun i => (ctxWord bs 0x500).getLsbD i
    loops := ((List.range n).map fun i => LoopEnt.mk (ctxWord bs (0x510 + 24 * i)) (ctxWord bs (0x518 + 24 * i)) (ctxWord bs (0x520 + 24 * i))).reverse
    q := Vector.ofFn fun (i : Fin 8) => ctxQueue bs i.val
    str := Vector.ofFn fun (i : Fin 8) => ctxStream bs i.val
    flintRes := (List.range (min 4 (bitsN (ctxWord bs 0x700) 2 0))).map fun i => ctxWord bs (0x708 + 8 * i)
    tarnRes := (List.range (min 8 (bitsN (ctxWord bs 0x740) 3 0))).map fun i => (ctxWord bs (0x750 + 16 * i), ctxWord bs (0x758 + 16 * i))
    v := Vector.ofFn fun (i : Fin 32) => v512 ((bs.drop (0x800 + 64 * i.val)).take 64)
    fno := max 1 h2.fno }

/-- Pool units of an image, in order, with their full-empty bits (R344). -/
def State.ctxUnits (s : State) (core : Nat) (bs : List Byte) (units : List Nat) : State :=
  units.zipIdx.foldl (fun t (u, j) =>
    let m := leNat ((bs.drop (0x3000 + 32 * j)).take 32)
    (List.range 256).foldl (fun t g => t.setFull (poolKey core (4096 * u + 16 * g)) 16 (m / 2 ^ g % 2 == 1))
      (t.writeEcc (poolKey core (4096 * u)) ((bs.drop (0xB000 + 4096 * j)).take 4096))) s

/-- Loads every part of an image into the current hart (R344): the matrix area by R259, MSTAT as the image's own copy. -/
def State.ctxLoad (s : State) (bs : List Byte) (units : List Nat) : State :=
  let s1 := (s.mapHart fun h => h.ctxLoad s.ctl bs).ctxUnits (coreOf s.hid) bs units
  let mode := if (ctxReg bs .mstat).getLsbD 15 then s1.hart.priv else s1.hart.pushMode
  (s1.loadArea ((bs.drop 0x3800).take 30720) mode).mapHart fun h => h.setReg .mstat (ctxReg bs .mstat &&& ctxMask false .mstat)

/-- The hart goes on at RESUMEPC, with TRB and REPNEXT as `eret` takes them (R102, R347, R352). -/
def Hart.ctxResume (h : Hart) (bs : List Byte) : Hart :=
  let w1 := ctxWord bs 8
  let f := putBits w1 2 0 0
  if w1.getLsbD 0 then { h with pc := putBits (ctxWord bs 16) 2 0 0, redo := some (f, bitsN (ctxWord bs 24) 6 0) } else { h with pc := f, redo := none }

/-- Have the copies, Flint and Tarn elements and started matrix operations of a hart completed (R346 steps 4 and 5)? -/
def State.enginesDone (s : State) (id : Nat) : Bool :=
  let h := s.getHart id
  let mine (q : CopyReq) : Bool := q.owed && q.hart == id
  !(s.core (coreIx id)).fifo.any mine && !s.dev.copies.any (mine ·.req) && h.flintOut == 0 && h.tarnOut == 0 && !s.mxRunning id

/-- Have the streams of a hart ended, those stopped by a fault apart (R94, R351)? -/
def Hart.streamsDone (h : Hart) : Bool := h.str.toList.all fun x => !x.active || x.faulted

/-- The waits of `ctxsave` and `ctxrest` (R351, R352). -/
def State.whenSettled (s : State) (f : State → State) : State :=
  if !s.hart.streamsDone then s.waitA .queue else if !s.enginesDone s.hid then s.waitA .other else f s

/-- The image address of `ctxsave` and `ctxrest`, with the traps of R351. -/
def State.ctxAt (s : State) (a : GReg) (f : W64 → State → State) : State :=
  let addr := if a = 0 then s.csr .ctxptr else s.g a
  if s.hart.priv = 0 then s.illegalA
  else if addr.getLsbD 63 then s.trapA ⟨5, 0, addr⟩
  else if addr.toNat % 4096 ≠ 0 then s.misaligned addr
  else s.whenQuiet (f addr)

/-- `ctxsave` (R351). A pool word that it would save and cannot read is a data error of its own (R343); DESIGN CHOICE: TRAPADDR is the byte through SELF, and nothing is stored (log entry 42). -/
def execCtxsave (a : GReg) (s : State) : Out :=
  .next (s.ctxAt a fun addr s => s.whenSettled fun s =>
    let pc := s.hart.pc + 8
    match s.ctxBadAt s.hid with
    | some o => (s.ctxRetire s.hid).trapA ⟨8, 1, selfAddr o⟩
    | none => s.storeRange addr (s.ctxImage s.hid 0 pc false (pc + 8) 1) fun t => t.mapHart Hart.retireSolo)

/-- The check of R352 that a header fails, in order; the length is that of the task's units, those that it handed on apart. -/
def State.ctxBad (s : State) (bs : List Byte) : Option Nat :=
  let h := s.hart
  let w (i : Nat) : W64 := ctxWord bs (8 * i)
  let hl := ctxReg bs .handlen
  let units := bitsN (ctxReg bs .splen) 31 0 / 4096 - (h.partw % 64 - (s.heldUnits s.hid).length) + if hl.getLsbD 32 then 0 else bitsN hl 31 0 / 4096
  let priv := bitsN (ctxReg bs .status) 6 5
  if bitsN (w 0) 63 56 ≠ 1 ∨ bitsN (w 0) 51 16 ≠ 0 ∨ bitsN (w 1) 2 1 ≠ 0 ∨ bitsN (w 2) 2 0 ≠ 0 ∨ bitsN (w 3) 62 48 ≠ 0 ∨ bitsN (w 3) 31 7 ≠ 0 ∨
      bitsN (w 4) 5 0 ≠ 0 ∨ bitsN (w 5) 31 0 ≠ 0 ∨ bitsN (w 6) 63 20 ≠ 0 ∨ w 7 ≠ 0 ∨ (w 6).toNat ≠ 0xB000 + 4096 * units then some 1
  else if h.priv < priv ∨ priv = 2 then some 2
  else if bitsN (w 0) 15 0 ≠ h.partw ∨ ctxReg bs .spbase ≠ h.reg .spbase ∨ ctxReg bs .splen ≠ h.reg .splen ∨ hl ≠ h.reg .handlen then some 3
  else if (w 3).getLsbD 63 = true ∧ bitsN (w 3) 47 34 ≠ coreOf s.hid then some 4 else none

/-- `ctxrest` (R352): the header is read and checked, then the waits, then the body is loaded and the hart goes on; the older stream groups that meet what is read are awaited (R17). -/
def execCtxrest (a : GReg) (s : State) : Out :=
  .next (s.ctxAt a fun addr s => s.whenClear addr 0x400 fun s =>
    match s.loadLines (rangeLines addr 0x400) with
    | .trap e t => t.trapA e
    | .wait t => t.waitA .other
    | .ok hd t => match t.ctxBad hd with
      | some c => t.trapA ⟨0x1B, w64 c, addr⟩
      | none => t.whenSettled fun s =>
        let units := s.ctxHeld s.hid
        s.whenClear addr (0xB000 + 4096 * units.length) fun s => match s.loadLines (rangeLines addr (0xB000 + 4096 * units.length)) with
        | .trap e t => t.trapA e
        | .wait t => t.waitA .other
        | .ok bs t => (t.ctxLoad bs units).mapHart fun h =>
          let r := h.ctxResume bs
          ({ r with pc := h.pc } : Hart).endFrame r.pc r.loops 1 0 0 0 true)

/-- `yield` (R353): its frame retires; on an ordinary hart the sequence of R346 goes on from the next frame, with KIND 2; a request already pending merges with it. -/
def execYield (s : State) : Out :=
  .next (s.whenRetired fun s =>
    if s.ctl then (if s.enginesDone s.hid then s.mapHart Hart.retireSolo else s.waitA .other)
    else s.mapHart fun h =>
      let p := h.pre.getD ⟨.requested, 2, 0, false, 0, 0, false⟩
      { h.retireSolo with pre := some { p with st := .requested, kind := 2 } })

/-- Is the hart executing `ctxsave`, `ctxrest` or `yield`, or waiting at `wfi`, so that a stop of fetch lets its access stream go on (R103, R346)? -/
def Hart.goesOn (h : Hart) : Bool :=
  match h.fr with
  | some (w, _) =>
    let maj := bitsN (w.setWidth 64) 29 24
    let f := bitsN (w.setWidth 64) 5 0
    (maj == 0x31 && (f == 1 || f == 2 || f == 3)) || (maj == 0x23 && f == 4)
  | none => false

/-- PREEMPTION_CUT (R346 steps 1 and 2): the cut of R342; a buffered task is discarded there. An instruction that R346 lets complete is awaited. -/
def execPreemptionCut (id : Nat) (s : State) : Out :=
  let h := s.getHart id
  .next (match h.pre with
    | none => s
    | some p =>
      if p.st ≠ .requested ∨ (s.focus id).cuttable = false ∨ h.goesOn = true then s
      else
        let c := h.cutAt
        let p1 : PreReq := { p with st := .cut, pc := c.1.1, trb := c.1.2.1, npc := c.1.2.2.1, rep := c.1.2.2.2 }
        let s1 := (s.withdraw id).setHart id { c.2 with wait := .none, pre := some p1 }
        if h.isBuffered then s1.discardTask id false else s1)

/-- Number of context slots of a die, and the address of one (R348). -/
def State.ctxSlotAt (s : State) (d k : Nat) : Nat := bitsN (s.getReg (regBase d + 0x3000008)) 51 12 * 4096 + k * 0x4B000
/-- The lowest free context slot of a die (R346). -/
def State.ctxFree (s : State) (d : Nat) : Option Nat :=
  lowest (bitsN (s.getReg (regBase d + 0x3000010)) 12 0) fun k => !(s.die d).ctx.contains k

/-- A full context pool: the hart resumes at the cut (R346). -/
def Hart.preResume (h : Hart) (p : PreReq) : Hart :=
  { h with pre := none, redo := if p.trb then some (p.pc, p.rep) else none }.wake

/-- The entry of a saved context (R346): with its image, what the hart holds that the image has no place for. -/
def State.savedEntry (s : State) (id k : Nat) (t : Task) : Entry :=
  let h := s.getHart id
  { t.entry s.clk with
    ctx := some k, held := s.heldUnits id, phase := h.phase, nacks := h.nacks, left := h.sbuf, fno := h.fno
    fnos := h.str.toList.map fun x => (x.fno, x.told), migreq := h.reg .migreq, meas := h.meas }

/-- A resumed hart holds again what its entry kept (R347). -/
def Hart.regain (h : Hart) (e : Entry) : Hart :=
  ({ h with
    phase := e.phase, nacks := e.nacks, sbuf := e.left, fno := max h.fno e.fno, meas := e.meas
    str := Vector.ofFn fun (i : Fin 8) => { h.str[i] with fno := (e.fnos.getD i.val (0, 0)).1, told := (e.fnos.getD i.val (0, 0)).2 } } : Hart).setReg .migreq e.migreq

/-- CONTEXT_SAVE_COMPLETE (R346 steps 4 to 8): once the hart's engines have completed, and its stores but those that a stream group holds up, the image goes to the lowest free slot and the entry to Basin. -/
def execContextSaveComplete (id : Nat) (s : State) : Out :=
  let h := s.getHart id
  let d := dieOf id
  .next (match h.pre, h.task with
    | some p, some t =>
      if p.st ≠ .cut ∨ (s.focus id).looseStores.isEmpty = false ∨ h.walks.isEmpty = false ∨ s.enginesDone id = false then s
      else match s.ctxFree d with
        | none => (s.setHart id (h.preResume p)).preLast id p 2
        | some k =>
          let at_ := s.ctxSlotAt d k
          let bs := s.ctxImage id p.kind p.pc p.trb p.npc p.rep
          let s1 := (s.ctxRetire id).storeAt (.mem at_) bs false
          let e := s.savedEntry id k t
          let s2 := (s1.setDie d { s1.die d with ctx := k :: (s1.die d).ctx }).freeUnits id []
          (((s2.freeHand t.hand).setHart id h.parkedFrom).insertOrWait (clusOf id) e).preLast id p 0
    | _, _ => s)

/-- PREEMPT (R348): a parked hart answers LAST 1, another die's HARTID is ignored, else the request is made, or merged with a pending one. -/
def execPreempt (die : BitVec 2) (v : W64) (s : State) : Out :=
  let d := die.toNat
  let id := bitsN v 15 0
  let r := regBase d + 0x3000018
  let h := s.getHart id
  .next (if dieOf id ≠ d then s
    else if h.run ≠ .running ∨ h.task.isNone = true then s.setReg r (putBits (putBits (s.getReg r) 63 63 (s.preOther d id).toNat) 62 61 1)
    else
      let p := h.pre.getD ⟨.requested, 1, 0, false, 0, 0, true⟩
      (s.setHart id { h with pre := some { p with byReg := true } }.wake).setReg r (putBits (putBits (s.getReg r) 63 63 1) 62 61 0))

/-- SOFTINT (R348): INTPEND.SOFT of the HARTID written. -/
def execSoftint (_die : BitVec 2) (v : W64) (s : State) : Out :=
  let id := bitsN v 15 0
  let h := s.getHart id
  .next (s.setHart id (h.setReg .intpend (h.reg .intpend ||| 1)).wake)

/-- An open capture after its context has resumed (R355): PRE, and one more in OFF. -/
def Hart.capResumed (h : Hart) : Hart :=
  let c := h.reg .capstat
  if c.getLsbD 63 then h.setReg .capstat (putBits (putBits c 62 62 1) 31 0 (bitsN c 31 0 + 1)) else h

/-- Restores a saved context on a hart whose task and units are set (R347), and frees its slot. An uncorrectable word of the pool is a free value (R343; log entry 27). -/
def State.ctxDispatch (s : State) (id k : Nat) (units : List Nat) : State :=
  let d := dieOf id
  let at_ := s.ctxSlotAt d k
  let n := bitsN (w64 (s.rdN (at_ + 48) 8)) 19 0
  let bs := s.rdFree s.freeIx at_ n
  let s1 := ((s.count at_ n).retireBad at_ n).focus id
  let s2 := (s1.ctxLoad bs units).mapHart fun h => (h.ctxResume bs).capResumed
  let s3 := s2.focus s.hid
  s3.setDie d { s3.die d with ctx := (s3.die d).ctx.filter (· != k) }

/-- `capstart` (R355), once older B words cannot discard it (R23). -/
def execCapstart (a : GReg) (s : State) : Out :=
  .next (if (s.g a).toNat % 64 ≠ 0 then s.misaligned (s.g a)
    else s.whenRetired fun s => s.mapHart fun h =>
      (((((((((h.setReg .capptr (s.g a)).setReg .capctr0 0).setReg .capctr1 0).setReg .capctr2 0).setReg .capctr3 0).setReg .capclk 0).setReg
        .capstat (w64 (2 ^ 63))).setReg .capt0 s.clk)).retire)

/-- The record of a capture (R355). -/
def State.capRecord (s : State) : List Byte :=
  wordBytes [s.csr .capstat, s.csr .capclk, s.clk - s.csr .capt0, s.csr .capsel, s.csr .capctr0, s.csr .capctr1, s.csr .capctr2, s.csr .capctr3]

/-- `capstop` (R355): nothing without a capture, else one store of the record. -/
def execCapstop (s : State) : Out :=
  .next (if (s.csr .capstat).getLsbD 63 = false then s.retire
    else s.whenRetired fun s => s.storeA (s.csr .capptr) s.capRecord false fun t =>
      (t.mapHart fun h => h.setReg .capstat (putBits (h.reg .capstat) 63 63 0)).retire)

end Sys2Proof.Machine
end

