-- ==== Sys2Proof/Machine/Debug.lean ====
section
/-! DEFINITION. Debug halts and steps (R377, R378) and dumps (R380). -/
namespace Sys2Proof.Machine

/-- HALTREQ_SET (R378): every running hart of the core is cut; a debug halt may trigger a snapshot (R376). -/
def execHaltreqSet (core : Nat) (s : State) : Out :=
  let r := dbgBase core
  let s1 := s.setReg r (putBits (s.getReg r) 63 63 1)
  .next ((((List.range 4).map (hartOf core)).foldl (fun t id =>
    let h := t.getHart id
    if h.run = .running then (match h.wait with | .bar (some _) => t | _ => (t.withdraw id).setHart id h.debugCut) else t) s1).trigger (core / 4096) 3)

/-- HALTREQ_CLEAR (R378): the inbound buffer is performed in order, before any hart of the core issues. -/
def execHaltreqClear (core : Nat) (s : State) : Out :=
  let r := dbgBase core
  let x := s.core core
  let s1 := (s.setReg r (putBits (s.getReg r) 63 63 0)).setCore core { x with inbox := [], steps := [] }
  .next (s1.wakeAll.soon (x.inbox.map .remoteRequestArrival))

/-- STEP (R377): while the core is HALTED, each hart in SMASK may issue one frame. -/
def execDebugStep (core : Nat) (s : State) : Out :=
  let r := s.regValue (dbgBase core)
  let x := s.core core
  .next (if r.getLsbD 62 then
      ((List.range 4).map (hartOf core)).foldl (fun t id => t.setHart id (t.getHart id).wake)
        (s.setCore core { x with steps := ((List.range 4).filter fun n => r.getLsbD n && (s.getHart (hartOf core n)).run == .running).map fun n =>
          (n, (s.getHart (hartOf core n)).fno) })
    else s)

/-- May a hart act now: it has made no pre-emption cut (R346), and its core is not halted, or a STEP lets it issue, or finish, a frame (R377, R378)? -/
def State.mayIssue (s : State) (id : Nat) : Bool :=
  let h := s.getHart id
  (match h.pre with | some p => p.st != .cut | none => true) &&
    (isControl id || !s.coreHalted (coreOf id) ||
      (s.core (coreOf id)).steps.any fun (n, k) => n == id % 4 && (decide (h.fno ≤ k) || !h.seq.isEmpty || !h.enter.isEmpty))

/-- Updates the completion counter of a dump, at its physical address (R218, R380). -/
def State.dumpCount (s : State) (p : Dump) (err : Nat) : State :=
  if populated p.ctr && !isRegSpace p.ctr then
    s.storeAt (.mem p.ctr) (leBytes 8 (counterAdd (w64 (s.rdN p.ctr 8)) p.units err).toNat) false
  else s

/-- DUMP (R380): protects the writable local leaves of the range and empties the partition's caches, which is the point Q; ignored while a dump runs. -/
def execDumpStart (die : BitVec 2) (s : State) : Out :=
  let d := die.toNat
  let b := obsBase d + 0x3000
  let part := bitsN (s.getReg b) 5 0
  let va := bitsN (s.getReg (b + 8)) 55 16
  let n := bitsN (s.getReg (b + 16)) 39 16
  let us := ((List.range n).map (va + ·)).filter fun u => match s.leafAt part (unitVa u) with
    | some (a, _) => (w64 (s.rdN a 8)).getLsbD 1
    | none => false
  .next (if (s.die d).dump.isSome ∨ n = 0 then s
    else
      let s1 := us.foldl (fun t u => t.setW part u false) s
      let p : Dump := ⟨[], part, va, n, bitsN (s.getReg (b + 24)) 51 16 * 65536, bitsN (s.getReg (b + 32)) 51 3 * 8, us, [], 0, false⟩
      (s1.purge part fun _ => true).setDie d { s1.die d with dump := some p })

/-- The unit a dump copies next: one that a held write wants, else the next in ascending order (R380). -/
def State.dumpNext (s : State) (p : Dump) : Option Nat :=
  match p.want.findSome? fun w => p.prot.find? fun u => s.sameLeaf p.part (unitVa u) (unitVa w) with
  | some u => some u
  | none => ((List.range (p.units - p.next)).map fun i => p.va + p.next + i).find? fun u => !p.done.contains u

/-- DUMP_UNIT_COPY (R380): one unit goes to the image; W is set again, and the page invalidated, once no protected unit of its leaf is left; at the end the counter takes UNITS. -/
def execDumpUnitCopy (die : BitVec 2) (s : State) : Out :=
  let d := die.toNat
  .next (match (s.die d).dump with
    | none => s
    | some p => match s.dumpNext p with
      | none => ((s.setDie d { s.die d with dump := none }).dumpCount p (if p.err then 2 else 0)).wakeAll
      | some u => (s.dumpCopy d p u).wakeAll)

/-- ABORT (R380): W is set again on every unit still protected, and the counter takes ERR bit 56. -/
def execDumpAbort (die : BitVec 2) (s : State) : Out :=
  let d := die.toNat
  .next (match (s.die d).dump with
    | none => s
    | some p =>
      let s1 := p.prot.foldl (fun t u => t.setW p.part u true) (s.setDie d { s.die d with dump := none })
      (s1.dumpCount p 1).wakeAll)

end Sys2Proof.Machine
end

