-- ==== Sys2Proof/Machine/Fabric.lean ====
section
/-! DEFINITION. What reaches the machine from outside a core: requests at a pool (R195, R196, R378), StythNet (R357 to R362), and the host over CasoLink (R363, R364). -/
namespace Sys2Proof.Machine

/-- A refused hart access (R196): a remote-window fault at the frame that waits for it. -/
def State.nackHart (s : State) (id : Nat) (a : W64) : State :=
  (s.setHart id { s.getHart id with trap := some ⟨7, 0, a⟩ }).soon [.remoteNack]

/-- The held request of a unit is made again, at once (R378): a group of a stream unit with its store, a step of an engine. An access of a waiting A word is the next thing its hart does (`Device.urgent`), and a store of it is then performed. -/
def State.performHeld (s : State) (r : RemoteReq) (id : Nat) : State :=
  let h := s.getHart id
  let stores : List Instr := if r.kind = .write ∨ r.kind = .fe then List.replicate (h.sbuf.length + 1) .storePerformed else []
  match r.by_ with
  | .access => ({ s with dev := { s.dev with urgent := s.dev.urgent ++ [id] } } : State).soon stores
  | .stream q => (s.focus id).soon (.streamGroup q :: stores)
  | .copy k row => s.soon [.copyLine k row]
  | .copyEnd k => s.soon [.copyComplete k]
  | .mma k => s.soon [.mmaComplete k]
  | .command own => s.soon [.matrixCommandStart own]
  | .drain k => s.soon [.drainComplete k]
  | .flint cl => s.soon [.flintJobComplete cl]
  | .none => s.setHart id h.wake

/-- REMOTE_REQUEST_ARRIVAL (R195, R378): at a halted core the request stands in the inbound buffer while there is room; else the window check admits or refuses it. An admitted write of bytes is performed here; the access of a hart or an engine is made again at once, a unit's whether or not it is admitted, since the unit itself reports a refusal. -/
def execRemoteRequestArrival (r : RemoteReq) (s : State) : Out :=
  let x := s.core r.core
  .next (if s.coreHalted r.core then
      (if x.inbox.length < 64 then s.setCore r.core { x with inbox := x.inbox ++ [r] } else s)
    else if r.by_ ≠ .none ∧ r.by_ ≠ .access then (match r.hart with | some id => s.performHeld r id | none => s)
    else if s.admits r.core r.kind r.cls.toNat r.off r.len then
      match r.pkt, r.hart with
      | some (tag, _, _), _ => s.landPacket r.core r.off tag r.data
      | none, some id => s.performHeld r id
      | none, none => if r.kind = .write then s.storeAt (.mem (poolKey r.core r.off)) r.data r.setFull else s
    else match r.pkt, r.hart with
      | some (_, slot, ident), _ => s.refusePacket ident r.addr slot
      | none, some id => s.nackHart id r.addr
      | _, none => s)

/-- REMOTE_NACK (R196): the fault of a refused access is taken at its frame once every older one has retired and its stores are visible (R23). -/
def execRemoteNack (s : State) : Out :=
  .next (match s.allHarts.find? fun p => match p.2.trap with | some e => e.cause == 7 | none => false with
    | none => s
    | some (id, h) => match h.trap with
      | some e => if h.older || !h.flight.isEmpty || (s.focus id).storing h.fno then s else (s.focus id).takeTrap e false h.pc (h.pc + 8) 1
      | none => s)

/-- The admission entry of a request (R359): the lowest that names its sender. -/
def State.admission (s : State) (dev part : Nat) : Option W64 :=
  ((List.range 256).map fun i => s.getReg (regBase 0 + 0x5001000 + 16 * i)).find? fun e =>
    e.getLsbD 63 && bitsN e 59 50 == dev && bitsN e 49 44 == part && decide (bitsN e 43 38 < 48)
/-- Does an admission entry admit a kind of request (R359)? -/
def fabAdmits (e : W64) : FabKind → Bool
  | .read => e.getLsbD 62
  | .atomic _ _ => e.getLsbD 60
  | _ => e.getLsbD 61

/-- The walk of a fabric request that no cached translation serves: A and D of the leaf, and its entry at the network interface that the model lets take fabric requests, that of cluster 0 (R204; log entry 15). -/
def State.fabWalk (s : State) (rq : Req) (a : W64) (k : AccKind) : State :=
  if (s.cached rq a k).isSome then s
  else match s.walk rq a k with
    | .leaf e lvl at_ =>
      let (e1, s1) := (s.walked rq.part a).setAD at_ e k
      let c := s1.cluster 0
      s1.setCluster 0 { c with ni := tlbFill 1024 c.ni ⟨rq.part, a.toNat / 2 ^ pageLog lvl, lvl, e1⟩ }
    | _ => s.walked rq.part a

/-- Is it a hold of a request of another device on a slot (R282, R362)? -/
def FabHold.of (y : FabHold) (r : FabricReq) (slot : Nat) : Bool := y.dev == r.dev.toNat && y.part == r.part.toNat && y.ref == r.ref && y.slot == slot

/-- Bytes that a write lands: through the graph of the slot it names, if a hold of its request covers the array of every line of it (R281, R282, R362); unchanged else. -/
def State.fabBytes (s : State) (r : FabricReq) (rq : Req) (slot : Nat) : List (Option Byte) × State :=
  let n := r.data.length
  let at_ (img : List Byte) : List W64 := (cutAt r.va (if namesOld img then max n (n / 64 * gOutb img) else n / 64 * gOutb img) 64).map fun p => r.va + w64 p.1
  let held (img : List Byte) : Bool := (s.bindLines rq (some slot) .write (at_ img) true 0).any fun x =>
    x.homes.all fun h => s.dev.fabHolds.any fun y => y.of r slot && y.homes.contains h
  match (if slot = 0 ∨ n % 64 ≠ 0 then none else (s.bindLines rq (some slot) .write [r.va] true 0).bind Side.image) with
  | some i =>
    if held i then
      let g := s.runGraph rq i (if namesOld i then some r.va else none) (r.data.map some) (n / 64)
      (permuteRow i g.bytes, g.st)
    else (r.data.map some, s)
  | none => (r.data.map some, s)

/-- The slot check of another device's copy (R282, R362): the lines of one row, against the local partition that admission gave. Slots that pass at every array are held there until the sender lets them go. -/
def State.fabQuery (s : State) (r : FabricReq) (rq : Req) (slot : Option Nat) : State :=
  match s.bindLines rq slot .write ((cutAt r.va r.len 64).map fun p => r.va + w64 p.1) (r.va.toNat % 64 == 0 && r.len % 64 == 0) 0 with
  | some x =>
    if x.slot = 0 ∨ x.remote = true then s
    else
      let s1 := x.homes.foldl (State.holdSlot · true) s
      { s1 with dev := { s1.dev with fabHolds := s1.dev.fabHolds ++ [⟨r.dev.toNat, r.part.toNat, r.ref, x.slot, x.homes⟩] } }
  | none => s

/-- The holds of a request on a slot end (R282). -/
def State.fabRelease (s : State) (r : FabricReq) (slot : Nat) : State :=
  let s1 := (s.dev.fabHolds.filter (·.of r slot)).foldl (fun t y => y.homes.foldl (State.holdSlot · false) t) s
  { s1 with dev := { s1.dev with fabHolds := s1.dev.fabHolds.filter fun y => !y.of r slot } }

/-- What an admitted request of another device does at the memory byte that its address names (R359 to R362); `rq` is the local partition's requester. -/
def State.fabPerform (s : State) (r : FabricReq) (rq : Req) (key : Nat) : State :=
  match r.kind with
  | .read => if s.badIn key r.len then (s.count key r.len).retireBad key r.len else s.count key r.len
  | .write slot =>
    let p := s.fabBytes r rq slot.toNat
    (p.2.scatter rq r.va (runsOf 0 p.1)).2.1
  | .atomic op wide =>
    let n := if wide then 8 else 4
    if r.va.toNat % n ≠ 0 then s
    else if s.badIn key n then (s.count key n).retireBad key n
    else match amoNew op (8 * n) (s.rdN key n) (leNat (r.data.take 8)) (leNat (r.data.drop 8)) with
      | some x => s.storeAt (.mem key) (leBytes n x) false
      | none => s.count key n
  | .counter =>
    if r.va.toNat % 8 ≠ 0 then s
    else if s.badIn key 8 then (s.count key 8).retireBad key 8
    else
      let v := w64 (leNat (r.data.take 8))
      s.storeAt (.mem key) (leBytes 8 (counterAdd (w64 (s.rdN key 8)) (bitsN v 55 0) (bitsN v 63 56)).toNat) false
  | .query slot => s.fabQuery r rq (slot.map BitVec.toNat)
  | .release slot => s.fabRelease r slot.toNat

/-- STYTHNET_REQUEST_ARRIVAL (R359 to R362): admitted by the table, translated in the local partition, whose leaf must be local; anything else returns a negative acknowledgement, which changes nothing here. What a read, an atomic or a query returns leaves the device. -/
def execStythnetRequestArrival (r : FabricReq) (s : State) : Out :=
  .next (match s.admission r.dev.toNat r.part.toNat with
    | none => s
    | some e =>
      if !fabAdmits e r.kind || r.va.getLsbD 63 then s
      else
        let rq : Req := ⟨fabricHart, r.mode.toNat, bitsN e 43 38, true⟩
        let k : AccKind := match r.kind with | .read => .read | .write _ => .write | .query _ => .write | .release _ => .write | _ => .atomic
        let s0 := s.unheld rq r.va 1 k
        match s0.resolveVirt rq r.va k with
        | .ok (.mem key) _ => (s0.fabWalk rq r.va k).fabPerform r rq key
        | _ => s0.walked rq.part r.va)

/-- STYTHNET_DELIVERY_TIMEOUT (R358): a hart's request that no port has delivered within 1,800,000 clk is refused, with REMOTE and reason 5; a fetch by cause 3 (R203). -/
def execStythnetDeliveryTimeout (s : State) : Out :=
  .next (match s.dev.stuck.find? fun x => 1800000 ≤ (s.clk - x.start).toNat with
    | none => s
    | some x =>
      let s1 : State := { s with dev := { s.dev with stuck := s.dev.stuck.filter (· != x) } }
      s1.setHart x.hart { s1.getHart x.hart with trap := some ⟨if x.kind = .fetch then 3 else 6, faultVal true x.kind 0 5, x.addr⟩ })

/-- STYTHNET_PORT_TRAINING_CHANGE (R357): PORTUP follows the port. -/
def execStythnetPortTrainingChange (p : BitVec 5) (up : Bool) (s : State) : Out :=
  let r := regBase 0 + 0x5000008
  .next (if 18 ≤ p.toNat then s else s.setReg r (putBits (s.getReg r) p.toNat p.toNat up.toNat))

/-- Where the aperture leads (R363): device memory, the host page of a die with its offset, or nowhere. -/
inductive HostPlace where
  | mem (pa : Nat)
  | page (d o : Nat)
  | none
  deriving DecidableEq, Repr

/-- The place of an aperture offset (R363). -/
def hostPlace (off : Nat) : HostPlace :=
  if off < 0xC000000000 then .mem off
  else if off < 0xC000040000 then .page ((off - 0xC000000000) / 0x10000) ((off - 0xC000000000) % 0x10000)
  else .none

/-- Is the frame of a device-memory address retired (R200)? -/
def State.isRetired (s : State) (pa : Nat) : Bool := s.tag pa == 0x3F

/-- Actions that a host write to its page starts (R364, R366, R384, R385): `raw` are the written bytes in their place, `v` the register after the merge. -/
def hostCommands (d o n : Nat) (raw v : W64) : List Instr :=
  let die : BitVec 2 := BitVec.ofNat 2 d
  let p := o / 8 * 8
  if p = 0x1000 then [.hostRing die (raw.setWidth 16)]
  else if p = 0x1010 ∧ covers o n 63 0 then [.hostMigreq die v]
  else if d = 0 ∧ p = 0x2018 ∧ raw.getLsbD 0 then [.recoveryGo]
  else if d = 0 ∧ p = 0x2060 ∧ raw.getLsbD 0 then [.attestationRequest]
  else []

/-- A host write of n bytes inside one register of its page (R364, R386). -/
def State.hostReg (s : State) (d o n : Nat) (v : W64) : State :=
  let pa := hostPage d + o
  -- a write to RGO counts in STATE 2 only (R384)
  if d = 0 ∧ o / 8 * 8 = 0x2018 ∧ bitsN (s.getReg (hostPage 0 + 0x2000)) 63 60 ≠ 2 then s else
  let new := merged (regSpec pa) (s.getReg pa) pa n v
  (s.setReg pa new).later (hostCommands d o n ((v <<< (8 * (pa % 8))) &&& laneMask pa n) new)

/-- HOST_WRITE (R363): bytes of device memory, but for a retired frame; of a host page, register by register; anywhere else they are dropped. -/
def State.hostPut (s : State) (off : Nat) : Nat → List Byte → State
  | 0, _ => s
  | fuel + 1, bs =>
    if bs.isEmpty then s
    else
      -- up to the next register or 64 B line
      let w := match hostPlace off with | .page _ _ => 8 | _ => 64
      let n := min bs.length (w - off % w)
      let s1 := match hostPlace off with
        | .mem pa => if s.isRetired pa then s else s.storeAt (.mem pa) (bs.take n) false
        | .page d o => s.hostReg d o n (w64 (leNat (bs.take n)))
        | .none => s
      s1.hostPut (off + n) fuel (bs.drop n)

/-- HOST_WRITE (R363). -/
def execHostWrite (off : Nat) (data : List Byte) (s : State) : Out := .next (s.hostPut off data.length data)

/-- One byte as the host reads it. -/
def State.hostByte (s : State) (off : Nat) : Byte :=
  match hostPlace off with
  | .mem pa => s.rdB pa
  | .page d o =>
    if d = 0 ∧ 0x2100 ≤ o ∧ o < 0x2140 then Config.identityKeyByte (o - 0x2100)
    else if o / 8 * 8 = 0x1000 then 0
    else BitVec.ofNat 8 ((s.getReg (hostPage d + o)).toNat / 256 ^ (o % 8))
  | .none => 0

/-- HOST_READ (R363): the bytes, or an error response where one lies in a retired frame or an uncorrectable word. -/
def execHostRead (off n : Nat) (s : State) : Out :=
  let at_ := (List.range n).map (off + ·)
  let dead := at_.any fun o => match hostPlace o with | .mem pa => s.isRetired pa | _ => false
  let bad := at_.any fun o => match hostPlace o with | .mem pa => s.badIn pa 1 | _ => false
  let s1 := match hostPlace off with | .mem pa => if bad && !dead then (s.count pa n).retireBad pa n else s.count pa n | _ => s
  .next { s1 with dev := { s1.dev with hostData := if dead || bad then none else some (at_.map s.hostByte) } }

/-- The operation of a host atomic (R363). -/
def hostAmo : HostOp → AmoOp
  | .add => .add
  | .swap => .swap
  | .cas => .cas

/-- HOST_ATOMIC (R363): on an aligned word of device memory, at its home controller; the old value is returned. -/
def execHostAtomic (op : HostOp) (off : Nat) (wide : Bool) (x e : W64) (s : State) : Out :=
  let n := if wide then 8 else 4
  .next (match hostPlace off with
    | .mem pa =>
      if off % n ≠ 0 ∨ s.isRetired pa = true then { s with dev := { s.dev with hostData := none } }
      else if s.badIn pa n then (let t := (s.count pa n).retireBad pa n; { t with dev := { t.dev with hostData := none } })
      else
        let old := s.rdN pa n
        let s1 := match amoNew (hostAmo op) (8 * n) old x.toNat e.toNat with
          | some v => s.storeAt (.mem pa) (leBytes n v) false
          | none => s.count pa n
        { s1 with dev := { s1.dev with hostData := some (leBytes n old) } }
    | _ => { s with dev := { s.dev with hostData := some (List.replicate n 0) } })

/-- RING (R364): the bits join DBPEND and INTPEND.HOST is set on the die's control harts, whose taking of a slot is LAUNCH. -/
def execHostRing (die : BitVec 2) (bits : BitVec 16) (s : State) : Out :=
  let d := die.toNat
  let r := hostPage d + 0x1008
  let old := s.getReg r
  let s1 := s.setReg r (old ||| bits.setWidth 64)
  .next ((List.range 4).foldl (fun t i =>
    let id := ctlHart d i
    t.setHart id ((t.getHart id).setReg .intpend ((t.getHart id).reg .intpend ||| 0x10)).wake) s1)

/-- DBPEND_CLEAR (R364). -/
def execDbpendClear (die : BitVec 2) (bits : BitVec 16) (s : State) : Out :=
  let r := hostPage die.toNat + 0x1008
  .next (s.setReg r (s.getReg r &&& ~~~(bits.setWidth 64)))

end Sys2Proof.Machine
end

