-- ==== Sys2Proof/Machine/Fe.lean ====
section
/-! DEFINITION. Full-empty access (R95 to R98). -/
namespace Sys2Proof.Machine

/-- Address of a full-empty access: disp10 scaled by 8 (R61, R95). -/
def State.feAddr (s : State) (a : GReg) (i : BitVec 10) : W64 := s.g a + i.signExtend 64 * 8

/-- Resolves a full-empty access to the key of its first byte: core space only, aligned to `al` (R89, R95). -/
def State.fePlace (s : State) (a : W64) (n al : Nat) : Res :=
  if !a.getLsbD 63 then .trap ⟨5, 0, a⟩
  else if a.toNat % al ≠ 0 then .trap ⟨4, 0, a⟩
  else s.resolveCore s.me a n .fe

/-- Where a hart's `ldfe` goes: one that its pool already holds stands where it was accepted, under the check that it passed then (R95, R195). -/
def State.feHeld (s : State) (a : W64) : Res :=
  match s.hart.wait with
  | .fe c => .ok (.mem (poolKey c (bitsN a 17 0))) 0
  | _ => s.fePlace a 8 8

/-- Core whose pool holds a key. -/
def poolCore (k : Nat) : Nat := (k - 2 ^ 52) / 262144

/-- May the hart's `ldfe.clr` take a granule: is no other waiting request, of either form, ahead of it (R95)? -/
def State.feFirst (s : State) (k : Nat) : Bool :=
  match (s.core (poolCore k)).feq.find? (·.1 == k / 16) with
  | some (_, h) => h == s.hid
  | none => true

/-- Leaves the queue of waiting `ldfe` requests. -/
def State.feLeave (s : State) (k : Nat) : State :=
  let x := s.core (poolCore k)
  s.setCore (poolCore k) { x with feq := x.feq.filter (·.2 != s.hid) }

/-- Joins the queue: a pool holds up to 16 requests of other cores, a further one is retried (R95). -/
def State.feJoin (s : State) (k : Nat) : State :=
  let c := poolCore k
  let x := s.core c
  let remote (h : Nat) : Bool := isControl h || coreOf h != c
  if x.feq.any (·.2 == s.hid) || (remote s.hid && decide (16 ≤ (x.feq.filter fun e => remote e.2).length)) then s
  else (s.setCore c { x with feq := x.feq ++ [(k / 16, s.hid)] }).mapHart fun h => { h with wait := .fe c }

/-- `ldfe` (R95): waits until the granule is full and its request is first, reads 8 bytes and, for `.clr`, empties the granule. -/
def State.loadFe (s : State) (d : GReg) (keep : Bool) (a : W64) : State :=
  match s.feHeld a with
  | .trap e => s.trapA e
  | .ok (.mem k) _ =>
    if !s.isFull k || (!keep && !s.feFirst k) then (s.feJoin k).waitA .other
    else if s.badIn k 8 then (s.retireBad k 8).trapA ⟨8, w64 (s.errCode s.hid k), a⟩
    else
      let s1 := (s.feLeave k).mapHart (·.capCount 5)
      (if keep then s1 else s1.setFull k 8 false).retireG d (w64 (s.rdN k 8))
  | _ => (s.held a 8 .fe).waitA .other

/-- `ldfe` (R95): strong, an acquire at device scope. -/
def execLdfe (d a : GReg) (keep : Bool) (i : BitVec 10) (s : State) : Out :=
  .next (match s.feHeld (s.feAddr a i) with
    | .trap e => s.trapA e
    | _ => s.whenQuiet (·.whenClear (s.feAddr a i) 8 (·.loadFe d keep (s.feAddr a i))))

/-- `stfe` (R96): the store sets its granule full when it is performed; it is a release at device scope (R214). -/
def execStfe (d a : GReg) (i : BitVec 10) (s : State) : Out :=
  let addr := s.feAddr a i
  .next (if 64 ≤ s.hart.sbuf.length then s.waitBuffer
    else match s.fePlace addr 8 8 with
      | .trap e => s.trapA e
      | .ok l _ =>
        let e : StoreEnt := ⟨l, addr, leBytes 8 (s.g d).toNat, s.hart.fno, true, false, false, true⟩
        if s.room e then (s.mapHart (·.pushStore e)).retire else s.waitBuffer
      | .wait => (s.held addr 8 .fe).waitA .other)

/-- `feclr` (R97): empties every granule of the range; a length of 0 has no effect. DESIGN CHOICE: where only the length is no multiple of 16, TRAPADDR of the trap is g[gs1] (log entry 31). -/
def execFeclr (a b : GReg) (s : State) : Out :=
  let x := s.g a
  let n := (s.g b).toNat
  .next (if x.toNat % 16 ≠ 0 ∨ n % 16 ≠ 0 then s.misaligned x
    else if n = 0 then s.retire
    else match s.fePlace x n 16 with
      | .trap e => s.trapA e
      | .ok (.mem k) _ => s.whenQuiet fun t => (t.setFull k n false).retire
      | _ => (s.held x n .fe).waitA .other)

end Sys2Proof.Machine
end

