-- ==== Sys2Proof/Machine/Mere.lean ====
section
/-! DEFINITION. Mere: edit instructions (R315), reads and tracked accesses (R310, R318 to R320), tracker faults (R322), and the commands of the Mere registers (R304). -/
namespace Sys2Proof.Machine

/-- A tracker fault (R322). -/
def State.trackerFault (s : State) (code : Nat) (a : W64) : State := s.trapA ⟨0x19, w64 code, a⟩

/-- The hart's read joins those that wait in a session, behind k edits (R308); one that waits already keeps its place. -/
def State.enlist (s : State) (n k : Nat) : State :=
  s.mapSes n fun x => if x.waits.any (·.1 == s.hid) then x else { x with waits := x.waits ++ [(s.hid, k)] }
/-- The hart's read has completed. -/
def State.delist (s : State) (n : Nat) : State := s.mapSes n fun x => { x with waits := x.waits.filter (·.1 != s.hid) }
/-- A read takes its turn in session order: behind the edits that were enqueued before it, and behind no later one (R308, R317, R334). -/
def State.atTurn (s : State) (n : Nat) (x : Session) (f : State → State) : State :=
  match x.waits.find? (·.1 == s.hid) with
  | some (_, k) => if 0 < k then s.waitA .other else f s
  | none => if x.edits.isEmpty then f s else (s.enlist n x.edits.length).waitA .other

/-- The session of a read or edit, of the hart's own partition (R322 code 1). A words complete in program order, as R334 asks of Mere instructions. -/
def State.withSession (s : State) (n : Nat) (addr : W64) (f : Session → State → State) : State :=
  match s.ses? n with
    | some x => if x.part = s.part then f x s else s.trackerFault 1 addr
    | none => s.trackerFault 1 addr

/-- Does an edit record break its layout (R314, R315)? -/
def editBad (kind : Nat) (w : Vector W64 4) : Bool :=
  bitsN w[0] 51 21 != 0 || bitsN w[1] 63 21 != 0 || bitsN w[2] 1 0 != 0 || bitsN w[3] 58 56 != 0 || bitsN w[1] 20 0 == 0 ||
    (kind == editAppK && bitsN w[0] 20 0 != 0) || (kind == editDelK && w[2] != 0)

/-- An edit instruction (R315): the record is read strongly, checked and enqueued. -/
def State.edit (s : State) (kind : Nat) (cb : Bool) (a : GReg) : State :=
  let rec_ := s.g a
  if rec_.toNat % 64 ≠ 0 then s.misaligned rec_
  else s.whenReleased .dev fun s =>
    match s.readA rec_ 32 with
    | .trap e t => t.trapA e
    | .wait t => t.waitA .other
    | .ok bs t =>
      let w : Vector W64 4 := Vector.ofFn fun (i : Fin 4) => w64 (leNat ((bs.drop (8 * i.val)).take 8))
      if editBad kind w then t.trackerFault 6 rec_
      else t.withSession (bitsN w[0] 63 52) rec_ fun x t =>
        (t.setSes (bitsN w[0] 63 52) (some { x with edits := x.edits ++ [⟨kind, rec_, w, cb, x.part⟩] })).retire

/-- `edit.chg` (R315). -/
def execEditChg (a : GReg) (s : State) : Out := .next (s.edit editChgK false a)
/-- `edit.ins` (R315). -/
def execEditIns (a : GReg) (s : State) : Out := .next (s.edit editInsK false a)
/-- `edit.del` (R315). -/
def execEditDel (a : GReg) (s : State) : Out := .next (s.edit editDelK false a)
/-- `edit.app`, `edit.app.cb` (R315, R317). -/
def execEditApp (a : GReg) (cb : Bool) (s : State) : Out := .next (s.edit editAppK cb a)

/-- What a handle names, once codes 1 to 3 are ruled out (R305, R322): its session, layer, logical block; a read takes its turn in session order. -/
def State.withHandle (s : State) (h : W64) (waits : Bool) (f : Session → Nat → Nat → State → State) : State :=
  s.withSession (bitsN h 63 52) 0 fun x s =>
    let go (s : State) : State :=
      if x.nl ≤ bitsN h 51 44 then s.trackerFault 2 0
      else if x.nblk ≤ bitsN h 43 31 then s.trackerFault 3 0
      else f x (bitsN h 51 44) (bitsN h 43 31) s
    if waits then s.atTurn (bitsN h 63 52) x go else go s

/-- A block's state and version as `tvers` writes them (R318, R319). -/
def stateWord (v : Nat × Nat) : W64 := w64 (v.1 * 2 ^ 62 + v.2)

/-- `dmap` (R319). -/
def execDmap (d a : GReg) (s : State) : Out :=
  .next (s.withHandle (s.g a) true fun x l b s =>
    (((List.range 32).foldl (fun t i => if b + i < x.nblk then t.blockRead x l (b + i) else t) s).delist (bitsN (s.g a) 63 52)).retireG d (w64 (((List.range 32).map fun i =>
      if b + i < x.nblk then (s.blkGet x (s.blkNum x l (b + i))).1 * 4 ^ i else 0).sum)))

/-- `tvers` (R319). -/
def execTvers (d a : GReg) (s : State) : Out :=
  .next (s.withHandle (s.g a) true fun x l b s => ((s.blockRead x l b).delist (bitsN (s.g a) 63 52)).retireG d (stateWord (s.blkGet x (s.blkNum x l b))))

/-- Blocks of the selected layers that `settle` waits for (R320). -/
def State.unsettled (s : State) (x : Session) (ls : List Nat) (sus : Bool) : List Nat :=
  ls.flatMap fun l => (List.range x.nblk).filterMap fun b =>
    let i := s.blkNum x l b
    let st := (s.blkGet x i).1
    if st = 1 ∨ st = 2 ∨ (st = 3 ∧ sus) then some i else none

/-- `settle` (R320, R322): it completes at the first point of session order at which nothing that it waits for is left, every event of the session letting it look. -/
def execSettle (a b : GReg) (s : State) : Out :=
  let m := s.g b
  let n := bitsN (s.g a) 63 52
  .next (s.withSession n 0 fun x s => s.atTurn n x fun s =>
    if bitsN m 62 56 ≠ 0 then s.trackerFault 6 0
    else
      let ls := ((List.range 48).filter fun i => m.getLsbD i).map (bitsN m 55 48 + ·)
      if ls.any fun l => decide (x.nl ≤ l) then s.trackerFault 2 0
      else
        let s := ls.foldl (fun t l => (List.range x.nblk).foldl (fun t b => t.blockRead x l b) t) s
        let bs := s.unsettled x ls (m.getLsbD 63)
        if bs.any x.held.contains then s.trackerFault 7 0
        else if bs.isEmpty then (s.delist n).retire else (s.enlist n 0).waitA .other)

/-- OFFSET + disp * 64 of a tracked access (R310, R318). -/
def handleOff (h : W64) (i : BitVec 10) : W64 := bits h 30 0 + i.signExtend 64 * 64
/-- The address a handle translates to (R305). -/
def State.handleVa (s : State) (x : Session) (l b : Nat) (off : W64) : W64 :=
  let w1 := (x.layer l)[1]
  putBits w1 5 0 0 + w64 (s.slotOf x b * 2 ^ bitsN w1 4 0) + off

/-- A tracked access (R310, R318): its address, its checks of alignment and stride (code 4). -/
def State.withBlock (s : State) (h : W64) (i : BitVec 10) (waits : Bool) (f : Session → Nat → Nat → W64 → State → State) : State :=
  s.withHandle h waits fun x l b s =>
    let off := handleOff h i
    let va := s.handleVa x l b off
    if off.toNat % 64 ≠ 0 then s.misaligned va
    else if 2 ^ bitsN (x.layer l)[1] 4 0 ≤ off.toNat then s.trackerFault 4 va
    else f x l b va s

/-- Can a queue of the hart not take a load now (R18, R92)? -/
def Hart.queueFull (h : Hart) (q : BitVec 3) : Bool := h.streamBusy q || decide (16 ≤ (h.rq q).ents.length)

/-- May a read of a block take its data and its state at one point of session order (R318): is no commit of it performed whose step is still to come? DESIGN CHOICE: the session's own task in exclusive mode does not wait for a step that its `halt` lets go (log entry 58). -/
def State.atPoint (s : State) (x : Session) (n l b : Nat) : Bool :=
  let own := match s.hart.task with | some t => t.exclusive && (match t.mere with | some m => m.ses == n | none => false) | none => false
  own || !x.pends l (s.slotOf x b)

/-- `ldt` (R318): waits while the block is DIRTY or RECOMPUTING, with code 7 where it is held; the commit step that makes the block VALID or SUSPECT lets it complete at once (R334). DEDUCED: it is an acquire and its faults are precise, so no later frame has an effect before it completes, and the access stream waits with it (log entry 58). -/
def execLdt (q : BitVec 3) (a : GReg) (i : BitVec 10) (s : State) : Out :=
  let n := bitsN (s.g a) 63 52
  .next (if s.hart.queueFull q then s.waitA .queue
    else s.withBlock (s.g a) i true fun x l b va s0 =>
      let s := s0.blockRead x l b
      let k := s.blkNum x l b
      let st := (s.blkGet x k).1
      if st = 1 ∨ st = 2 then (if x.held.contains k then s.trackerFault 7 va else (s.enlist n 0).waitA .other)
      else if !s.atPoint x n l b then (s.enlist n 0).waitA .other
      else s.whenClear va 64 fun s => match s.readA va 64 with
        | .ok bs t => ((t.delist n).mapHart fun h => (h.capCount 5).reserve q h.fno (v512 bs)).retire
        | .trap e t => t.trapA e
        | .wait t => (t.enlist n 0).waitA .other)

/-- `ldt.nb` (R318): the state and the version are those of the point of session order at which the data is read. -/
def execLdtNb (d : GReg) (q : BitVec 3) (a : GReg) (i : BitVec 10) (s : State) : Out :=
  let n := bitsN (s.g a) 63 52
  .next (s.withBlock (s.g a) i true fun x l b va s0 =>
    let s := s0.blockRead x l b
    let v := stateWord (s.blkGet x (s.blkNum x l b))
    if s.hart.queueFull q then s.waitA .queue
    else if !s.atPoint x n l b then (s.enlist n 0).waitA .other
    else s.whenClear va 64 fun s => match s.readA va 64 with
      | .ok bs t => ((t.delist n).mapHart fun h => (h.capCount 5).reserve q h.fno (v512 bs)).retireG d v
      | .trap e t => t.trapA e
      | .wait t => t.waitA .other)

/-- Does a handle name the block of the tag of the hart's own task (R309, R310)? -/
def Hart.ownBlock (h : Hart) (n l b : Nat) : Bool :=
  match h.task with
  | some t => (imgTag t.image).toNat == mereTag n l b
  | none => false

/-- `stt` (R310): the head slot of qN as a tracked store to the task's own block; else code 5. -/
def execStt (q : BitVec 3) (a : GReg) (i : BitVec 10) (s : State) : Out :=
  .next (s.withBlock (s.g a) i false fun x l b va s0 =>
    let s := s0.blockRead x l b
    if !s.hart.ownBlock (bitsN (s.g a) 63 52) l b then s.trackerFault 5 va
    else if s.hart.sstFault q then s.trapUnit q
    else if s.hart.streamBusy q || !(s.hart.rq q).headFull then s.waitA .queue
    else s.storeTrk va (s.hart.rq q).headBytes false true fun t => (t.mapHart fun h => h.popQ q h.fno).retire)

/-- A Mere command ends with RES (R304). -/
def State.mereRes (s : State) (d res : Nat) : State := s.setReg (regBase d + 0x2000010) (w64 (res * 2 ^ 60))

/-- FP32 fields that must be non-negative and not NaN (R302, R303). -/
def fp32Bad (x : Nat) : Bool := decide (0x7F800000 < x)

/-- Does a session descriptor break R302, or name another partition than the writer's (R304)? -/
def descBad (part : Nat) (w : Vector W64 9) : Bool :=
  bitsN w[0] 63 58 != part || decide (47 < part) || decide (8 < bitsN w[0] 49 46) || bitsN w[0] 45 32 == 0 || decide (8192 < bitsN w[0] 45 32) ||
    decide (bitsN w[0] 45 32 * 2 ^ bitsN w[0] 49 46 < bitsN w[0] 31 10) || bitsN w[0] 9 0 != 0 ||
    bitsN w[8] 54 51 == 13 || bitsN w[8] 54 51 == 14 || bitsN w[8] 50 32 != 0 || fp32Bad (bitsN w[8] 31 0)

/-- Does a layer-table entry break R303? -/
def layerBad (w : List W64) : Bool :=
  match w with
  | [a, b, c, d] =>
    bitsN a 2 0 != 0 || bitsN b 5 5 != 0 || decide (bitsN b 4 0 < 6) || fp32Bad (bitsN c 63 32) || bitsN c 31 30 == 3 ||
      bitsN c 21 20 == 0 || bitsN c 19 16 != 0 || bitsN d 7 0 != 0
  | _ => true

/-- The descriptor at DESC, read in two lines (R302); `none` where a read faults. -/
def State.readDesc (s : State) (part : Nat) (a : W64) : Option (Vector W64 9) :=
  match s.superRead part a 64, s.superRead part (a + 64) 8 with
  | .ok x, .ok y => some (Vector.ofFn fun (i : Fin 9) => w64 (leNat (((x ++ y).drop (8 * i.val)).take 8)))
  | _, _ => none

/-- The layer table of a new session; `none` unless every entry is readable and well formed (R303). -/
def State.readLayers (s : State) (x : Session) : Option (List (Vector W64 4)) :=
  (List.range x.nl).mapM fun l => (s.readLayer x l).filter fun e => !layerBad e.toList

/-- A session as it opens (R304). -/
def newSession (part : Nat) (at_ : W64) (w : Vector W64 9) : Session where
  w := ((((w.set 1 (putBits w[1] 5 0 0)).set 2 (putBits w[2] 5 0 0)).set 3 (putBits w[3] 5 0 0)).set 4 (putBits w[4] 5 0 0)).set 5 (putBits w[5] 5 0 0)
  at_ := at_
  part := part
  ntok := bitsN w[0] 31 10
  ended := false
  fault := false
  held := []
  audmax := 0
  audcnt := 0
  audover := 0
  sampctr := 0
  ptmo := 0
  edits := []
  commits := []
  pred := none
  accepted := 0
  timedOut := false
  deferred := []
  queue := []
  auditNext := false
  layers := []
  waits := []
  shown := []

/-- The slot map is the identity, and every block of every layer is in a state with version 0 (R304). -/
def State.initBlocks (s : State) (n : Nat) (x : Session) (st : Nat) : State :=
  let s1 := s.putMap n x 0 (List.range x.nslot)
  (List.range (x.nl * x.nslot)).foldl (fun t i => t.blkSet n x i st 0) s1

/-- OPEN and OPEND (R304): refusals in the order 1, 3, 2. -/
def State.openSession (s : State) (d st : Nat) : State :=
  let n := bitsN (s.getReg (regBase d + 0x2000000)) 11 0
  let part := bitsN (s.getReg (regBase d + 0x2000010)) 5 0
  let at_ := putBits (s.getReg (regBase d + 0x2000008)) 5 0 0
  if n / 1024 ≠ d then s.mereRes d 1
  else if (s.ses? n).isSome then s.mereRes d 3
  else match s.readDesc part at_ with
    | none => (s.spanSeen part at_ 72).mereRes d 2
    | some w =>
      let x := newSession part at_ w
      let t := s.spanSeen part at_ 72
      if descBad part w then t.mereRes d 2
      else
        let u := t.spanSeen part x.w[3] (32 * x.nl)
        match t.readLayers x with
        | none => u.mereRes d 2
        | some ls =>
          let y := { x with layers := ls }
          ((((u.initBlocks n y st).putSes n y)).mereNext n).mereRes d 0

/-- OPEN (R304). -/
def execMereOpen (die : BitVec 2) (s : State) : Out := .next (s.openSession die.toNat 0)
/-- OPEND (R304). -/
def execMereOpend (die : BitVec 2) (s : State) : Out := .next (s.openSession die.toNat 1)

/-- CLOSE (R304): awaits tasks in exclusive mode, an edit whose tokens a predicate judges, and the events that come before it in session order; then aborts, finishes the edits with OUTCOME 7 and clears OPEN; every read that waits on the session takes its fault. -/
def execMereClose (die : BitVec 2) (s : State) : Out :=
  let d := die.toNat
  let n := bitsN (s.getReg (regBase d + 0x2000000)) 11 0
  .next (if n / 1024 ≠ d then s.mereRes d 1
    else match s.ses? n with
      | none => s.mereRes d 4
      | some x =>
        if (s.sesWork n).any (·.2) || x.judging || !x.queue.isEmpty || !x.commits.isEmpty then s
        else
          let s2 := (s.sesWork n).foldl (fun t p => t.mereAbort n p.1.layer p.1.block) s
          let s3 := x.edits.foldl (fun t e => t.editFinish n e 7 0 0 0) s2
          let s4 := (match s3.ses? n with | some y => s3.sesFlush n false y | none => s3).unwant n fun _ => true
          ({ s4 with dev := { s4.dev with urgent := s.dev.urgent ++ x.waits.map Prod.fst } }.setSes n none).mereRes d 0)

/-- CLEAR (R304): FAULT and ENDED clear; held blocks, which are DIRTY, are recomputed. -/
def execMereClear (die : BitVec 2) (s : State) : Out :=
  let d := die.toNat
  let n := bitsN (s.getReg (regBase d + 0x2000000)) 11 0
  .next (if n / 1024 ≠ d then s.mereRes d 1
    else match s.ses? n with
      | none => s.mereRes d 4
      | some x => ((s.putSes n { x with fault := false, ended := false, held := [] }).mereNext n).mereRes d 0)

end Sys2Proof.Machine
end

