-- ==== Sys2Proof/Machine/Stream.lean ====
section
/-! DEFINITION. Affine streams (R91 to R94): `sld`, `sst`, `swait`, the stream unit that moves one group at a time, and the stream-deadlock trap (R19). -/
namespace Sys2Proof.Machine

/-- The descriptor in g[gs1] to g[gs1+3] (R91). -/
def State.streamDesc (s : State) (a : GReg) : Vector W64 4 := Vector.ofFn fun (i : Fin 4) => s.g (a + BitVec.ofNat 5 i.val)

/-- Does a group of n bytes lie within one 64 B line (R92)? -/
def inLine (a : W64) (n : Nat) : Bool := decide (a.toNat % 64 + n ≤ 64)

/-- A stream instruction (R91, R92): it waits while the queue's stream has groups left, checks the first group, and hands the descriptor to the stream unit; a count of zero moves no group. -/
def State.startStream (s : State) (q : BitVec 3) (a : GReg) (n : BitVec 2) (strong : Bool) : State :=
  let x : Stream := ⟨s.streamDesc a, true, n, strong, false, 0, s.hart.fno, 0⟩
  if s.hart.sstFault q then s.trapUnit q
  else if s.hart.streamBusy q then s.waitA .queue
  else if x.total = 0 then s.retire
  else if !inLine (x.groupAddr 0) x.glen then s.misaligned (x.groupAddr 0)
  else (s.mapHart (·.setStream q x)).retire

/-- `sld` (R91, R92). -/
def execSld (q : BitVec 3) (a : GReg) (n : BitVec 2) (st : Bool) (s : State) : Out := .next (s.startStream q a n st)
/-- `sst` (R91, R92). -/
def execSst (q : BitVec 3) (a : GReg) (n : BitVec 2) (st : Bool) (s : State) : Out := .next (s.startStream q a n st)
/-- `swait` (R94): completes once the stream has ended; a pending fault of an `sst` traps here (R93). -/
def execSwait (q : BitVec 3) (s : State) : Out :=
  .next (if s.hart.sstFault q then s.trapUnit q else if (s.hart.stream q).active then s.waitA .queue else s.retire)

/-- The stream unit stops at a group (R93): an `sld` reserves the slot and marks it faulted. -/
def Hart.streamFault (h : Hart) (q : BitVec 3) : Hart :=
  let x := h.stream q
  let h1 := h.setStream q { x with faulted := true, told := 0 }
  if q.toNat < 6 then { h1.setQ q { h1.rq q with ents := (h1.rq q).ents ++ [.fault x.fno] } with aStall := none, bStall := none }
  else { h1 with aStall := none, bStall := none }

/-- May the next group of a stream be issued: strong groups wait for the B words of earlier frames (R22, R92), registers and other devices (`plain` is false) too, and no group of an older stream may meet it (R17, R213)? -/
def State.groupReady (s : State) (x : Stream) (plain : Bool) : Bool :=
  ((plain && !x.strong) || (!s.hart.discardable x.fno && s.hart.sbuf.all fun e => decide (x.fno < e.fno))) &&
    !s.groupAhead x.fno (x.groupAddr x.next) x.glen

/-- Is a place a byte of memory or of a pool? -/
def Loc.plain : Loc → Bool
  | .mem _ => true
  | _ => false

/-- One group of an `sld` (R92): reserves the next slot and issues its load, whose other bytes are zero. -/
def State.loadGroup (s : State) (q : BitVec 3) : State :=
  let h := s.hart
  let x := h.stream q
  let a := x.groupAddr x.next
  let issue (bs : List Byte) (t : State) : State :=
    t.mapHart fun h => ((h.capCount 5).setStream q { x with next := x.next + 1 }).reserve q x.fno (v512 bs)
  if 16 ≤ (h.rq q).ents.length then s
  else if !inLine a x.glen then s.mapHart (·.streamFault q)
  else match s.access s.me a x.glen .read with
    | .trap _ => (s.walked s.part a).mapHart (·.streamFault q)
    | .wait => if a.getLsbD 63 then s.inbound s.hid (.stream q) a x.glen .read else s.contend s.me a
    | .ok l pte =>
      if !s.groupReady x l.plain then s
      else match l with
        | .mem k =>
          if s.badIn k x.glen then ((s.count k x.glen).retireBad k x.glen).mapHart (·.streamFault q)
          else issue (h.seen x.fno (.mem k) a (s.rdBytes k x.glen)) (((s.count k x.glen).niSample a).noteWalk x.fno a .read pte)
        | .reg pa => let r := s.readRegBytes pa x.glen; issue r.1 (r.2.noteWalk x.fno a .read pte)
        | .remote d v =>
          let (f, s1) := s.nextFv
          if Config.remoteAccepts f && !Config.remoteBad f then issue (h.seen x.fno (.remote d v) a (remoteBytes f x.glen)) ((s1.niSample a).noteWalk x.fno a .read pte) else s1.mapHart (·.streamFault q)

/-- The store of the next group of an `sst` at its place: the low GLEN bytes of the head slot (R92). -/
def State.groupStore (s : State) (q : BitVec 3) (l : Loc) : StoreEnt :=
  let x := s.hart.stream q
  let a := x.groupAddr x.next
  ⟨l, a, (s.hart.rq q).headBytes.take x.glen, x.fno, false, !a.getLsbD 63 && s.hart.isBuffered, false, false⟩

/-- The unit of an `sst` has stored its group (R92): the head moves, the stream goes on or ends (R94). -/
def Hart.groupStored (h : Hart) (q : BitVec 3) : Hart :=
  let x := h.stream q
  let h1 := h.popQ q x.fno
  { h1.setStream q (if x.total ≤ x.next + 1 then Stream.idle else { x with next := x.next + 1 }) with aStall := none, bStall := none }

/-- One group of an `sst` (R92, R93): its A and D bits are set first, once its frame can no longer be discarded (R203); then it enters the store buffer. -/
def State.storeGroup (s : State) (q : BitVec 3) : State :=
  let h := s.hart
  let x := h.stream q
  let a := x.groupAddr x.next
  if !(h.rq q).headFull || decide (64 ≤ h.sbuf.length) then s
  else if !inLine a x.glen then s.mapHart (·.streamFault q)
  else match s.access s.me a x.glen .write with
    | .trap _ => (s.walked s.part a).mapHart (·.streamFault q)
    | .wait => if a.getLsbD 63 then s.inbound s.hid (.stream q) a x.glen .write else s.contend s.me a
    | .ok l pte =>
      let e := s.groupStore q l
      let adm : Bool × State := match l with
        | .remote _ _ => (Config.remoteAccepts s.fv, s.nextFv.2)
        | _ => (true, s)
      if !s.groupReady x l.plain || !s.room e then s
      else if !e.buffered && s.needsWalk a .write pte then s.noteWalk x.fno a .write pte
      else if !adm.1 then adm.2.mapHart (·.streamFault q)
      else if e.buffered && !h.cbufLines.contains (a.toNat / 64) && decide (1024 ≤ h.cbufLines.length) then
        (if h.discardable x.fno then s else s.discardTask s.hid true)
      else adm.2.mapHart fun h => (h.pushStore e).groupStored q

/-- STREAM_GROUP (R92): the unit of a queue moves its next group, if its stream is active and not stopped at a fault. -/
def execStreamGroup (q : BitVec 3) (s : State) : Out :=
  let x := s.hart.stream q
  .next (if !x.active || x.faulted || decide (x.total ≤ x.next) then s
    else if q.toNat < 6 then s.loadGroup q else s.storeGroup q)

/-- Can the unit of a queue issue its next group now, or has it issued it to a core that holds it (R378)? R19 then counts it as in flight; a group that waits for a slot or for an older word does not count (R92). -/
def State.canMove (s : State) (q : BitVec 3) : Bool :=
  let h := s.hart
  let x := h.stream q
  let a := x.groupAddr x.next
  x.active && !x.faulted && decide (x.next < x.total) &&
    (if q.toNat < 6 then decide ((h.rq q).ents.length < 16) else (h.rq q).headFull && decide (h.sbuf.length < 64)) &&
    (!inLine a x.glen || match s.access s.me a x.glen (if q.toNat < 6 then .read else .write) with
      | .ok l pte => s.groupReady x l.plain &&
          (decide (q.toNat < 6) || (s.room (s.groupStore q l) && (!s.needsWalk a .write pte || !h.discardable x.fno)))
      | _ => true)

/-- Do the conditions of R19 hold for the current hart? -/
def State.deadlocked (s : State) : Bool :=
  let h := s.hart
  let aWaits := match h.aStall with | some .queue => true | some .bq => true | some .seqFull => true | some .halt => true | _ => false
  let bWaits := h.seq.isEmpty || (match h.bStall with | some .queue => true | some .bq => true | _ => false)
  h.run == .running && aWaits && bWaits && h.flight.isEmpty && (List.range 8).all (fun q => !s.canMove (BitVec.ofNat 3 q)) &&
    decide (64 ≤ (s.clk - h.stallAt).toNat)

/-- STREAM_DEADLOCK (R19): the trap is raised at the oldest waiting instruction, TRAPVAL its word. -/
def execStreamDeadlock (s : State) : Out :=
  .next (if !s.deadlocked then s
  else match s.hart.seq with
    | e :: _ => s.trapB ⟨11, e.word.setWidth 64, 0⟩
    | [] => s.trapA ⟨11, s.hart.word0, 0⟩)

end Sys2Proof.Machine
end

