-- ==== Sys2Proof/Machine/Task.lean ====
section
/-! DEFINITION. Tasks: `tspawn`, `tsig`, `hand`, the ends of a task (R159 to R163, R168 to R173), dispatch (R27, R153 to R157), launch (R150), the arbiter of the execute unit (R164). -/
namespace Sys2Proof.Machine

/-- Where a `tspawn` starts its search: the hart's own slice, on a control hart the lowest cluster of its partition on its die (R28, R151). -/
def State.spawnStart (s : State) : Option Nat :=
  if s.ctl then (s.clustersOf s.part [dieOf s.hid]).head? else some (clusOf s.hid)

/-- Inserts an image whose checks have passed (R151, R169), or waits while the die's Basin is full. -/
def State.spawn (s : State) (w : Vector W64 8) (start : Nat) (eff : RegionEff) : State :=
  match s.basinSlot s.part start with
  | none => s.waitA .other
  | some (cl, i) =>
    ((s.placeEntry cl i (newEntry w s.part eff)).liveUp (dieOf s.hid) s.part (putBits w[7] 5 0 0)).retire

/-- `tspawn` (R169): release, read, checks in their order, insertion. -/
def execTspawn (a : GReg) (s : State) : Out :=
  let addr := s.g a
  .next (if addr.toNat % 64 ≠ 0 then s.misaligned addr
    else s.whenReleased .dev fun s =>
      match s.readA addr 64 with
      | .trap e t => t.trapA e
      | .wait t => t.waitA .other
      | .ok bs t =>
        let w := lineWords bs
        match t.spawnStart with
        | none => t.trapA ⟨0x11, 5, addr⟩
        | some start => match t.checkImage t.part w with
          | .refuse c => (t.entrySeen t.part w).trapA ⟨0x11, w64 c, addr⟩
          | .trap e => (t.entrySeen t.part w).trapA e
          | .ok eff => if (t.basinSlot t.part start).isNone then s.waitA .other else (t.entrySeen t.part w).spawn w start eff)

/-- RCB address of the current hart's task; a control hart runs none. -/
def Hart.region (h : Hart) : Option W64 := h.task.map fun t => (t.eff.chain.headD (0, 0, 0)).1

/-- `tsig` (R170): the tag leaves for the slices; signals arrive in the order sent. -/
def execTsig (a : GReg) (s : State) : Out :=
  .next (s.whenReleased .dev fun s =>
    ({ s with dev := { s.dev with signals := s.dev.signals ++ [((s.g a).setWidth 32, s.part, s.hart.region, dieOf s.hid)] } } : State).retire)

/-- SIGNAL_DELIVERY (R152): the oldest signal on its way reaches every slice. -/
def execSignalDelivery (s : State) : Out :=
  match s.dev.signals with
  | [] => .next s
  | (tag, part, region, d) :: rest => .next (({ s with dev := { s.dev with signals := rest } } : State).signal tag part region d)

/-- A range of the current hart's scratchpad from unit u on, as it is handed on (R159). -/
def State.handRange (s : State) (u n : Nat) : HandRange :=
  let sp : W64 × Nat := match s.hart.task with | some t => (t.eff.spill, t.eff.spunits) | none => (0, 0)
  ⟨selfAddr (4096 * u), 4096 * n, false, coreOf s.hid, (List.range n).map (u + ·), s.clk, sp.1, sp.2, s.part, false⟩

/-- The units of a handed range leave the task's share (R159 step 3). -/
def State.leaveShare (s : State) (r : HandRange) : State :=
  let x := s.core r.core
  s.setCore r.core { x with units := r.units.foldl (fun m u => kset .free m u .kept) x.units }

/-- Binds a range to the lowest-indexed entry of its partition with its tag, saved contexts apart, else keeps it in the hand table, spilled at once where it can be (R159); `none` is the hand-table fault. -/
def State.bindHand (s : State) (tag : W32) (r : HandRange) : Option State :=
  let cl := clusOf s.hid
  let c := s.cluster cl
  match c.basin.find? fun p => match p.2 with | some e => imgTag e.image == tag && e.part == r.part && e.ctx.isNone | none => false with
  | some (i, some e) =>
    if e.hand.isSome then none
    else
      let e1 := ({ e with hand := some r } : Entry).arrive s.clk
      let s1 := s.leaveShare r
      some (s1.setCluster cl { s1.cluster cl with basin := kset none c.basin i (some e1) })
  | _ =>
    if 16 ≤ c.hands.length then none
    else
      let s1 := s.leaveShare r
      let q := s1.spill r
      some (q.2.setCluster cl { q.2.cluster cl with hands := (q.2.cluster cl).hands ++ [(tag, q.1)] })

/-- Does a range lie wholly inside the task's own scratchpad share (R171)? A range that was handed in does not. -/
def State.ownRange (s : State) (a : W64) (n : Nat) : Bool :=
  a.getLsbD 63 && !coreMalformed a && isLocal s.hid a && decide (bitsN a 17 0 + 4096 * n ≤ 262144) &&
    (List.range n).all fun i => (s.heldUnits s.hid).contains (bitsN a 17 0 / 4096 + i)

/-- `hand` (R171). -/
def execHand (a b : GReg) (s : State) : Out :=
  let x := s.g a
  let addr := s.g b
  let n := bitsN x 37 32
  .next (if s.ctl then s.illegalA
    else if addr.toNat % 4096 ≠ 0 then s.misaligned addr
    else if n = 0 ∨ 61 < n ∨ bitsN x 63 38 ≠ 0 then s.trapA ⟨2, x, 0⟩
    else if !s.ownRange addr n then s.trapA ⟨5, 0, addr⟩
    else s.whenReleased .dev fun s => match s.bindHand (x.setWidth 32) (s.handRange (bitsN addr 17 0 / 4096) n) with
      | none => s.trapA ⟨0x12, x, addr⟩
      | some t => t.retire)

/-- HAND_SPILL (R159): 50 µs after it was bound to an entry that is still in Basin, a resident range is spilled, once. `k` is 512 * cluster + index. -/
def execHandSpill (k : Nat) (s : State) : Out :=
  let cl := k / 512
  .next (match (s.cluster cl).entry (k % 512) with
    | none => s
    | some e => match e.hand, e.ctx with
      | some r, none =>
        if r.spilled ∨ r.tried ∨ (s.clk - r.bound).toNat < 90000 then s
        else
          let q := s.spill r
          q.2.setCluster cl { q.2.cluster cl with basin := kset none (q.2.cluster cl).basin (k % 512) (some { e with hand := some q.1 }) }
      | _, _ => s)

/-- Load streams still active at the end of a task are cancelled (R94). -/
def Hart.cancelLoads (h : Hart) : Hart := { h with str := Vector.ofFn fun (i : Fin 8) => if i.val < 6 then Stream.idle else h.str[i] }

/-- What `halt`, `halt.retain` and `tabort` do first (R94, R173, R181, R256): pending faults are raised; older B words, `sst` streams, exchange acknowledgements and the store buffer are awaited; a B word in the frame traps, and the task does not end (R70, R168). -/
def State.whenEnding (s : State) (f : State → State) : State :=
  if s.ctl then s.illegalA
  else s.mxRaise fun s => s.reportNack fun s =>
    if s.hart.older then s.waitA .halt
    else if s.hart.sstFault 6 then s.trapUnit 6
    else if s.hart.sstFault 7 then s.trapUnit 7
    else if (s.hart.stream 6).active || (s.hart.stream 7).active then s.waitA .halt
    else if s.unacked s.hid || !s.hart.walks.isEmpty then s.waitA .other
    else if !s.hart.sbuf.isEmpty then (if s.looseStores.isEmpty then s.mapHart Hart.cancelLoads else s).waitA .other
    else if s.hart.bWord?.isSome then s.mapHart Hart.retireSolo
    else f s

/-- The checks of a commit's lines (R162): their places, the cause of the first line that fails, or a wait. -/
inductive Plan where
  | ok (l : List (W64 × Loc × V512)) (s : State)
  | fail (cause : Nat) (s : State)
  | wait (s : State)

/-- Translates and checks the lines of a commit in ascending address order (R162). -/
def State.plan (s : State) : List (Nat × V512) → Plan
  | [] => .ok [] s
  | (line, x) :: rest =>
    let a := w64 (64 * line)
    let go (l : Loc) (t : State) : Plan := match t.plan rest with
      | .ok q u => .ok ((a, l, x) :: q) u
      | r => r
    match s.access s.me a 64 .write with
    | .trap e => .fail e.cause (s.walked s.part a)
    | .wait => .wait (s.held a 64 .write)
    | .ok (.remote d v) _ => if Config.remoteAccepts s.fv then go (.remote d v) s.nextFv.2 else .fail 6 s.nextFv.2
    | .ok l _ => go l s

/-- Greatest measure of the tracked lines of a commit (R310). -/
def State.commitMeasure (s : State) (l : List (W64 × Loc × V512)) : W32 :=
  l.foldl (fun m (a, p, x) =>
    if s.hart.trk.contains (a.toNat / 64) then
      let d := deltaMeasure s.hart.dslot x (s.oldLine p a)
      if m < d then d else m
    else m) s.hart.meas

/-- A recompute task has committed with a measure (R311): its commit step is to come; that of one in exclusive mode, whose `halt` it is, comes next in session order (R308, R312). -/
def State.mereCommit (s : State) (t : Task) (m : W32) : State :=
  match t.mere with
  | none => s
  | some x =>
    let c : MereCommit := ⟨x.layer, x.block, m, x.audit, x.thr, false⟩
    s.mapSes x.ses fun y => if t.exclusive then { y with queue := y.queue ++ [.commit c] } else { y with commits := y.commits ++ [c] }

/-- The task ends (R161, R260): the trace record, its units and hart, LIVE and DONECTR, its commit step. -/
def State.finishTask (s : State) (m : W32) : State :=
  match s.hart.task with
  | none => s
  | some t => (((s.trace s.hid 5 s.hart.pc).endTask s.hid [] true).liveDown (dieOf s.hid) t.part t.eff).mereCommit t m

/-- The task retires (R161, R162): a buffered one commits every line, or completes as faulted with the cause of the first line that fails. -/
def State.retireTask (s : State) : State :=
  if s.hart.isBuffered then
    match s.plan s.hart.cbuf with
    | .wait t => t.waitA .other
    | .fail c t => t.completeFaulted t.hid c
    | .ok l t =>
      let m := t.commitMeasure l
      let t1 := l.foldl (fun u (a, _, _) => u.adFor u.me a .write) t
      (l.foldl (fun u (_, p, x) => u.storeAt p (leBytes 64 x.toNat) false) t1).finishTask m
  else s.finishTask s.hart.meas

/-- `halt` (R161, R162, R173). -/
def execHalt (s : State) : Out := .next (s.whenEnding State.retireTask)

/-- First run of consecutive numbers of a rising list. -/
def firstRun : List Nat → List Nat
  | [] => []
  | [u] => [u]
  | u :: v :: l => if v = u + 1 then u :: firstRun (v :: l) else [u]

/-- `halt.retain` (R160): the scratchpad share is handed on, then the task halts. DESIGN CHOICE: with an empty share nothing is bound and the task just halts (log entry 37). -/
def execHaltRetain (a : GReg) (s : State) : Out :=
  .next (s.whenEnding fun s =>
    match firstRun (s.heldUnits s.hid) with
    | [] => s.retireTask
    | u :: us =>
      let r := s.handRange u (us.length + 1)
      match s.bindHand ((s.g a).setWidth 32) r with
      | none => s.trapA ⟨0x12, s.g a, r.addr⟩
      | some t => t.retireTask)

/-- `tabort` (R172): a buffered task is discarded, another completes as faulted with FCAUSE 0x40 (R340). -/
def execTabort (s : State) : Out :=
  .next (s.whenEnding fun s => if s.hart.isBuffered then s.discardTask s.hid false else s.completeFaulted s.hid 0x40)

/-- The state of a hart at dispatch (R27, R156): `scr` are its scratchpad units. -/
def State.freshHart (s : State) (id : Nat) (t : Task) (scr : List Nat) : Hart :=
  let w := t.image
  let h0 : Hart := { Hart.reset with
    run := .running, task := some t, pc := w[0]
    g := ((((Hart.reset.g.set 1 w[1]).set 2 w[2]).set 3 w[3]).set 4 w[4]).set 5 ((imgTag w).setWidth 64) }
  let h1 := ((h0.setReg .vshare (w64 t.eff.vsh)).setReg .status 8).setReg .stvec (s.prt t.part).svec
  let h2 := h1.setReg .mtvec (putBits (s.getReg (regBase (dieOf id) + 0x3000000)) 5 0 0)
  let h3 := match scr with
    | [] => h2
    | u :: _ => (h2.setReg .spbase (selfAddr (4096 * u))).setReg .splen (w64 (4096 * scr.length))
  match t.hand with
  | none => h3
  | some r => (h3.setReg .handin r.addr).setReg .handlen (w64 (r.len + r.spilled.toNat * 2 ^ 32))

/-- Gives a task its pool units (R156): scratchpad, backing and accumulators, and the handed units of a context. -/
def State.takeUnits (s : State) (core n : Nat) (scr rest hand : List Nat) : State :=
  let x := s.core core
  let put (m : List (Nat × UnitUse)) (l : List Nat) (k : UnitUse) : List (Nat × UnitUse) := l.foldl (fun m u => kset .free m u k) m
  s.setCore core { x with units := put (put (put x.units scr (.scratch n)) rest (.backing n)) hand .kept }

/-- Clears a scratchpad share to zero, with every granule empty (R156). -/
def State.clearUnits (s : State) (core : Nat) (us : List Nat) : State :=
  us.foldl (fun t u => (t.writeEcc (poolKey core (4096 * u)) (List.replicate 4096 0)).setFull (poolKey core (4096 * u)) 4096 false) s

/-- The constant bank of a task (R27): read as a supervisor; `none` where it faults or its address is not a multiple of 256. -/
def State.constBank (s : State) (part : Nat) (a : W64) : Option (Vector W32 64) :=
  if bitsN a 7 0 ≠ 0 then none
  else match s.superRead part a 256 with
    | .error _ => none
    | .ok bs => some (Vector.ofFn fun (i : Fin 64) => BitVec.ofNat 32 (leNat ((bs.drop (4 * i.val)).take 4)))

/-- Dispatches an entry to a core (R27, R154, R347): its units, the hart's state, the constant bank or the saved context. -/
def State.startTask (s : State) (cl i : Nat) (e : Entry) (core sp : Nat) (rest : List Nat) : State :=
  let n := (s.freeHart core).getD 0
  let id := hartOf core n
  let scr := if e.ctx.isSome then e.held else (List.range (imgPartw e.image % 64)).map (sp + ·)
  let (k, s0) := if e.ctx.isSome then (e.ident, s) else s.stamp
  let t : Task := ⟨e.image, e.part, e.eff, sp, rest, e.hand, e.exclusive, e.mere, k⟩
  let s1 := s0.setCluster cl { s.cluster cl with basin := kset none (s.cluster cl).basin i none }
  let hand := if e.ctx.isSome then residentUnits e.hand else []
  let s2 := s1.takeUnits core n scr rest hand
  let h := s2.freshHart id t scr
  let s3 := match e.ctx with
    | some k =>
      let u := (s2.setHart id h).ctxDispatch id k (scr ++ hand)
      (u.setHart id ((u.getHart id).regain e)).trace id 4 (u.getHart id).pc
    | none =>
      let u := if bitsN e.image[5] 7 0 = 0 then s2.spanSeen e.part e.image[5] 256 else s2
      match s2.constBank e.part e.image[5] with
      | none => (u.setHart id h).completeFaulted id 0x41
      | some k => ((u.clearUnits core scr).setHart id { h with k := k }).trace id 4 h.pc
  s3.serve (cl / 512)

/-- Asks a running task of the cluster to be pre-empted (R157): the one of lowest region priority, lowest core, lowest hart, if the winner exceeds it by at least 8. -/
def State.askPreempt (s : State) (cl : Nat) (e : Entry) : State :=
  let ts := (List.range 32).filterMap fun i => let id := 32 * cl + i; (s.getHart id).task.map fun t => (id, t.eff.prio)
  let low := ts.foldl (fun (m : Option (Nat × Nat)) x => match m with
    | none => some x
    | some y => if x.2 < y.2 then some x else some y) none
  match low with
  | some (id, p) =>
    let h := s.getHart id
    if p + 8 ≤ e.rank s.clk ∧ h.pre.isNone = true then s.setHart id { h with pre := some ⟨.requested, 1, 0, false, 0, 0, false⟩ }.wake else s
  | none => s

/-- DISPATCH (R153, R154, R157, R382): the winner goes to the lowest core that it fits with a free hart; if only a hart is wanting, pre-emption is asked for. DESIGN CHOICE: a winner that fits no core keeps no claim, and the next DISPATCH selects afresh (log entry 41). -/
def execDispatch (cl : Nat) (s : State) : Out :=
  let cores := (List.range 8).map (8 * cl + ·)
  .next (if !(s.cluster cl).powered then s
    else match s.winner cl with
      | none => s
      | some (i, e) => match cores.findSome? fun c => (s.fits e c).map fun p => (c, p) with
        | some (c, sp, rest) => s.startTask cl i e c sp rest
        | none => if cores.any fun c => (s.fitsUnits e c).isSome then s.askPreempt cl e else s)

/-- PRIORITY_PROMOTION (R153): the effective priority of an entry is computed from its t_ready where it is used (`Entry.rank`), so its rise every 65,536 clk stores nothing. -/
def execPriorityPromotion (_cl _idx : Nat) (s : State) : Out := .next s

/-- Does a B word need all four lane groups in one clk (R164)? -/
def needs4 (w : Nat) : Bool :=
  let maj := fld w 22 7
  (decide (0x65 ≤ maj) && decide (maj ≤ 0x6A)) || (decide (0x58 ≤ maj) && decide (maj ≤ 0x5D)) || maj == 0x6F || maj == 0x70 ||
    maj == 0x75 || maj == 0x76 || maj == 0x78 ||
    ((decide (maj ≤ 0x6B) || maj == 0x78) && fld w 8 1 == 0 && fld w 5 3 != 0)

/-- A hart with a ready head as the arbiter sees it (R164): its number, VSHARE, whether it needs all four groups, and the groups it still needs. -/
structure LaneReq where
  n : Nat
  share : Nat
  all4 : Bool
  need : Nat
  deriving DecidableEq, Repr

/-- The ready heads of a core (R164). -/
def State.laneReqs (s : State) (core : Nat) : List LaneReq :=
  (List.range 4).filterMap fun n =>
    let h := s.getHart (hartOf core n)
    match h.seq with
    | e :: _ => if h.run == .running && h.bStall.isNone && e.bad.isNone && !h.walkUpTo e.fno then some ⟨n, bitsN e.snap.vshare 3 0, needs4 e.word.toNat, 4 - h.lanes⟩ else none
    | [] => none

/-- Which of two requests the arbiter prefers (R164): a non-zero share first, then the greater credit, then the lower hart. -/
def lanePrefer (cr : Vector Int 4) (a b : LaneReq) : Bool :=
  let c (r : LaneReq) : Int := cr.toList.getD r.n 0
  if (0 < a.share) ≠ (0 < b.share) then 0 < a.share else decide (c b < c a) || (c a == c b && decide (a.n ≤ b.n))

/-- The grants of lane groups g on (R164): the credits left and the harts granted, one entry a group. DEDUCED: a head that needs all four and has no share, whose credit never grows, is granted them in a clk in which no head with a share wants one (log entry 68). -/
def laneGrants (cr : Vector Int 4) (rs : List LaneReq) (g : Nat) : Nat → Vector Int 4 × List Nat
  | 0 => (cr, [])
  | fuel + 1 =>
    let idle (r : LaneReq) : Bool := r.share == 0 && rs.all fun x => x.share == 0 || x.need == 0
    let can := rs.filter fun r => decide (0 < r.need) && (!r.all4 || (g == 0 && (decide (64 ≤ cr.toList.getD r.n 0) || idle r)))
    match can.foldl (fun (m : Option LaneReq) r => match m with | none => some r | some x => if lanePrefer cr x r then some x else some r) none with
    | none => (cr, [])
    | some r =>
      if r.all4 then (cr.setIfInBounds r.n (cr.toList.getD r.n 0 - 64), List.replicate 4 r.n)
      else
        let q := laneGrants (cr.setIfInBounds r.n (cr.toList.getD r.n 0 - 16)) (rs.map fun x => if x.n = r.n then { x with need := x.need - 1 } else x) (g + 1) fuel
        (q.1, r.n :: q.2)

/-- One clk of the arbiter (R164): credits rise; a head with a share that has waited 64 clk is granted its need first. -/
def laneClk (cr : Vector Int 4) (wait : Vector Nat 4) (rs : List LaneReq) : Vector Int 4 × List Nat :=
  let cr1 : Vector Int 4 := Vector.ofFn fun (i : Fin 4) => match rs.find? (·.n == i.val) with
    | some r => min (cr[i] + r.share) 79
    | none => 0
  let late := rs.filter fun r => decide (0 < r.share) && decide (0 < r.need) && decide (64 ≤ wait.toList.getD r.n 0)
  let oldest := late.foldl (fun (m : Option LaneReq) r => match m with
    | none => some r
    | some x => if wait.toList.getD x.n 0 < wait.toList.getD r.n 0 then some r else some x) none
  match oldest with
  | some r =>
    let cr2 := cr1.setIfInBounds r.n (cr1.toList.getD r.n 0 - 16 * (r.need : Int))
    let q := laneGrants cr2 (rs.map fun x => if x.n = r.n then { x with need := 0 } else x) r.need (4 - r.need)
    (q.1, List.replicate r.need r.n ++ q.2)
  | none => laneGrants cr1 rs 0 4

/-- LANE_GRANT (R164): one clk of the arbiter: the credits and waits of a core's harts, and the groups granted, each a capture event 12 (R354). A B word of an ordinary hart completes once it has its four (Step.lean). -/
def execLaneGrant (core : Nat) (s : State) : Out :=
  let x := s.core core
  let rs := s.laneReqs core
  let r := laneClk x.credit x.lwait rs
  let w : Vector Nat 4 := Vector.ofFn fun (i : Fin 4) => if rs.any (·.n == i.val) && !r.2.contains i.val then x.lwait[i] + 1 else 0
  .next (r.2.foldl (fun t n => let id := hartOf core n; let h := t.getHart id; t.setHart id { h.capCount 12 with lanes := h.lanes + 1 }) (s.setCore core { x with credit := r.1, lwait := w }))

/-- Entries of a launch in array order, with the index of the first that is rejected (R150). -/
def State.launchEntries (s : State) (part : Nat) (a : W64) : Nat → Nat → Except Nat (List (Vector W64 8 × RegionEff))
  | _, 0 => .ok []
  | i, n + 1 =>
    match s.superLine part (a + w64 (64 * i)) with
    | .error _ => .error i
    | .ok w => match s.checkImage part w with
      | .ok eff => (s.launchEntries part a (i + 1) n).map ((w, eff) :: ·)
      | _ => .error i

/-- Inserts an entry in the lowest free index of a slice (R150). -/
def State.insertAt (s : State) (cl part : Nat) (w : Vector W64 8) (eff : RegionEff) : State :=
  match (s.cluster cl).freeIdx with
  | some i => (s.placeEntry cl i (newEntry w part eff)).liveUp (cl / 512) part (putBits w[7] 5 0 0)
  | none => s

/-- The outcome of a launch record (R150): the first failure in the order of its checks, else the entries inserted. -/
def State.launchRun (s : State) (d part : Nat) (w : Vector W64 4) : Nat × State :=
  let cls := if part < 48 then s.clustersOf part [d] else []
  let n := bitsN w[2] 9 0
  if cls.isEmpty then (4, s)
  else if n = 0 ∨ bitsN w[0] 5 0 ≠ 0 ∨ bitsN w[1] 5 0 ≠ 0 ∨ bitsN w[2] 63 16 ≠ 0 ∨ bitsN w[3] 2 0 ≠ 0 then (5, s)
  else match s.region part w[0] with
    | .ok (some root) => match s.launchEntries part w[1] 0 n with
      | .error i => (2 + i * 2 ^ 32, s)
      | .ok es =>
        let c := min root.clusters cls.length
        let slice (j : Nat) : Nat := cls.getD (j % c) 0
        let room (j : Nat) : Bool :=
          decide (((List.range n).filter fun i => i % c == j).length ≤ 512 - (s.cluster (slice j)).basin.length)
        if !(List.range c).all room then (3, s)
        else (0, es.zipIdx.foldl (fun t (p, i) => t.insertAt (slice i) part p.1 p.2) s)
    | _ => (1, s)

/-- What the reads of a launch leave (R150, R203): the root's chain, then the images up to the first that is rejected, each with its region's chain. -/
def State.launchSeen (s : State) (d part : Nat) (w : Vector W64 4) : State :=
  match (s.launchRun d part w).1 with
  | 4 => s
  | 5 => s
  | c =>
    let n := match c % 2 ^ 32 with | 1 => 0 | 2 => c / 2 ^ 32 + 1 | _ => bitsN w[2] 9 0
    (List.range n).foldl (fun t i =>
      let a := w[1] + w64 (64 * i)
      let u := t.superSeen part a 64
      match u.superLine part a with | .ok x => u.entrySeen part x | .error _ => u) (s.regionSeen part 8 w[0])

/-- LAUNCH (R150, R364): a rung slot is taken; the status word is written, for status 4 at a physical address; DBPEND is cleared next. -/
def execLaunch (die : BitVec 2) (slot : BitVec 4) (s : State) : Out :=
  let d := die.toNat
  let w : Vector W64 4 := Vector.ofFn fun (i : Fin 4) => s.getReg (hostPage d + 32 * slot.toNat + 8 * i.val)
  let part := bitsN w[2] 15 10
  let at_ := putBits w[3] 2 0 0
  .next (if (s.getReg (hostPage d + 0x1008)).getLsbD slot.toNat = false then s
    else
      let r := (s.launchSeen d part w).launchRun d part w
      let bs := leBytes 8 r.1
      let s1 := if r.1 ≠ 4 then r.2.bookWrite d 3 part at_ bs
        else if populated at_.toNat && !isRegSpace at_.toNat && !r.2.badPart at_.toNat 8 then r.2.storeAt (.mem at_.toNat) bs false
        else ((if populated at_.toNat then r.2.retireBad at_.toNat 8 else r.2)).bookFault d 3 part at_
      s1.soon [.dbpendClear die (1 <<< slot.toNat)])

end Sys2Proof.Machine
end

