-- ==== Sys2Proof/Machine/VecMisc.lean ====
section
/-! DEFINITION. B instructions of the other formats: one-operand forms, special functions and reductions (B2; R116, R128 to R130, R133 to R136), conversions (BC; R125 to R127), slides and broadcasts (BS; R135), masks (BM; R120), constants (BI; R117), queue advance (BQ; R137), the branch queue (BB; R138) and `nop` (R59). -/
namespace Sys2Proof.Machine

/-- `vabs` or `vneg` of an element (R116). -/
def absNegElem (t : ETy) (neg : Bool) (x : Nat) : Nat :=
  match t.float? with
  | some f => if (f.dec x).isNan then f.nan else if neg then x ^^^ 2 ^ (t.width - 1) else x % 2 ^ (t.width - 1)
  | none => ofSigned t.width (if neg then -t.ival x else (t.ival x).natAbs)

/-- `vabs` (R116). -/
def execVabs (m : BMask) (d : VDst) (t : ETy) (b : VSrc2) (s : State) : Out :=
  .next (s.b2 t s.hart.bRm m d b fun x => (absNegElem t false x, 0))
/-- `vneg` (R116). -/
def execVneg (m : BMask) (d : VDst) (t : ETy) (b : VSrc2) (s : State) : Out :=
  .next (s.b2 t s.hart.bRm m d b fun x => (absNegElem t true x, 0))

/-- `vordkey` (R128): keys of the element's width; those of `.l4` elements 0 to 63 are 8 bits wide. -/
def execVordkey (m : BMask) (d : VDst) (t : ETy) (b : VSrc2) (s : State) : Out :=
  let h := s.hart
  .next (if t = .l4 then
    s.endB d ((h.src2 4 b).bind fun y => (h.dst d).bind fun o =>
      let e2 := h.elems2 m 64 .l4 h.bRm false y
      let r := h.writeElems m 8 o fun i => (orderKey .l4 (e2.1.getD i 0), 0)
      .val (r.1, r.2 ||| e2.2))
  else s.b2 t h.bRm m d b fun x => (orderKey t x, 0))

/-- A special function (R129, R130): RNE whatever FMODE holds. -/
def State.vspecial (s : State) (g : SFn) (m : BMask) (d : VDst) (t : ETy) (b : VSrc2) : State :=
  s.b2 t 0 m d b fun x => match t.float? with | some f => g.apply f x | none => (0, 0)
/-- `vrcpa` (R129, R130). -/
def execVrcpa (m : BMask) (d : VDst) (t : ETy) (b : VSrc2) (s : State) : Out := .next (s.vspecial .rcp m d t b)
/-- `vrsqa` (R129, R130). -/
def execVrsqa (m : BMask) (d : VDst) (t : ETy) (b : VSrc2) (s : State) : Out := .next (s.vspecial .rsq m d t b)
/-- `vlog2` (R129, R130). -/
def execVlog2 (m : BMask) (d : VDst) (t : ETy) (b : VSrc2) (s : State) : Out := .next (s.vspecial .log2 m d t b)
/-- `vexp2` (R129, R130). -/
def execVexp2 (m : BMask) (d : VDst) (t : ETy) (b : VSrc2) (s : State) : Out := .next (s.vspecial .exp2 m d t b)

/-- Node 2j joined with node 2j+1 of the tree of R133; `none` is Absent. -/
def joinNode (op : Nat → Nat → Rl) : Option Nat → Option Nat → Option Nat × FFl
  | none, y => (y, 0)
  | some x, none => (some x, 0)
  | some x, some y => (some (op x y).1, (op x y).2)
/-- One level of the tree of R133. -/
def joinLevel (op : Nat → Nat → Rl) : List (Option Nat) → List (Option Nat) × FFl
  | x :: y :: l =>
    let r := joinLevel op l
    let n := joinNode op x y
    (n.1 :: r.1, n.2 ||| r.2)
  | l => (l, 0)
/-- The tree of R133 with n levels. -/
def joinTree (op : Nat → Nat → Rl) : Nat → List (Option Nat) → List (Option Nat) × FFl
  | 0, l => (l, 0)
  | n + 1, l =>
    let r := joinLevel op l
    let q := joinTree op n r.1
    (q.1, r.2 ||| q.2)

/-- A reduction (R133): the elements that take part, the operation, and what an empty one gives; element 0 receives the result. -/
def Hart.reduce (h : Hart) (t : ETy) (m : BMask) (keep : Nat → Bool) (op : Nat → Nat → Rl) (empty : Nat) (l : List Nat) : V512 × FFl :=
  let nodes := l.zipIdx.map fun (x, i) => if h.active m i && keep x then some x else none
  let r := joinTree op (Nat.log2 nodes.length) nodes
  let v := match r.1 with | some x :: _ => if t.isNan x then t.nan else x | _ => empty
  (BitVec.ofNat 512 v, r.2)

/-- `vredsum` (R133): one rounding by RND at each addition; integers modulo 2^w. -/
def execVredsum (m : BMask) (d : VDst) (t : ETy) (r : Rnd) (b : VSrc2) (s : State) : Out :=
  let rm := rndMode r s.hart
  let op (x y : Nat) : Rl := match t.float? with
    | some f => f.op .add rm 0 x y
    | none => (ofSigned t.width (t.ival x + t.ival y), 0)
  .next (s.b2All t rm m d b (s.hart.reduce t m (fun _ => true) op 0))
/-- `vredmax` (R133). -/
def execVredmax (m : BMask) (d : VDst) (t : ETy) (b : VSrc2) (s : State) : Out :=
  let empty := if t.float?.isSome then t.nan else ofSigned t.width t.range.1
  .next (s.b2All t s.hart.bRm m d b (s.hart.reduce t m (fun x => !t.isNan x) (fun x y => (pickElem t true x y, 0)) empty))
/-- `vredmin` (R133). -/
def execVredmin (m : BMask) (d : VDst) (t : ETy) (b : VSrc2) (s : State) : Out :=
  let empty := if t.float?.isSome then t.nan else ofSigned t.width t.range.2
  .next (s.b2All t s.hart.bRm m d b (s.hart.reduce t m (fun x => !t.isNan x) (fun x y => (pickElem t false x y, 0)) empty))

/-- The lowest active element, not NaN, that holds the extreme value (R134). -/
def Hart.argExt (h : Hart) (t : ETy) (m : BMask) (max : Bool) (l : List Nat) : Option (Nat × Nat) :=
  (l.zipIdx.filter fun p => h.active m p.2 && !t.isNan p.1).foldl (fun best p => match best with
    | none => some p
    | some q => if (if max then ranksBelow t q.1 p.1 else ranksBelow t p.1 q.1) then some p else some q) none

/-- `vargmax`, `vargmin` (R134): the value, in FP32 for a floating type, and its index. -/
def State.vargext (s : State) (max : Bool) (m : BMask) (d : VDst) (t : ETy) (b : VSrc2) : State :=
  s.b2All t s.hart.bRm m d b fun l =>
    (match s.hart.argExt t m max l with
      | some (x, i) => BitVec.ofNat 512 ((if t.float?.isSome then (convert t .f32 0 false x).1 else x) + i * 2 ^ 32)
      | none => BitVec.ofNat 512 ((if t.float?.isSome then fF32.nan else 0) + 0xFFFFFFFF * 2 ^ 32), 0)
/-- `vargmax` (R134). -/
def execVargmax (m : BMask) (d : VDst) (t : ETy) (b : VSrc2) (s : State) : Out := .next (s.vargext true m d t b)
/-- `vargmin` (R134). -/
def execVargmin (m : BMask) (d : VDst) (t : ETy) (b : VSrc2) (s : State) : Out := .next (s.vargext false m d t b)

/-- `vcompress` (R136): the active elements move to the bottom. -/
def execVcompress (m : BMask) (d : VDst) (t : ETy) (b : VSrc2) (s : State) : Out :=
  .next (s.b2All t s.hart.bRm m d b fun l => (pack512 t.width ((l.zipIdx.filter fun p => s.hart.active m p.2).map Prod.fst), 0))

/-- `vmov` (R135): 16 lanes of 32 bits, a scalar unchanged. -/
def execVmov (m : BMask) (d : VDst) (b : VSrc2) (s : State) : Out := .next (s.b2 .i32 0 m d b fun x => (x, 0))

/-- A BC instruction (R105, R107): `f` gives each destination element of type t from the old destination's and the source's elements. -/
def State.bc (s : State) (m : BMask) (d : VReg) (t u : ETy) (a : VReg) (f : List Nat → List Nat → Nat → Rl) : State :=
  let h := s.hart
  s.endB (.v d) (.val (h.writeElems m t.width (h.rv d) (f (elems512 t.width (h.rv d)) (elems512 u.width (h.rv a)))))

/-- `vcvt` (R125): the bottom group. -/
def execVcvt (m : BMask) (d : VReg) (t u : ETy) (r : Rnd) (n : Bool) (a : VReg) (s : State) : Out :=
  let e := 512 / Nat.max t.width u.width
  .next (s.bc m d t u a fun _ xs i => if i < e then convert u t (rndMode r s.hart) n (xs.getD i 0) else (0, 0))
/-- `vpack` (R126): the old elements move down, the converted ones follow. -/
def execVpack (m : BMask) (d : VReg) (t u : ETy) (r : Rnd) (n : Bool) (a : VReg) (s : State) : Out :=
  let e := 512 / u.width
  let k := 512 / t.width - e
  .next (s.bc m d t u a fun os xs i => if i < k then (os.getD (i + e) 0, 0) else convert u t (rndMode r s.hart) n (xs.getD (i - k) 0))
/-- `vunpack` (R127): the top group; a floating source with an integer destination rounds by FMODE.RM. -/
def execVunpack (m : BMask) (d : VReg) (t u : ETy) (a : VReg) (s : State) : Out :=
  let k := 512 / u.width - 512 / t.width
  .next (s.bc m d t u a fun _ xs i => convert u t s.hart.bRm false (xs.getD (k + i) 0))

/-- Element width of W (R63). -/
def mwWidth : MW → Nat
  | .i8 => 8 | .i16 => 16 | .i32 => 32 | .i64 => 64

/-- A BS instruction (R135). -/
def State.bs (s : State) (m : BMask) (d : VDst) (w : MW) (a : VSrc) (f : List Nat → Nat → Nat) : State :=
  let h := s.hart
  s.endB d ((h.src1 a).bind fun x => (h.dst d).bind fun o =>
    .val (h.writeElems m (mwWidth w) o fun i => (f (elems512 (mwWidth w) x) i, 0)))
/-- `vslide` (R135). -/
def execVslide (m : BMask) (d : VDst) (w : MW) (n : BitVec 7) (a : VSrc) (s : State) : Out :=
  .next (s.bs m d w a fun xs i => xs.getD (i + n.toNat) 0)
/-- `vbcast` (R135). -/
def execVbcast (m : BMask) (d : VDst) (w : MW) (j : BitVec 7) (a : VSrc) (s : State) : Out :=
  .next (s.bs m d w a fun xs _ => xs.getD j.toNat 0)

/-- A mask instruction that writes bits (R120). -/
def State.bm (s : State) (m : BMask) (d : VReg) (w : MW) (f : Nat → Bool) : State :=
  s.endB (.v d) (.val (s.hart.writeBits m (512 / mwWidth w) (s.hart.rv d) fun i => (f i, 0)))
/-- `mand` (R120). -/
def execMand (m : BMask) (d a b : VReg) (w : MW) (s : State) : Out :=
  .next (s.bm m d w fun i => (s.hart.rv a).getLsbD i && (s.hart.rv b).getLsbD i)
/-- `mor` (R120). -/
def execMor (m : BMask) (d a b : VReg) (w : MW) (s : State) : Out :=
  .next (s.bm m d w fun i => (s.hart.rv a).getLsbD i || (s.hart.rv b).getLsbD i)
/-- `mxor` (R120). -/
def execMxor (m : BMask) (d a b : VReg) (w : MW) (s : State) : Out :=
  .next (s.bm m d w fun i => (s.hart.rv a).getLsbD i != (s.hart.rv b).getLsbD i)
/-- `mnot` (R120). -/
def execMnot (m : BMask) (d b : VReg) (w : MW) (s : State) : Out :=
  .next (s.bm m d w fun i => !(s.hart.rv b).getLsbD i)

/-- The active bits that are 1, lowest first (R120). -/
def Hart.setBits (h : Hart) (m : BMask) (w : MW) (b : VReg) : List Nat :=
  (List.range (512 / mwWidth w)).filter fun i => h.active m i && (h.rv b).getLsbD i
/-- `mpop` (R120). -/
def execMpop (m : BMask) (d b : VReg) (w : MW) (s : State) : Out :=
  .next (s.endB (.v d) (.val (BitVec.ofNat 512 (s.hart.setBits m w b).length, 0)))
/-- `mfirst` (R120). -/
def execMfirst (m : BMask) (d b : VReg) (w : MW) (s : State) : Out :=
  .next (s.endB (.v d) (.val (BitVec.ofNat 512 ((s.hart.setBits m w b).headD 0xFFFFFFFF), 0)))

/-- Moves the head of q0 to q5 or the tail of q6 and q7 by n (R18). -/
def Hart.qadvance (h : Hart) (q : BitVec 3) (n : Nat) : Hart :=
  let x := h.rq q
  if q.toNat < 6 then h.setQ q { x with head := x.head + BitVec.ofNat 4 n, ents := x.ents.drop n }
  else h.setQ q { x with ents := x.ents ++ List.replicate n (.full (match h.seq with | e :: _ => e.fno | [] => h.fno)) }

/-- `qadv` (R18, R93, R137). -/
def execQadv (q : BitVec 3) (n : BitVec 5) (s : State) : Out :=
  let x := s.hart.rq q
  let bad (e : QEnt) : Bool := match e with | .fault _ => true | _ => false
  .next (if q.toNat < 6 then
      (if (x.ents.take n.toNat).any bad then s.trapStream q
       else if x.filled < n.toNat then s.waitB .queue
       else s.mapHart fun h => (h.qadvance q n.toNat).retireB)
    else if 16 < x.ents.length + n.toNat then s.waitB .queue
    else s.mapHart fun h => (h.qadvance q n.toNat).retireB)

/-- `bqput` (R20, R138): bit e of bits [31:0] of vs2 after its lane pattern, in lanes of 32 bits (log entry 23). DESIGN CHOICE: the wait for a full branch queue goes before a stream fault of vs2 (log entry 25). -/
def execBqput (e : BitVec 5) (b : VSrc2) (s : State) : Out :=
  .next (if 16 ≤ s.hart.bq.length then s.waitB .bq
    else match s.hart.src2 32 b with
      | .wait => s.waitB .queue
      | .fault q => s.trapStream q
      | .val y =>
        let bit := match y with | .vec x => x.getLsbD e.toNat | .scalar x => x.getLsbD e.toNat
        s.mapHart fun h => ({ h with bq := h.bq ++ [bit] } : Hart).retireB)

/-- The FP32 constant of imm20 (R52, R117); a NaN is the canonical one (R47). -/
def imm20Const (i : BitVec 20) : Nat := (convert .f32 .f32 0 false (i.toNat * 4096)).1

/-- A BI instruction on FP32 elements of a v register (R117). -/
def State.bi (s : State) (m : BMask) (d : VReg) (f : Nat → Rl) : State :=
  let h := s.hart
  let xs := elems512 32 (h.rv d)
  s.endB (.v d) (.val (h.writeElems m 32 (h.rv d) fun i => f (xs.getD i 0)))
/-- v0 to v3. -/
def lowV (d : BitVec 2) : VReg := d.setWidth 5
/-- v4 to v7. -/
def highV (d : BitVec 2) : VReg := d.setWidth 5 + 4
/-- `vaddi` on v0 to v3 (R117). -/
def execVaddiLow (m : BMask) (d : BitVec 2) (i : BitVec 20) (s : State) : Out :=
  .next (s.bi m (lowV d) fun x => fF32.op .add s.hart.bRm 0 x (imm20Const i))
/-- `vaddi` on v4 to v7 (R117). -/
def execVaddiHigh (m : BMask) (d : BitVec 2) (i : BitVec 20) (s : State) : Out :=
  .next (s.bi m (highV d) fun x => fF32.op .add s.hart.bRm 0 x (imm20Const i))
/-- `vmuli` on v0 to v3 (R117). -/
def execVmuliLow (m : BMask) (d : BitVec 2) (i : BitVec 20) (s : State) : Out :=
  .next (s.bi m (lowV d) fun x => fF32.op .mul s.hart.bRm 0 x (imm20Const i))
/-- `vmuli` on v4 to v7 (R117). -/
def execVmuliHigh (m : BMask) (d : BitVec 2) (i : BitVec 20) (s : State) : Out :=
  .next (s.bi m (highV d) fun x => fF32.op .mul s.hart.bRm 0 x (imm20Const i))
/-- `vsplat` to v0 to v3 (R117). -/
def execVsplatLow (m : BMask) (d : BitVec 2) (i : BitVec 20) (s : State) : Out :=
  .next (s.bi m (lowV d) fun _ => (imm20Const i, 0))
/-- `vsplat` to v4 to v7 (R117). -/
def execVsplatHigh (m : BMask) (d : BitVec 2) (i : BitVec 20) (s : State) : Out :=
  .next (s.bi m (highV d) fun _ => (imm20Const i, 0))

/-- `nop` as a B word (R59). -/
def execNopB (s : State) : Out := .next (s.mapHart Hart.retireB)

end Sys2Proof.Machine
end

