-- ==== Sys2Proof/Machine/Dispatch.lean ====
section
/-! DEFINITION. The meaning of every constructor of Instr, one arm each. -/
namespace Sys2Proof.Machine

/-- The meaning of an instruction, a B word, or a step of another agent. -/
def exec (i : Instr) (s : State) : Host.Outcome State Fault Refusal :=
  match i with
  | .deviceReset => Sys2Proof.Machine.execDeviceReset s
  | .clusterWavePowerUp => Sys2Proof.Machine.execClusterWavePowerUp s
  | .matrixSliceEnable cl => Sys2Proof.Machine.execMatrixSliceEnable cl s
  | .recoveryGo => Sys2Proof.Machine.execRecoveryGo s
  | .attestationRequest => Sys2Proof.Machine.execAttestationRequest s
  | .trapEntry => Sys2Proof.Machine.execTrapEntry s
  | .interrupt => Sys2Proof.Machine.execInterrupt s
  | .timerCompare => Sys2Proof.Machine.execTimerCompare s
  | .streamDeadlock => Sys2Proof.Machine.execStreamDeadlock s
  | .loadLanding k => Sys2Proof.Machine.execLoadLanding k s
  | .streamGroup q => Sys2Proof.Machine.execStreamGroup q s
  | .storePerformed => Sys2Proof.Machine.execStorePerformed s
  | .pageWalk va k => Sys2Proof.Machine.execPageWalk va k s
  | .remoteRequestArrival r => Sys2Proof.Machine.execRemoteRequestArrival r s
  | .remoteNack => Sys2Proof.Machine.execRemoteNack s
  | .stythnetRequestArrival r => Sys2Proof.Machine.execStythnetRequestArrival r s
  | .stythnetDeliveryTimeout => Sys2Proof.Machine.execStythnetDeliveryTimeout s
  | .hostWrite off data => Sys2Proof.Machine.execHostWrite off data s
  | .hostRead off n => Sys2Proof.Machine.execHostRead off n s
  | .hostAtomic op off wide x e => Sys2Proof.Machine.execHostAtomic op off wide x e s
  | .hostRing die bits => Sys2Proof.Machine.execHostRing die bits s
  | .dbpendClear die bits => Sys2Proof.Machine.execDbpendClear die bits s
  | .launch die slot => Sys2Proof.Machine.execLaunch die slot s
  | .signalDelivery => Sys2Proof.Machine.execSignalDelivery s
  | .dispatch cl => Sys2Proof.Machine.execDispatch cl s
  | .priorityPromotion cl idx => Sys2Proof.Machine.execPriorityPromotion cl idx s
  | .preemptionCut hart => Sys2Proof.Machine.execPreemptionCut hart s
  | .contextSaveComplete hart => Sys2Proof.Machine.execContextSaveComplete hart s
  | .handSpill k => Sys2Proof.Machine.execHandSpill k s
  | .laneGrant core => Sys2Proof.Machine.execLaneGrant core s
  | .barrierComplete k => Sys2Proof.Machine.execBarrierComplete k s
  | .clockRebalance => Sys2Proof.Machine.execClockRebalance s
  | .exchangePhaseEnd => Sys2Proof.Machine.execExchangePhaseEnd s
  | .xsendInject => Sys2Proof.Machine.execXsendInject s
  | .packetArrival k => Sys2Proof.Machine.execPacketArrival k s
  | .mbwaitTimeout => Sys2Proof.Machine.execMbwaitTimeout s
  | .linkNotReadyTimeout => Sys2Proof.Machine.execLinkNotReadyTimeout s
  | .waitgePoll => Sys2Proof.Machine.execWaitgePoll s
  | .hotnessIntervalEnd die c => Sys2Proof.Machine.execHotnessIntervalEnd die c s
  | .hotnessControlWrite die c v => Sys2Proof.Machine.execHotnessControlWrite die c v s
  | .copyStart core => Sys2Proof.Machine.execCopyStart core s
  | .copyLine k row => Sys2Proof.Machine.execCopyLine k row s
  | .copyComplete k => Sys2Proof.Machine.execCopyComplete k s
  | .tarnLoad hart => Sys2Proof.Machine.execTarnLoad hart s
  | .tarnUnload hart => Sys2Proof.Machine.execTarnUnload hart s
  | .tarnQuery hart => Sys2Proof.Machine.execTarnQuery hart s
  | .gangForm cl => Sys2Proof.Machine.execGangForm cl s
  | .mmaComplete k => Sys2Proof.Machine.execMmaComplete k s
  | .matrixCommandStart hart => Sys2Proof.Machine.execMatrixCommandStart hart s
  | .drainComplete k => Sys2Proof.Machine.execDrainComplete k s
  | .flintJobStart cl => Sys2Proof.Machine.execFlintJobStart cl s
  | .flintJobComplete cl => Sys2Proof.Machine.execFlintJobComplete cl s
  | .editApply ses => Sys2Proof.Machine.execEditApply ses s
  | .predicateRun ses => Sys2Proof.Machine.execPredicateRun ses s
  | .predicateTimeout ses => Sys2Proof.Machine.execPredicateTimeout ses s
  | .recomputeInsert ses layer block => Sys2Proof.Machine.execRecomputeInsert ses layer block s
  | .commitStep ses => Sys2Proof.Machine.execCommitStep ses s
  | .mereOpen die => Sys2Proof.Machine.execMereOpen die s
  | .mereOpend die => Sys2Proof.Machine.execMereOpend die s
  | .mereClose die => Sys2Proof.Machine.execMereClose die s
  | .mereClear die => Sys2Proof.Machine.execMereClear die s
  | .migreqWrite v => Sys2Proof.Machine.execMigreqWrite v s
  | .migreqRead d => Sys2Proof.Machine.execMigreqRead d s
  | .hostMigreq die v => Sys2Proof.Machine.execHostMigreq die v s
  | .migrationComplete frame => Sys2Proof.Machine.execMigrationComplete frame s
  | .preempt die v => Sys2Proof.Machine.execPreempt die v s
  | .softint die v => Sys2Proof.Machine.execSoftint die v s
  | .bddataWrite v => Sys2Proof.Machine.execBddataWrite v s
  | .gpartWrite die g v => Sys2Proof.Machine.execGpartWrite die g v s
  | .gridIntervalEnd die => Sys2Proof.Machine.execGridIntervalEnd die s
  | .gridControlWrite die v => Sys2Proof.Machine.execGridControlWrite die v s
  | .monitorControlWrite die m v => Sys2Proof.Machine.execMonitorControlWrite die m v s
  | .monitorSample die m v => Sys2Proof.Machine.execMonitorSample die m v s
  | .snaptrig die src => Sys2Proof.Machine.execSnaptrig die src s
  | .snapshotRemoteLatch die => Sys2Proof.Machine.execSnapshotRemoteLatch die s
  | .snapshotValidClear die => Sys2Proof.Machine.execSnapshotValidClear die s
  | .haltreqSet core => Sys2Proof.Machine.execHaltreqSet core s
  | .haltreqClear core => Sys2Proof.Machine.execHaltreqClear core s
  | .debugStep core => Sys2Proof.Machine.execDebugStep core s
  | .dumpStart die => Sys2Proof.Machine.execDumpStart die s
  | .dumpUnitCopy die => Sys2Proof.Machine.execDumpUnitCopy die s
  | .dumpAbort die => Sys2Proof.Machine.execDumpAbort die s
  | .powerAverageUpdate die w => Sys2Proof.Machine.execPowerAverageUpdate die w s
  | .readClear pa n => Sys2Proof.Machine.execReadClear pa n s
  | .registerWrite pa n v => Sys2Proof.Machine.execRegisterWrite pa n v s
  | .nopA => Sys2Proof.Machine.execNopA s
  | .add d a b => Sys2Proof.Machine.execAdd d a b s
  | .sub d a b => Sys2Proof.Machine.execSub d a b s
  | .and d a b => Sys2Proof.Machine.execAnd d a b s
  | .or d a b => Sys2Proof.Machine.execOr d a b s
  | .xor d a b => Sys2Proof.Machine.execXor d a b s
  | .sll d a b => Sys2Proof.Machine.execSll d a b s
  | .srl d a b => Sys2Proof.Machine.execSrl d a b s
  | .sra d a b => Sys2Proof.Machine.execSra d a b s
  | .slt d a b => Sys2Proof.Machine.execSlt d a b s
  | .sltu d a b => Sys2Proof.Machine.execSltu d a b s
  | .mul d a b => Sys2Proof.Machine.execMul d a b s
  | .mulh d a b => Sys2Proof.Machine.execMulh d a b s
  | .mulhu d a b => Sys2Proof.Machine.execMulhu d a b s
  | .div d a b => Sys2Proof.Machine.execDiv d a b s
  | .divu d a b => Sys2Proof.Machine.execDivu d a b s
  | .rem d a b => Sys2Proof.Machine.execRem d a b s
  | .remu d a b => Sys2Proof.Machine.execRemu d a b s
  | .min d a b => Sys2Proof.Machine.execMin d a b s
  | .max d a b => Sys2Proof.Machine.execMax d a b s
  | .minu d a b => Sys2Proof.Machine.execMinu d a b s
  | .maxu d a b => Sys2Proof.Machine.execMaxu d a b s
  | .addi d a n => Sys2Proof.Machine.execAddi d a n s
  | .andi d a n => Sys2Proof.Machine.execAndi d a n s
  | .ori d a n => Sys2Proof.Machine.execOri d a n s
  | .xori d a n => Sys2Proof.Machine.execXori d a n s
  | .slti d a n => Sys2Proof.Machine.execSlti d a n s
  | .sltiu d a n => Sys2Proof.Machine.execSltiu d a n s
  | .slli d a z => Sys2Proof.Machine.execSlli d a z s
  | .srli d a z => Sys2Proof.Machine.execSrli d a z s
  | .srai d a z => Sys2Proof.Machine.execSrai d a z s
  | .lih d n => Sys2Proof.Machine.execLih d n s
  | .addpc d n => Sys2Proof.Machine.execAddpc d n s
  | .addiLiteral d a w => Sys2Proof.Machine.execAddiLiteral d a w s
  | .andiLiteral d a w => Sys2Proof.Machine.execAndiLiteral d a w s
  | .oriLiteral d a w => Sys2Proof.Machine.execOriLiteral d a w s
  | .xoriLiteral d a w => Sys2Proof.Machine.execXoriLiteral d a w s
  | .lihLiteral d w => Sys2Proof.Machine.execLihLiteral d w s
  | .beq a b o => Sys2Proof.Machine.execBeq a b o s
  | .bne a b o => Sys2Proof.Machine.execBne a b o s
  | .blt a b o => Sys2Proof.Machine.execBlt a b o s
  | .bge a b o => Sys2Proof.Machine.execBge a b o s
  | .bltu a b o => Sys2Proof.Machine.execBltu a b o s
  | .bgeu a b o => Sys2Proof.Machine.execBgeu a b o s
  | .jal d o => Sys2Proof.Machine.execJal d o s
  | .jalr d a n => Sys2Proof.Machine.execJalr d a n s
  | .bqb o => Sys2Proof.Machine.execBqb o s
  | .loop a n => Sys2Proof.Machine.execLoop a n s
  | .loopi c n => Sys2Proof.Machine.execLoopi c n s
  | .ld d a t m => Sys2Proof.Machine.execLd d a t m s
  | .st d a t m => Sys2Proof.Machine.execSt d a t m s
  | .ldq q a m => Sys2Proof.Machine.execLdq q a m s
  | .stq q a m => Sys2Proof.Machine.execStq q a m s
  | .sld q a n z => Sys2Proof.Machine.execSld q a n z s
  | .sst q a n z => Sys2Proof.Machine.execSst q a n z s
  | .swait q => Sys2Proof.Machine.execSwait q s
  | .ldfe d a keep n => Sys2Proof.Machine.execLdfe d a keep n s
  | .stfe d a n => Sys2Proof.Machine.execStfe d a n s
  | .feclr a b => Sys2Proof.Machine.execFeclr a b s
  | .rep n d z t => Sys2Proof.Machine.execRep n d z t s
  | .csrr d c => Sys2Proof.Machine.execCsrr d c s
  | .csrw a c => Sys2Proof.Machine.execCsrw a c s
  | .csrs a c => Sys2Proof.Machine.execCsrs a c s
  | .csrc a c => Sys2Proof.Machine.execCsrc a c s
  | .ecall => Sys2Proof.Machine.execEcall s
  | .eret => Sys2Proof.Machine.execEret s
  | .brk => Sys2Proof.Machine.execBrk s
  | .wfi => Sys2Proof.Machine.execWfi s
  | .lnkr d w => Sys2Proof.Machine.execLnkr d w s
  | .lnkw a w => Sys2Proof.Machine.execLnkw a w s
  | .lnkrFwd d w => Sys2Proof.Machine.execLnkrFwd d w s
  | .amoaddI64 d a b o z => Sys2Proof.Machine.execAmoaddI64 d a b o z s
  | .amoswapI64 d a b o z => Sys2Proof.Machine.execAmoswapI64 d a b o z s
  | .amocasI64 d a b o z => Sys2Proof.Machine.execAmocasI64 d a b o z s
  | .amominI64 d a b o z => Sys2Proof.Machine.execAmominI64 d a b o z s
  | .amomaxI64 d a b o z => Sys2Proof.Machine.execAmomaxI64 d a b o z s
  | .amominuI64 d a b o z => Sys2Proof.Machine.execAmominuI64 d a b o z s
  | .amomaxuI64 d a b o z => Sys2Proof.Machine.execAmomaxuI64 d a b o z s
  | .amoandI64 d a b o z => Sys2Proof.Machine.execAmoandI64 d a b o z s
  | .amoorI64 d a b o z => Sys2Proof.Machine.execAmoorI64 d a b o z s
  | .amoxorI64 d a b o z => Sys2Proof.Machine.execAmoxorI64 d a b o z s
  | .amoaddI32 d a b o z => Sys2Proof.Machine.execAmoaddI32 d a b o z s
  | .amoswapI32 d a b o z => Sys2Proof.Machine.execAmoswapI32 d a b o z s
  | .amocasI32 d a b o z => Sys2Proof.Machine.execAmocasI32 d a b o z s
  | .amominI32 d a b o z => Sys2Proof.Machine.execAmominI32 d a b o z s
  | .amomaxI32 d a b o z => Sys2Proof.Machine.execAmomaxI32 d a b o z s
  | .amominuI32 d a b o z => Sys2Proof.Machine.execAmominuI32 d a b o z s
  | .amomaxuI32 d a b o z => Sys2Proof.Machine.execAmomaxuI32 d a b o z s
  | .amoandI32 d a b o z => Sys2Proof.Machine.execAmoandI32 d a b o z s
  | .amoorI32 d a b o z => Sys2Proof.Machine.execAmoorI32 d a b o z s
  | .amoxorI32 d a b o z => Sys2Proof.Machine.execAmoxorI32 d a b o z s
  | .fence e z => Sys2Proof.Machine.execFence e z s
  | .waitge a b => Sys2Proof.Machine.execWaitge a b s
  | .tspawn a => Sys2Proof.Machine.execTspawn a s
  | .tsig a => Sys2Proof.Machine.execTsig a s
  | .halt => Sys2Proof.Machine.execHalt s
  | .haltRetain a => Sys2Proof.Machine.execHaltRetain a s
  | .tabort => Sys2Proof.Machine.execTabort s
  | .hand a b => Sys2Proof.Machine.execHand a b s
  | .bar a => Sys2Proof.Machine.execBar a s
  | .sstep a => Sys2Proof.Machine.execSstep a s
  | .xsend a b z => Sys2Proof.Machine.execXsend a b z s
  | .mbwait d a b t => Sys2Proof.Machine.execMbwait d a b t s
  | .mgang a => Sys2Proof.Machine.execMgang a s
  | .mma z a b c => Sys2Proof.Machine.execMma z a b c s
  | .mzero c => Sys2Proof.Machine.execMzero c s
  | .mpre z a c => Sys2Proof.Machine.execMpre z a c s
  | .mswap => Sys2Proof.Machine.execMswap s
  | .mdrain z a b c => Sys2Proof.Machine.execMdrain z a b c s
  | .mxsave a => Sys2Proof.Machine.execMxsave a s
  | .mxrest a => Sys2Proof.Machine.execMxrest a s
  | .cpy z a => Sys2Proof.Machine.execCpy z a s
  | .cpynb z d a => Sys2Proof.Machine.execCpynb z d a s
  | .engpush z a b => Sys2Proof.Machine.execEngpush z a b s
  | .engpop d b => Sys2Proof.Machine.execEngpop d b s
  | .sel z a => Sys2Proof.Machine.execSel z a s
  | .selwait d => Sys2Proof.Machine.execSelwait d s
  | .editChg a => Sys2Proof.Machine.execEditChg a s
  | .editIns a => Sys2Proof.Machine.execEditIns a s
  | .editDel a => Sys2Proof.Machine.execEditDel a s
  | .editApp a cb => Sys2Proof.Machine.execEditApp a cb s
  | .dmap d a => Sys2Proof.Machine.execDmap d a s
  | .settle a b => Sys2Proof.Machine.execSettle a b s
  | .tvers d a => Sys2Proof.Machine.execTvers d a s
  | .ldt q a n => Sys2Proof.Machine.execLdt q a n s
  | .ldtNb d q a n => Sys2Proof.Machine.execLdtNb d q a n s
  | .stt q a n => Sys2Proof.Machine.execStt q a n s
  | .tlbinv a b => Sys2Proof.Machine.execTlbinv a b s
  | .ctxsave a => Sys2Proof.Machine.execCtxsave a s
  | .ctxrest a => Sys2Proof.Machine.execCtxrest a s
  | .yield => Sys2Proof.Machine.execYield s
  | .capstart a => Sys2Proof.Machine.execCapstart a s
  | .capstop => Sys2Proof.Machine.execCapstop s
  | .nopB => Sys2Proof.Machine.execNopB s
  | .vaddF32 h d a b => Sys2Proof.Machine.execVaddF32 h d a b s
  | .vaddF16 h d a b => Sys2Proof.Machine.execVaddF16 h d a b s
  | .vaddBf16 h d a b => Sys2Proof.Machine.execVaddBf16 h d a b s
  | .vaddI32 h d a b => Sys2Proof.Machine.execVaddI32 h d a b s
  | .vsubF32 h d a b => Sys2Proof.Machine.execVsubF32 h d a b s
  | .vsubF16 h d a b => Sys2Proof.Machine.execVsubF16 h d a b s
  | .vsubBf16 h d a b => Sys2Proof.Machine.execVsubBf16 h d a b s
  | .vsubI32 h d a b => Sys2Proof.Machine.execVsubI32 h d a b s
  | .vmulF32 h d a b => Sys2Proof.Machine.execVmulF32 h d a b s
  | .vmulF16 h d a b => Sys2Proof.Machine.execVmulF16 h d a b s
  | .vmulBf16 h d a b => Sys2Proof.Machine.execVmulBf16 h d a b s
  | .vmulI32 h d a b => Sys2Proof.Machine.execVmulI32 h d a b s
  | .vfmaF32 h d a b => Sys2Proof.Machine.execVfmaF32 h d a b s
  | .vfmaF16 h d a b => Sys2Proof.Machine.execVfmaF16 h d a b s
  | .vfmaBf16 h d a b => Sys2Proof.Machine.execVfmaBf16 h d a b s
  | .vfmsF32 h d a b => Sys2Proof.Machine.execVfmsF32 h d a b s
  | .vfmsF16 h d a b => Sys2Proof.Machine.execVfmsF16 h d a b s
  | .vfmsBf16 h d a b => Sys2Proof.Machine.execVfmsBf16 h d a b s
  | .vfnmaF32 h d a b => Sys2Proof.Machine.execVfnmaF32 h d a b s
  | .vfnmaF16 h d a b => Sys2Proof.Machine.execVfnmaF16 h d a b s
  | .vfnmaBf16 h d a b => Sys2Proof.Machine.execVfnmaBf16 h d a b s
  | .vfnmsF32 h d a b => Sys2Proof.Machine.execVfnmsF32 h d a b s
  | .vfnmsF16 h d a b => Sys2Proof.Machine.execVfnmsF16 h d a b s
  | .vfnmsBf16 h d a b => Sys2Proof.Machine.execVfnmsBf16 h d a b s
  | .vminF32 h d a b => Sys2Proof.Machine.execVminF32 h d a b s
  | .vminF16 h d a b => Sys2Proof.Machine.execVminF16 h d a b s
  | .vminBf16 h d a b => Sys2Proof.Machine.execVminBf16 h d a b s
  | .vminI32 h d a b => Sys2Proof.Machine.execVminI32 h d a b s
  | .vminN32 h d a b => Sys2Proof.Machine.execVminN32 h d a b s
  | .vmaxF32 h d a b => Sys2Proof.Machine.execVmaxF32 h d a b s
  | .vmaxF16 h d a b => Sys2Proof.Machine.execVmaxF16 h d a b s
  | .vmaxBf16 h d a b => Sys2Proof.Machine.execVmaxBf16 h d a b s
  | .vmaxI32 h d a b => Sys2Proof.Machine.execVmaxI32 h d a b s
  | .vmaxN32 h d a b => Sys2Proof.Machine.execVmaxN32 h d a b s
  | .vcmpeqF32 h d a b => Sys2Proof.Machine.execVcmpeqF32 h d a b s
  | .vcmpeqF16 h d a b => Sys2Proof.Machine.execVcmpeqF16 h d a b s
  | .vcmpeqBf16 h d a b => Sys2Proof.Machine.execVcmpeqBf16 h d a b s
  | .vcmpeqI32 h d a b => Sys2Proof.Machine.execVcmpeqI32 h d a b s
  | .vcmpeqN32 h d a b => Sys2Proof.Machine.execVcmpeqN32 h d a b s
  | .vcmpltF32 h d a b => Sys2Proof.Machine.execVcmpltF32 h d a b s
  | .vcmpltF16 h d a b => Sys2Proof.Machine.execVcmpltF16 h d a b s
  | .vcmpltBf16 h d a b => Sys2Proof.Machine.execVcmpltBf16 h d a b s
  | .vcmpltI32 h d a b => Sys2Proof.Machine.execVcmpltI32 h d a b s
  | .vcmpltN32 h d a b => Sys2Proof.Machine.execVcmpltN32 h d a b s
  | .vcmpleF32 h d a b => Sys2Proof.Machine.execVcmpleF32 h d a b s
  | .vcmpleF16 h d a b => Sys2Proof.Machine.execVcmpleF16 h d a b s
  | .vcmpleBf16 h d a b => Sys2Proof.Machine.execVcmpleBf16 h d a b s
  | .vcmpleI32 h d a b => Sys2Proof.Machine.execVcmpleI32 h d a b s
  | .vcmpleN32 h d a b => Sys2Proof.Machine.execVcmpleN32 h d a b s
  | .vcmpunF32 h d a b => Sys2Proof.Machine.execVcmpunF32 h d a b s
  | .vcmpunF16 h d a b => Sys2Proof.Machine.execVcmpunF16 h d a b s
  | .vcmpunBf16 h d a b => Sys2Proof.Machine.execVcmpunBf16 h d a b s
  | .vselI8 h d a b => Sys2Proof.Machine.execVselI8 h d a b s
  | .vselI16 h d a b => Sys2Proof.Machine.execVselI16 h d a b s
  | .vselI32 h d a b => Sys2Proof.Machine.execVselI32 h d a b s
  | .vselI64 h d a b => Sys2Proof.Machine.execVselI64 h d a b s
  | .vand h d a b => Sys2Proof.Machine.execVand h d a b s
  | .vor h d a b => Sys2Proof.Machine.execVor h d a b s
  | .vxor h d a b => Sys2Proof.Machine.execVxor h d a b s
  | .vshlI32 h d a b => Sys2Proof.Machine.execVshlI32 h d a b s
  | .vshlI64 h d a b => Sys2Proof.Machine.execVshlI64 h d a b s
  | .vshrI32 h d a b => Sys2Proof.Machine.execVshrI32 h d a b s
  | .vshrI64 h d a b => Sys2Proof.Machine.execVshrI64 h d a b s
  | .vsraI32 h d a b => Sys2Proof.Machine.execVsraI32 h d a b s
  | .vsraI64 h d a b => Sys2Proof.Machine.execVsraI64 h d a b s
  | .vmulhI32 h d a b => Sys2Proof.Machine.execVmulhI32 h d a b s
  | .vmulhN32 h d a b => Sys2Proof.Machine.execVmulhN32 h d a b s
  | .vmulhI16 h d a b => Sys2Proof.Machine.execVmulhI16 h d a b s
  | .vmulhN16 h d a b => Sys2Proof.Machine.execVmulhN16 h d a b s
  | .vpaddL8e4 h d a b => Sys2Proof.Machine.execVpaddL8e4 h d a b s
  | .vpaddL8e5 h d a b => Sys2Proof.Machine.execVpaddL8e5 h d a b s
  | .vpaddL8e4Nan h d a b => Sys2Proof.Machine.execVpaddL8e4Nan h d a b s
  | .vpaddL8e5Nan h d a b => Sys2Proof.Machine.execVpaddL8e5Nan h d a b s
  | .vpaddI8 h d a b => Sys2Proof.Machine.execVpaddI8 h d a b s
  | .vpaddN8 h d a b => Sys2Proof.Machine.execVpaddN8 h d a b s
  | .vpmulL8e4 h d a b => Sys2Proof.Machine.execVpmulL8e4 h d a b s
  | .vpmulL8e5 h d a b => Sys2Proof.Machine.execVpmulL8e5 h d a b s
  | .vpmulL8e4Nan h d a b => Sys2Proof.Machine.execVpmulL8e4Nan h d a b s
  | .vpmulL8e5Nan h d a b => Sys2Proof.Machine.execVpmulL8e5Nan h d a b s
  | .vpmulI8 h d a b => Sys2Proof.Machine.execVpmulI8 h d a b s
  | .vpmulN8 h d a b => Sys2Proof.Machine.execVpmulN8 h d a b s
  | .vmix h d a b => Sys2Proof.Machine.execVmix h d a b s
  | .vtempF32 h d a b => Sys2Proof.Machine.execVtempF32 h d a b s
  | .vtempF16 h d a b => Sys2Proof.Machine.execVtempF16 h d a b s
  | .vtempBf16 h d a b => Sys2Proof.Machine.execVtempBf16 h d a b s
  | .vrcpr h d a b => Sys2Proof.Machine.execVrcpr h d a b s
  | .vrsqr h d a b => Sys2Proof.Machine.execVrsqr h d a b s
  | .vpermI8 h d a b => Sys2Proof.Machine.execVpermI8 h d a b s
  | .vpermI16 h d a b => Sys2Proof.Machine.execVpermI16 h d a b s
  | .vpermI32 h d a b => Sys2Proof.Machine.execVpermI32 h d a b s
  | .vpermI64 h d a b => Sys2Proof.Machine.execVpermI64 h d a b s
  | .vmergeI32 h d a b => Sys2Proof.Machine.execVmergeI32 h d a b s
  | .vmergeI64 h d a b => Sys2Proof.Machine.execVmergeI64 h d a b s
  | .vabs h d t b => Sys2Proof.Machine.execVabs h d t b s
  | .vneg h d t b => Sys2Proof.Machine.execVneg h d t b s
  | .vordkey h d t b => Sys2Proof.Machine.execVordkey h d t b s
  | .vrcpa h d t b => Sys2Proof.Machine.execVrcpa h d t b s
  | .vrsqa h d t b => Sys2Proof.Machine.execVrsqa h d t b s
  | .vlog2 h d t b => Sys2Proof.Machine.execVlog2 h d t b s
  | .vexp2 h d t b => Sys2Proof.Machine.execVexp2 h d t b s
  | .vredsum h d t r b => Sys2Proof.Machine.execVredsum h d t r b s
  | .vredmax h d t b => Sys2Proof.Machine.execVredmax h d t b s
  | .vredmin h d t b => Sys2Proof.Machine.execVredmin h d t b s
  | .vargmax h d t b => Sys2Proof.Machine.execVargmax h d t b s
  | .vargmin h d t b => Sys2Proof.Machine.execVargmin h d t b s
  | .vcompress h d t b => Sys2Proof.Machine.execVcompress h d t b s
  | .vmov h d b => Sys2Proof.Machine.execVmov h d b s
  | .vcvt h d t u r n z => Sys2Proof.Machine.execVcvt h d t u r n z s
  | .vpack h d t u r n z => Sys2Proof.Machine.execVpack h d t u r n z s
  | .vunpack h d t u z => Sys2Proof.Machine.execVunpack h d t u z s
  | .vslide h d w n a => Sys2Proof.Machine.execVslide h d w n a s
  | .vbcast h d w n a => Sys2Proof.Machine.execVbcast h d w n a s
  | .mand h d a b w => Sys2Proof.Machine.execMand h d a b w s
  | .mor h d a b w => Sys2Proof.Machine.execMor h d a b w s
  | .mxor h d a b w => Sys2Proof.Machine.execMxor h d a b w s
  | .mnot h d b w => Sys2Proof.Machine.execMnot h d b w s
  | .mpop h d b w => Sys2Proof.Machine.execMpop h d b w s
  | .mfirst h d b w => Sys2Proof.Machine.execMfirst h d b w s
  | .qadv q n => Sys2Proof.Machine.execQadv q n s
  | .bqput e b => Sys2Proof.Machine.execBqput e b s
  | .vaddiLow h d n => Sys2Proof.Machine.execVaddiLow h d n s
  | .vaddiHigh h d n => Sys2Proof.Machine.execVaddiHigh h d n s
  | .vmuliLow h d n => Sys2Proof.Machine.execVmuliLow h d n s
  | .vmuliHigh h d n => Sys2Proof.Machine.execVmuliHigh h d n s
  | .vsplatLow h d n => Sys2Proof.Machine.execVsplatLow h d n s
  | .vsplatHigh h d n => Sys2Proof.Machine.execVsplatHigh h d n s
  | .stythnetPortTrainingChange p up => Sys2Proof.Machine.execStythnetPortTrainingChange p up s
  | .matrixArrayIdle cl => Sys2Proof.Machine.execMatrixArrayIdle cl s
  | .ownershipTagWrite frame tag => Sys2Proof.Machine.execOwnershipTagWrite frame tag s

end Sys2Proof.Machine
end

