-- ==== Sys2Proof/Machine/Fetch.lean ====
section
/-! DEFINITION. Fetching and decoding a frame (R14, R81), forwarding B words (R14, R15), and what the current hart does next. -/
namespace Sys2Proof.Machine

/-- What happens next: an instruction runs in a state, or the machine only passes to a state. -/
inductive Move where
  | run (i : Instr) (s : State)
  /-- A B word, which completes only with its four lane groups granted (R164). -/
  | issue (i : Instr) (s : State)
  | pass (s : State)

/-- Adds the steps of `rep` to the register fields of a B word (R86): vd by sd, vs1 by s1, vs2 by s2, modulo 32; modulo 8 in a BI word. The fields are those of R63. -/
def repWord (w : Nat) (j sd s1 s2 : Nat) : Nat :=
  let maj := fld w 22 7
  let add (w lo : Nat) (n : Nat) : Nat := w - fld w lo 5 * 2 ^ lo + (fld w lo 5 + j * n) % 32 * 2 ^ lo
  let vdst (w : Nat) : Nat := if fld w 21 1 = 0 then add w 16 sd else w
  let vs2 (w : Nat) : Nat := if fld w 8 1 = 0 then add w 0 s2 else w
  if maj ≤ 0x5D then
    let w1 := vdst w
    let w2 := if fld w 14 2 = 0 then add w1 9 s1 else w1
    vs2 w2
  else if maj ≤ 0x6B then vs2 (vdst w)
  else if maj ≤ 0x6E then add (add w 17 sd) 0 s2
  else if maj ≤ 0x70 then (let w1 := vdst w; if fld w 5 2 = 0 then add w1 0 s1 else w1)
  else if maj ≤ 0x73 then add (add (add w 17 sd) 12 s1) 7 s2
  else if maj ≤ 0x76 then add (add w 17 sd) 7 s2
  else if maj = 0x78 then vs2 w
  else if 0x79 ≤ maj then
    let base := maj - (maj - 0x79) % 2
    let r := ((maj - 0x79) % 2 * 4 + fld w 20 2 + j * sd) % 8
    w - maj * 2 ^ 22 - fld w 20 2 * 2 ^ 20 + (base + r / 4) * 2 ^ 22 + r % 4 * 2 ^ 20
  else w

/-- The B instruction of a sequencer entry, in its repetition (R86), or its illegal word (R69). -/
noncomputable def SeqEnt.slot (e : SeqEnt) : Slot :=
  let w := repWord e.word.toNat e.rep e.sd e.s1 e.s2
  match e.bad, e.lit with
  | some v, _ => .bad .soloPair v
  | none, some l => if e.word = 0 ∧ l = 0 then .op .nopB else loneSlot (decodeB w) e.word l
  | none, none => match decodeB w none with
    | some i => .op i
    | none => .bad .word e.word

/-- Does a queue instruction or B word of a task without vector backing trap (R155)? -/
def needsV : Instr → Bool
  | .ldq _ _ _ => true | .stq _ _ _ => true | .sld _ _ _ _ => true | .sst _ _ _ _ => true | .swait _ => true
  | .ldt _ _ _ => true | .ldtNb _ _ _ _ => true | .stt _ _ _ => true | _ => false

/-- Issues the B word at the head of the sequencer (R15): an illegal one, or one of a task with NOV 1, traps (R69, R155). -/
noncomputable def State.issueB (s : State) (e : SeqEnt) : Move :=
  match e.slot with
  | .op i => if s.hart.nov then .pass (s.trapB ⟨2, e.word.setWidth 64, 0⟩) else .issue i s
  | .bad _ v => .pass (s.trapB ⟨2, v.setWidth 64, 0⟩)
  | .absent => .pass s

/-- The entry of a lone B frame or of a pair frame whose A word is `nop` (R14, R58). -/
def Hart.forward (h : Hart) (word : W32) (lit : Option W32) (bad : Option W32) : Hart :=
  let n := loopNext h.pc h.loops
  let h1 := ({ h with pc := n.1, loops := n.2, fr := none, fno := h.fno + 1, aStall := none, aWhy := none } : Hart).capCount 1
  h1.send [⟨h.pc, h.fno, word, lit, bad, 0, 0, 0, 0, h1.snap n.1, none⟩]

/-- Forwards a B word and, if the sequencer was empty and no older store has its walk still to make (R203), issues it in the same step. -/
noncomputable def State.forwardB (s : State) (word : W32) (lit : Option W32) (bad : Option W32) : Move :=
  if 16 ≤ s.hart.seq.length then .pass (s.waitA .seqFull)
  else
    let s1 := s.mapHart (·.forward word lit bad)
    if s.hart.seq.isEmpty then (match s1.hart.seq with | e :: _ => if s1.hart.walkUpTo e.fno then .pass s1 else s1.issueB e | [] => .pass s1) else .pass s1

/-- The fetched frame in the access pipeline (R14, R15, R70): its A word runs, a frame without one only forwards its B word. -/
noncomputable def State.runFrame (s : State) (w0 w1 : W32) : Move :=
  let f := decodeFrame w0 w1
  let bad (v : W32) : Move := .pass (s.mapHart fun h => { h with trap := some ⟨2, v.setWidth 64, 0⟩ })
  match f.a, f.b with
  | .bad _ v, _ => bad v
  | .absent, .op _ => s.forwardB (w0 &&& 0x3FFFFFFF) (some w1) none
  | .absent, .bad _ v => s.forwardB (w0 &&& 0x3FFFFFFF) (some w1) (some v)
  | .absent, .absent => .run .nopA s
  | .op .nopA, .op _ => s.forwardB w1 none none
  | .op .nopA, .bad _ v => s.forwardB w1 none (some v)
  | .op i, b =>
    if b ≠ .absent ∧ 16 ≤ s.hart.seq.length then .pass (s.waitA .seqFull)
    else if needsV i ∧ s.hart.nov then bad w0
    else .run i s

/-- Repetitions of a frame's B word (R86): the count of a `rep` beside it, else 1. -/
noncomputable def frameReps (w0 w1 : W32) : Nat × Nat × Nat × Nat :=
  match (decodeFrame w0 w1).a with
  | .op (.rep n d a b) => (if n = 0 then 64 else n.toNat, d.toNat, a.toNat, b.toNat)
  | _ => (1, 0, 0, 0)

/-- Issues the B word that `eret` or a restored context left (R24, R87). -/
noncomputable def State.reissue (s : State) (f : W64) (next : Nat) : Move :=
  match s.fetch f with
  | .wait t => .pass (t.waitA .other)
  | .fault e t => .pass ((t.mapHart fun h => { h with redo := none }).takeTrap e true f s.hart.pc next)
  | .ok w0 w1 s =>
    let (n, sd, s1, s2) := frameReps w0 w1
    let none' : Move := .pass (s.mapHart fun h => { h with redo := none })
    let send (word : W32) (lit bad : Option W32) : Move :=
      if next = 0 ∨ n < next then none'
      else .pass (s.mapHart fun h =>
        let h1 := { h with redo := none, fno := h.fno + 1 }
        h1.send (repEntries ⟨f, h.fno, word, lit, bad, 0, sd, s1, s2, h.snap h.pc, none⟩ (next - 1) (n + 1 - next)))
    match (decodeFrame w0 w1).b with
    | .absent => none'
    | .op _ => if w0.getLsbD 31 then send (w0 &&& 0x3FFFFFFF) (some w1) none else send w1 none none
    | .bad _ v => send v none (some v)

/-- What the access pipeline does (R14, R15): while words of the last frame have still to enter a full sequencer, it waits. -/
noncomputable def State.accessMove (s : State) : Option Move :=
  let h := s.hart
  if h.aStall.isSome || h.trap.isSome then none
  else if !h.enter.isEmpty then some (.pass (s.waitA .seqFull))
  else match h.redo with
    | some (f, n) => if h.seq.isEmpty then some (s.reissue f n) else none
    | none => match h.fr with
      | some (w0, w1) => some (s.runFrame w0 w1)
      | none => match s.fetch h.pc with
        | .wait t => some (.pass (t.waitA .other))
        | .fault e t => some (.pass (t.mapHart fun h => { h with trap := some e }))
        | .ok w0 w1 t => some ((t.mapHart fun h => { h with fr := some (w0, w1) }).runFrame w0 w1)

/-- The head of the sequencer, which issues once the stores of its own and older frames have made their walks (R203), a held trap, or the access pipeline. -/
noncomputable def State.headMove (s : State) : Option Move :=
  let h := s.hart
  match h.seq with
  | e :: _ => if h.bStall.isSome || h.walkUpTo e.fno then s.accessMove else some (s.issueB e)
  | [] => if h.trap.isSome && h.flight.isEmpty then some (.run .trapEntry s) else s.accessMove

/-- What the current hart does next on its own: a repetition that enters the sequencer (R15), else `headMove`. -/
noncomputable def State.hartMove (s : State) : Option Move :=
  let h := s.hart
  if h.run ≠ .running then none
  else match h.enter with
    | e :: es => if h.seq.length < 16 then some (.pass (s.mapHart fun h => { h with seq := h.seq ++ [e], enter := es })) else s.headMove
    | [] => s.headMove

end Sys2Proof.Machine
end

