-- ==== Sys2Proof/Machine/Heads.lean ====
section
/-! DEFINITION. Which heads of the sequencers of a core are ready when the lane arbiter's clk passes (R164): a head that would wait on a queue, which its hart has not tried yet, waits from then on. -/
namespace Sys2Proof.Machine

/-- What the head of a hart's sequencer waits on, if it were issued now (R110). -/
noncomputable def State.headWaits (s : State) (id : Nat) : Option Why :=
  match (s.getHart id).seq with
  | e :: _ => match e.slot with
    | .op i => match exec i (s.focus id) with
      | .next t => t.hart.bStall
      | _ => none
    | _ => none
  | [] => none

/-- A hart whose head has not been tried tries it. -/
noncomputable def State.tryHead (s : State) (id : Nat) : State :=
  let h := s.getHart id
  if h.run ≠ .running ∨ h.bStall.isSome = true then s
  else match s.headWaits id with
    | some w => s.setHart id (h.stallB w)
    | none => s

/-- LANE_GRANT with every head of the core tried (R164). -/
noncomputable def State.laneClk (s : State) (core : Nat) : Out :=
  exec (.laneGrant core) (((List.range 4).map (hartOf core)).foldl State.tryHead s)

end Sys2Proof.Machine
end

