-- ==== Sys2Proof/Machine/Sched.lean ====
section
/-! DEFINITION. The order in which the model's one deterministic machine lets harts, engines and the device's own units act (log entries 1 and 2). The hart whose turn it is goes on; every fourth step an engine or unit acts, and every eighth the turn passes on. -/
namespace Sys2Proof.Machine

/-- A step for a hart. -/
def State.for (s : State) (id : Nat) (i : Instr) : Move := .run i (s.focus id)

/-- What a hart may still do once it has stopped fetching (R342, R346): issued frames continue. -/
noncomputable def State.stoppedMove (s : State) : Option Move :=
  let h := s.hart
  match h.enter, h.seq with
  | e :: es, _ =>
    if h.seq.length < 16 then some (.pass (s.mapHart fun h => { h with seq := h.seq ++ [e], enter := es }))
    else match h.seq with | e :: _ => if h.bStall.isSome || h.walkUpTo e.fno then none else some (s.issueB e) | [] => none
  | [], e :: _ => if h.bStall.isSome || h.walkUpTo e.fno then none else some (s.issueB e)
  | [], [] => if h.trap.isSome && h.flight.isEmpty then some (.run .trapEntry s) else none

/-- Is the hart at `wfi` (R103), which an interrupt lets complete? -/
def Hart.atWfi (h : Hart) : Bool :=
  match h.fr with
  | some (w, _) => bitsN (w.setWidth 64) 29 24 == 0x23 && bitsN (w.setWidth 64) 5 0 == 4
  | none => false
/-- Has the hart been released from a completed barrier (R178)? It leaves before a cut. -/
def Hart.released (h : Hart) : Bool := match h.wait with | .bar (some _) => true | _ => false

/-- What the current hart does: an interrupt that is due, or a pre-emption request, stops it at a cut (R342, R346); while its core is halted, interrupts and pre-emption wait and it only finishes the frame of a STEP (R377, R378); in the boot ROM, what the ROM does (R383). -/
noncomputable def State.turn (s : State) : Option Move :=
  let h := s.hart
  let cut (i : Instr) : Option Move := match s.stoppedMove with
    | some m => some m
    | none => if s.cuttable then some (.run i s) else none
  if h.run ≠ .running ∨ s.mayIssue s.hid = false then none
  else if !s.ctl && s.coreHalted (coreOf s.hid) then s.hartMove
  else if s.hid = bootHart ∧ s.inRom = true then (if s.bootState = 0 then some (.pass s.bootRom) else none)
  else if (s.irq s.hid).isSome then
    if h.atWfi then (s.mapHart Hart.wake).hartMove else if h.released then s.hartMove else cut .interrupt
  else if h.preAsked then
    if h.goesOn || h.released then s.hartMove else cut (.preemptionCut s.hid)
  else s.hartMove

/-- Does the current hart still fetch: no interrupt and no pre-emption request stops it (R342, R346)? -/
def State.fetches (s : State) : Bool :=
  let h := s.hart
  if !s.ctl && s.coreHalted (coreOf s.hid) then true
  else if (s.irq s.hid).isSome then h.released
  else if h.preAsked then h.goesOn || h.released
  else true

/-- Is a hart ready in R16's sense: does its access pipeline wait for nothing, whatever its execute stream does? -/
def State.issues (s : State) (id : Nat) : Bool :=
  let h := s.getHart id
  h.run == .running && s.mayIssue id && (s.focus id).fetches && h.aStall.isNone && h.trap.isNone && h.enter.isEmpty && (h.redo.isNone || h.seq.isEmpty)

/-- Can the word at the head of a hart's sequencer issue? -/
def Hart.headReady (h : Hart) : Bool :=
  match h.seq with | e :: _ => h.bStall.isNone && !h.walkUpTo e.fno | [] => false

/-- The core's access pipeline takes its ready harts in rotating order (R16): where the hart is about to issue a frame, the ready hart after the one served last issues instead, its B words apart. -/
noncomputable def State.turnOf (s : State) : Option Move :=
  if s.ctl || !s.issues s.hid || s.hart.headReady then s.turn
  else
    let c := coreOf s.hid
    let x := s.core c
    match ((List.range 4).map fun i => (x.last + 1 + i) % 4).find? fun n => s.issues (hartOf c n) with
    | some n => ((s.setCore c { x with last := n }).focus (hartOf c n)).accessMove
    | none => s.turn

/-- Running harts after the current one, in cyclic order of HARTID. -/
def State.after? (s : State) : List Nat :=
  let ids := (s.others.filter fun p => p.2.run == .running && p.1 != s.hid).map Prod.fst
  (ids.filter fun i => decide (s.hid < i)) ++ ids.filter fun i => decide (i < s.hid)

/-- The turn passes on among the running harts, in order of HARTID by the count of steps, and every waiting instruction looks again. -/
def State.pass (s : State) : State :=
  let ids := s.after?.filter (· < s.hid) ++ (if s.hart.run = .running then [s.hid] else []) ++ s.after?.filter (s.hid < ·)
  match ids[s.tick / 8 % ids.length]? with
  | some i => s.wakeAll.focus i
  | none => s.wakeAll

/-- Steps of a hart's own units: walks, stores, landings, streams, waits whose time has come (R18, R19, R21, R92, R180, R183, R185, R203, R229, R346). -/
noncomputable def State.hartEvents (s : State) (id : Nat) (h : Hart) : List Instr :=
  let acts := s.mayIssue id
  let walk := (h.walks.filter fun w => !h.discardable w.fno).head?.toList.map fun w => Instr.pageWalk w.va w.kind
  let store := if (match (s.focus id).looseStores with | e :: _ => h.storeReady e | [] => false) then [Instr.storePerformed] else []
  let land := if h.flight.isEmpty then [] else [Instr.loadLanding (s.tick % h.flight.length)]
  let streams := if !acts then [] else ((List.range 8).filter fun q =>
    let x := h.str[q]?.getD Stream.idle
    x.active && !x.faulted && decide (x.next < x.total)).map fun q => Instr.streamGroup (BitVec.ofNat 3 q)
  let save := match h.pre with | some p => if p.st = .cut then [Instr.contextSaveComplete id] else [] | none => []
  let dead := if acts && (s.focus id).deadlocked then [Instr.streamDeadlock] else []
  let major := match h.aStall, h.fr with | some _, some (w, _) => bitsN (w.setWidth 64) 29 24 | _, _ => 0
  let wait := if !acts then [] else match major with
    | 0x2A => [Instr.xsendInject]
    | 0x2B => [Instr.mbwaitTimeout]
    | 0x24 => [Instr.linkNotReadyTimeout]
    | 0x28 => [Instr.waitgePoll]
    | _ => if h.atWfi && h.aStall.isSome && decide (h.reg .timecmp ≤ s.clk) then [Instr.timerCompare] else []
  walk ++ store ++ land ++ streams ++ save ++ dead ++ wait

/-- Steps of copies and Tarn arrays (R267 to R272, R285); the FIFO heads of a cluster start in rotation (R267). -/
noncomputable def State.copyEvents (s : State) : List Instr :=
  let cls := ((s.cores.filter fun p => decide (p.1 < 16384) && p.2.copyReady).map fun p => p.1 / 8).eraseDups
  let starts := (cls.filterMap fun cl => (((List.range 8).map fun i => 8 * cl + ((s.cluster cl).rotCopy + i) % 8).find? fun c => (s.core c).copyReady).map Instr.copyStart) ++
    (s.cores.filter fun p => decide (16384 ≤ p.1) && p.2.copyReady).map fun p => Instr.copyStart p.1
  let waits (c : CopyFly) : Bool := s.cores.any fun p => p.2.inbox.any fun r => match r.by_ with | .copy k _ => k == c.id | _ => false
  let moves := (s.dev.copies.filter fun c => !waits c).map fun c => match c.todo with
    | [] => Instr.copyComplete c.id
    | r :: _ => Instr.copyLine c.id (if 0 < c.pos ∨ c.row.isSome = true then r else c.todo.getD (s.tick % c.todo.length) r)
  let tarn := s.dies.flatMap fun p => p.2.tarnq.head?.toList.filterMap fun c =>
    match bitsN c.w[0] 63 60 with
    | 1 => some (Instr.tarnLoad c.hart)
    | 2 => some (Instr.tarnUnload c.hart)
    | 3 => some (Instr.tarnQuery c.hart)
    | _ => none
  starts ++ moves ++ tarn

/-- Steps of matrix arrays and Flint (R232, R240 to R242, R255, R296, R382). -/
noncomputable def State.arrayEvents (s : State) : List Instr :=
  let heads := s.allHarts.filterMap fun p => match p.2.mq with | c :: _ => some (p.1, c) | [] => none
  let tails := s.clus.flatMap fun p => p.2.tails.filterMap fun t => match t.mq with | c :: _ => some (t.key, c) | [] => none
  let cmds := (heads ++ tails).filterMap fun p => if p.2.kind = .mma then none else some (Instr.matrixCommandStart p.1)
  let forms := (((heads.filter (·.2.kind == .mma)).map fun p => clusOf p.1) ++ ((tails.filter (·.2.kind == .mma)).map fun p => s.mxCore p.1 / 8)).eraseDups
  let perCl := s.clus.flatMap fun (cl, c) =>
    c.ops.map (fun o => Instr.mmaComplete o.id) ++
    (if c.flint.isSome then [Instr.flintJobComplete cl] else []) ++
    (if c.powered && decide (c.slices < 8) && (c.mxBusy == 0 || forms.contains cl) then [Instr.matrixSliceEnable cl] else []) ++
    (if c.slices = 8 ∧ c.ops.isEmpty = true ∧ c.mxBusy ≠ 0 ∧ 2 ^ 20 ≤ (s.clk - c.mxBusy).toNat then [Instr.matrixArrayIdle cl] else [])
  let flint := ((s.cores.filter fun p => decide (p.1 < 16384) && !p.2.flintq.isEmpty && (s.cluster (p.1 / 8)).flint.isNone).map fun p => p.1 / 8).eraseDups
  cmds ++ forms.map Instr.gangForm ++ s.dev.drains.map (fun d => Instr.drainComplete d.id) ++ perCl ++ flint.map Instr.flintJobStart

/-- The insertion that one of a die's wanted blocks stands for, if it can be made now: an edit whose tokens are judged holds those of its session (R317), a full Basin those of its partition (R309). -/
def State.wanted (s : State) (d : Nat) (p : Nat × Nat) : Option Instr :=
  match s.ses? p.1 with
  | some z => if z.judging || (s.basinSlot z.part (512 * d)).isNone then none
    else (s.logical z (p.2 % z.nslot)).map fun b => .recomputeInsert (BitVec.ofNat 12 p.1) (p.2 / z.nslot) b
  | none => none

/-- Steps of the trackers (R304, R308, R309, R311, R316, R317). An insertion that can be made goes before the other events of its session (R308), and those that stand in its order before its edits and other commit steps (R312). -/
noncomputable def State.mereEvents (s : State) : List Instr :=
  s.dies.flatMap fun (d, x) =>
    let cmd := s.getReg (regBase d + 0x2000010)
    (if cmd.getLsbD 63 && bitsN (s.getReg (regBase d + 0x2000000)) 63 60 == 3 then [Instr.mereClose (BitVec.ofNat 2 d)] else []) ++
    (x.want.findSome? (s.wanted d)).toList ++
    x.sessions.flatMap fun (i, y) => match y with
      | none => []
      | some z =>
        let n : BitVec 12 := BitVec.ofNat 12 (1024 * d + i)
        let edit := match z.pred, z.edits with
          | some _, _ => [Instr.predicateTimeout n]
          | none, e :: _ => if e.judged z && z.accepted != 0 then [Instr.predicateRun n] else [Instr.editApply n]
          | none, [] => []
        if x.want.any (fun p => p.1 == 1024 * d + i && (s.wanted d p).isSome) then []
        else if !z.queue.isEmpty then [Instr.commitStep n]
        else (if z.commits.isEmpty then [] else [Instr.commitStep n]) ++ edit

/-- Steps of Basin, signals, packets and barriers (R152 to R159, R166, R177 to R181). -/
noncomputable def State.basinEvents (s : State) : List Instr :=
  let perCl := s.clus.flatMap fun (cl, c) =>
    (if c.powered && decide (0 < c.readyCount) then [Instr.dispatch cl] else []) ++
    (c.basin.filterMap fun (i, oe) => match oe with
      | some e => (match e.hand with
        | some r => if !r.spilled && !r.tried && decide (90000 ≤ (s.clk - r.bound).toNat) && e.ctx.isNone then some (Instr.handSpill (512 * cl + i)) else none
        | none => none)
      | none => none) ++
    c.doms.filterMap fun d => match d.release with | some p => if p ≤ s.clk then some (Instr.barrierComplete (256 * cl + d.key)) else none | none => none
  let perDie := s.dies.flatMap fun (d, x) =>
    x.doms.filterMap fun y => match y.release with | some p => if p ≤ s.clk then some (Instr.barrierComplete (2 ^ 20 + 16 * d + y.key)) else none | none => none
  (if s.dev.signals.isEmpty then [] else [Instr.signalDelivery]) ++
    (if s.dev.packets.isEmpty then [] else [Instr.packetArrival (s.tick % s.dev.packets.length)]) ++
    (if s.dev.balance.any s.mayBalance then [Instr.clockRebalance] else []) ++
    (if (s.allHarts.any fun p => match p.2.phase with | some q => q.ended s.clk | none => false) || s.clus.any fun p => p.2.phases.any (·.ended s.clk) then [Instr.exchangePhaseEnd] else []) ++ perCl ++ perDie

/-- Samples of the sources that are sampled each clk (R375): ready entries, and the depth of a controller's queue, which the model does not hold. The samples of the other sources are taken where their event happens (`State.sampled`). -/
noncomputable def State.monitorEvents (s : State) : List Instr :=
  (List.range 4).flatMap fun d => (List.range 16).filterMap fun m =>
    let c := s.getReg (monBase d m)
    let src := bitsN c 39 32
    if c.getLsbD 63 && (src == 2 || (src == 3 && decide (bitsN c 52 44 < 12))) then
      some (Instr.monitorSample (BitVec.ofNat 2 d) (BitVec.ofNat 4 m)
        (if src = 2 then BitVec.ofNat 32 (s.cluster (512 * d + bitsN c 52 44)).readyCount else Config.sampleValue s.tick))
    else none

/-- Steps of the control complex and of a die's own units (R150, R208, R358, R366, R374, R376, R380 to R382, R385). -/
noncomputable def State.dieEvents (s : State) : List Instr :=
  let perDie := s.dies.flatMap fun (d, x) =>
    let n : BitVec 2 := BitVec.ofNat 2 d
    (if x.dump.isSome then [Instr.dumpUnitCopy n] else []) ++
    (match x.snapAt with | t :: _ => if t ≤ s.clk then [Instr.snapshotRemoteLatch n] else [] | [] => []) ++
    (x.hot.filterMap fun (c, h) =>
      let r := s.getReg (hotReg d c)
      if r.getLsbD 63 && decide (2 ^ bitsN r 4 0 ≤ (s.clk - h.since).toNat) then some (Instr.hotnessIntervalEnd n (BitVec.ofNat 4 c)) else none) ++
    (let r := s.getReg (obsBase d)
      if r.getLsbD 63 && decide (2 ^ bitsN r 4 0 ≤ (s.clk - x.gridSince).toNat) then [Instr.gridIntervalEnd n] else [])
  let launches := if s.bootState ≠ 1 then [] else (List.range 4).filterMap fun d =>
    let r := s.getReg (hostPage d + 0x1008)
    (lowest 16 r.getLsbD).map fun k => Instr.launch (BitVec.ofNat 2 d) (BitVec.ofNat 4 k)
  let moves := s.regs.filterMap fun (k, w) =>
    let o := regOff (8 * k)
    if isRegSpace (8 * k) && decide (0x8000000 ≤ o) && decide (o < 0xB000000) && o % 16 == 0 && w.getLsbD 63 then
      some (Instr.migrationComplete (regDie (8 * k) * 0x300000 + (o - 0x8000000) / 16)) else none
  let late := if s.dev.stuck.any fun x => decide (1800000 ≤ (s.clk - x.start).toNat) then [Instr.stythnetDeliveryTimeout] else []
  let wave := if s.bootState = 1 ∧ s.dev.waves < 64 then [Instr.clusterWavePowerUp] else []
  let sign := if s.bootState = 1 ∧ s.getReg (hostPage 0 + 0x2060) = 1 then [Instr.attestationRequest] else []
  let lanes := if s.ctl then [] else [Instr.laneGrant (coreOf s.hid)]
  let power := ((List.range 4).filter fun d => decide (2 ^ 16 ≤ (s.clk - (s.die d).powerSince).toNat)).map fun d =>
    Instr.powerAverageUpdate (BitVec.ofNat 2 d) ((Config.sampleValue s.tick).setWidth 16)
  perDie ++ launches ++ moves ++ late ++ wave ++ sign ++ lanes ++ s.monitorEvents ++ power

/-- One element of a list, by the count of steps. -/
def State.pick {α : Type} (s : State) (l : List α) : Option α := if l.isEmpty then none else l[s.tick / 48 % l.length]?

/-- A step of one of the six groups of engines and units. -/
noncomputable def State.groupMove (s : State) (g : Nat) : Option Move :=
  match g with
  | 0 => (s.pick (s.allHarts.flatMap fun (id, h) => (s.hartEvents id h).map (id, ·))).map fun p => s.for p.1 p.2
  | 1 => (s.pick s.copyEvents).map (.run · s)
  | 2 => (s.pick s.arrayEvents).map (.run · s)
  | 3 => (s.pick s.mereEvents).map (.run · s)
  | 4 => (s.pick s.basinEvents).map (.run · s)
  | _ => (s.pick s.dieEvents).map (.run · s)

/-- The next step of an engine or unit: the groups take turns. -/
noncomputable def State.engineMove (s : State) : Option Move :=
  (List.range 6).findSome? fun i => s.groupMove ((s.tick / 8 + i) % 6)

/-- What happens next when the agenda is empty. -/
noncomputable def State.nextMove (s : State) : Move :=
  let engine : Move := s.engineMove.getD (.pass s.pass)
  if s.tick % 8 = 7 then .pass s.pass
  else if s.tick % 4 = 3 then engine
  else match s.turnOf with
    | some m => m
    | none => match s.after?.findSome? fun i => (s.focus i).turnOf with
      | some m => m
      | none => engine

/-- Adds clk to a counter that selects an event (R354). -/
def Hart.capClk (h : Hart) (ev n : Nat) : Hart :=
  let sel := h.reg .capsel
  let up (h : Hart) (r : HReg) (i : Nat) : Hart := if bitsN sel (8 * i + 7) (8 * i) = ev then h.setReg r (h.reg r + w64 n) else h
  up (up (up (up h .capctr0 0) .capctr1 1) .capctr2 2) .capctr3 3

/-- What a wait counts as (R354). -/
def Why.event : Why → Option Nat
  | .queue => some 3
  | .bq => some 3
  | .seqFull => some 4
  | .store => some 4
  | .sync => some 11
  | _ => none

/-- Time passes for an open capture (R354, R355): CAPCLK and the clk spent waiting, unless the context is at a cut. -/
def Hart.capTime (h : Hart) (n : Nat) : Hart :=
  let off := match h.pre with | some p => p.st == .cut | none => false
  if !(h.reg .capstat).getLsbD 63 || off then h
  else
    let h1 := h.setReg .capclk (h.reg .capclk + w64 n)
    let h2 := match h1.aWhy.bind Why.event with | some e => h1.capClk e n | none => h1
    match h2.bWhy.bind Why.event with | some e => if h2.aWhy.bind Why.event = some e then h2 else h2.capClk e n | none => h2

/-- CYCLE advances by a free number of clk (R9; log entry 3): harts and engines act side by side, so many steps may fall in one clk. Captures count it, and the step counts; held trace records that have become final are written (R379). -/
def State.advance (s0 : State) : State :=
  let s := s0.traceDue
  let n := (Config.elapsedClk s.tick).toNat
  { s with
    clk := s.clk + w64 n, tick := s.tick + 1
    hart := s.hart.capTime n
    others := s.others.map fun p => (p.1, p.2.capTime n) }

end Sys2Proof.Machine
end

