-- ==== Sys2Proof/Machine/Step.lean ====
section
/-! DEFINITION. One step of the machine: the next step of the agenda, else the next move of the harts and engines; then CYCLE advances. And the layout of a table word at the next fetch (fixed name of this task). -/
namespace Sys2Proof.Machine

/-- A next state after its time has passed. -/
def advanceOut : Out → Out
  | .next s => .next s.advance
  | r => r

/-- Does the B word of an ordinary hart still lack lane groups (R164)? A control hart shares its execute unit with none (log entry 68). -/
def State.ungranted (s : State) : Bool := !s.ctl && decide (s.hart.lanes < 4)

/-- A move as a step. A B word that does not wait on a queue is ready, and completes once its lane groups are granted; until then the arbiter's clk passes (R164). -/
noncomputable def Move.exec : Move → Out
  | .run (.laneGrant c) s => s.laneClk c
  | .run i s => Machine.exec i s
  | .issue i s => match Machine.exec i s with
    | .next t => if t.hart.bStall.isNone && s.ungranted then s.laneClk (coreOf s.hid) else .next t
    | r => r
  | .pass s => .next s

/-- An access that stood in an inbound buffer (R378), or a Mere read whose point has come (R318, R320): the hart's waiting A word executes again (R104). -/
noncomputable def State.urgentMove (s : State) (id : Nat) : Move :=
  let t := ({ s with dev := { s.dev with urgent := s.dev.urgent.tail } } : State).focus id
  match t.hart.fr with
  | some (w0, w1) => if t.hart.run = .running ∧ t.hart.trap.isNone ∧ t.mayIssue id = true then (t.mapHart Hart.wake).runFrame w0 w1 else .pass t
  | none => .pass t

/-- One step. -/
noncomputable def step (s : State) : Host.Outcome State Fault Refusal :=
  advanceOut (match s.dev.urgent, s.agenda with
    | id :: _, _ => (s.urgentMove id).exec
    | [], i :: rest => exec i { s with agenda := rest }
    | [], [] => s.nextMove.exec)

/-- Where `withFetchWord` places the program: the boot ROM has loaded it and started the hart there (log entry 7). -/
def fetchAt : Nat := 0x10000

/-- The state with a table word stored where `step` fetches its next instruction (fixed name of this task): as the boot ROM leaves the machine after loading an image (R383), with page tables for the identity and the frame at the hart's PC. -/
noncomputable def State.withFetchWord (s : State) (_nbits w : Nat) : State :=
  let f := tableFrame w
  let s1 := s.setPrt s.part ⟨0x1000, (s.prt s.part).svec⟩
  let s2 := (((s1.wrN 0x1000 8 (2 ^ 62 + 0x2000)).wrN 0x2000 8 (2 ^ 62 + 0x3000)).wrN 0x3000 8 (2 ^ 63 + 0x37))
  let s3 := (s2.wrN fetchAt 4 f.1.toNat).wrN (fetchAt + 4) 4 f.2.toNat
  { s3 with
    agenda := [], tick := 0
    hart := { s3.hart with
      run := .running, pc := w64 fetchAt, fr := none, redo := none, seq := [], enter := [], trap := none, aStall := none, bStall := none
      flight := [] } }

end Sys2Proof.Machine
end

