-- ==== Sys2Proof/Safety.lean ====
section
/-! DEFINITION. What counts as a safe state, and the words the statements are made of: what a completing A word, a retiring B word, a wait and a trap leave alone. -/
namespace Sys2Proof.Machine

/-- A safe state: its memory has its one canonical form, so that equal memories are equal data. -/
def Safe (s : State) : Prop := Memory.wf s.mem = true

/-- The event counters of a capture, which count while an instruction runs (R354). -/
def HReg.counter : HReg → Bool
  | .capctr0 => true | .capctr1 => true | .capctr2 => true | .capctr3 => true | _ => false

/-- The instruction answers a next state, and P holds of it. -/
def Ends (i : Instr) (s : State) (P : State → Prop) : Prop := ∃ t, exec i s = .next t ∧ P t

/-- `t` differs from `s` in the current hart only: no memory, no other hart, no core, no engine and no register outside the hart. -/
def OnlyHart (s t : State) : Prop := t = { s with hart := t.hart }

/-- Every byte of memory reads as before. -/
def SameMemory (s t : State) : Prop := ∀ k, t.rdB k = s.rdB k

/-- Every byte of memory reads as before but the n bytes from key k on. -/
def SameMemoryBut (s t : State) (k n : Nat) : Prop := ∀ j, (j < k ∨ k + n ≤ j) → t.rdB j = s.rdB j

/-- Two records of the dies differ in the hotness sketches only, which count what the memory controllers see (R207). -/
def HotOnly (a b : List (Nat × Die)) : Prop := ∀ d, kget Die.reset b d = { kget Die.reset a d with hot := (kget Die.reset b d).hot }

/-- The translations that an access leaves to be noted: none, or its own, which sets A and D later (R203). -/
def WalkNoted (s : State) (ws : List WalkReq) (a : W64) (k : AccKind) : Prop := ws = s.hart.walks ∨ ∃ back, ws = s.hart.walks ++ [⟨a, k, s.hart.fno, back⟩]

/-- A completing A word: in its hart it changes nothing but g, the control registers, PC and the loop stack, the frame pipeline and the sequencer, which its B word enters as the youngest (R14, R83). -/
structure CompletesA (s t : State) : Prop where
  outside : OnlyHart s t
  inside : t.hart = { s.hart with
    g := t.hart.g, regs := t.hart.regs, pc := t.hart.pc, loops := t.hart.loops, fr := none, fno := s.hart.fno + 1
    aStall := none, bStall := none, aWhy := none, wait := .none, seq := t.hart.seq, enter := t.hart.enter }
  regs : ∀ r : HReg, r.counter = false → t.hart.reg r = s.hart.reg r

/-- The frame's B word, if it has one, is the youngest entry of the sequencer, once (R14, R15). -/
def SendsB (s t : State) : Prop :=
  match s.hart.bWord? with
  | none => t.hart.seq = s.hart.seq ∧ t.hart.enter = s.hart.enter
  | some w => ∃ e : SeqEnt, t.hart.seq = s.hart.seq ++ [e] ∧ t.hart.enter = [] ∧ e.word = w ∧ e.pc = s.hart.pc ∧ e.rep = 0 ∧ e.snap.npc = t.hart.pc

/-- The next frame and the loop stack are those of R83. -/
def NextFrame (s t : State) : Prop :=
  t.hart.pc = (loopNext s.hart.pc s.hart.loops).1 ∧ t.hart.loops = (loopNext s.hart.pc s.hart.loops).2

/-- A taken control transfer from the frame at PC to a target, with the loop stack of R84. -/
def GoesTo (s t : State) (target : W64) (call : Bool) : Prop :=
  t.hart.pc = target ∧ t.hart.loops = loopTaken s.hart.pc target call s.hart.loops

/-- gd holds v, every other g register is unchanged, and g0 reads zero (R7). -/
def WritesG (s t : State) (d : GReg) (v : W64) : Prop := ∀ r, t.g r = if r = d ∧ r ≠ 0 then v else s.g r

/-- The A word completes with v in gd, its frame with the next frame of R83. -/
structure Writes (s t : State) (d : GReg) (v : W64) : Prop where
  completes : CompletesA s t
  sends : SendsB s t
  next : NextFrame s t
  g : WritesG s t d v

/-- The A word completes and writes no g register. -/
def Finishes (s t : State) : Prop := Writes s t 0 0

/-- The A word completes with a taken control transfer, v in gd. -/
structure Jumps (s t : State) (target : W64) (call : Bool) (d : GReg) (v : W64) : Prop where
  completes : CompletesA s t
  sends : SendsB s t
  next : GoesTo s t target call
  g : WritesG s t d v

/-- The A word waits: it executes again, and nothing but the note of the wait changes (R104). -/
def WaitsA (s t : State) : Prop :=
  ∃ w now, t = { s with hart := { s.hart with aStall := some w, aWhy := some w, stallAt := now } }

/-- The stream fault at which the unit of a queue has stopped: queue and group in TRAPVAL, the group's address in TRAPADDR (R93). -/
def streamExn (h : Hart) (q : Nat) : Exn :=
  let x := h.str[q]?.getD Stream.idle
  ⟨14, streamVal (BitVec.ofNat 3 q) x.next, x.groupAddr x.next⟩

/-- The instruction, having come to the state u, waits for the streams of some queues. The model's choice (log entry 67): the fault of the first of them that has stopped is raised at it. -/
def WaitsStreamsAt (i : Instr) (s u : State) (qs : List Nat) : Prop :=
  let stopped (q : Nat) : Prop := (u.hart.str[q]?.getD Stream.idle).faulted = true
  ((∀ q ∈ qs, ¬ stopped q) → Ends i s (WaitsA u)) ∧
  ∀ l q r, qs = l ++ q :: r → (∀ p ∈ l, ¬ stopped p) → stopped q → exec i s = .next (u.trapA (streamExn u.hart q))

/-- As `WaitsStreamsAt`, where the instruction has changed nothing yet. -/
def WaitsStreams (i : Instr) (s : State) (qs : List Nat) : Prop := WaitsStreamsAt i s s qs

/-- The instruction waits until the hart is quiet, or for its stores; a stopped stream that a buffered store waits for is raised as in `WaitsStreams`. -/
def Drains (i : Instr) (s : State) : Prop := WaitsStreams i s (s.hart.sbuf.flatMap s.storeQueues)

/-- The store buffer has no place (R21): the instruction, having come to the state u, waits, or, where no store in it is free to go, as in `Drains` for the streams that hold them up. -/
def BufferFullAt (i : Instr) (s u : State) : Prop :=
  (u.looseStores ≠ [] → Ends i s (WaitsA u)) ∧ (u.looseStores = [] → WaitsStreamsAt i s u (u.hart.sbuf.flatMap u.storeQueues))

/-- As `BufferFullAt`, where the instruction has changed nothing yet. -/
def BufferFull (i : Instr) (s : State) : Prop := BufferFullAt i s s

/-- A retiring B word: in its hart it changes nothing but v, the queues, FFLAGS and the sequencer, whose head it leaves (R15, R23, R51). -/
structure RetiresB (s t : State) (fl : FFl) : Prop where
  outside : OnlyHart s t
  inside : t.hart = { s.hart with
    v := t.hart.v, q := t.hart.q, bq := t.hart.bq, regs := t.hart.regs, seq := s.hart.seqNext.1, enter := s.hart.seqNext.2
    aStall := none, bStall := none, bWhy := none, lanes := 0, undo := t.hart.undo }
  regs : ∀ r : HReg, r.counter = false → r ≠ .fflags → t.hart.reg r = s.hart.reg r
  flags : t.csr .fflags = s.csr .fflags ||| fl.setWidth 64

/-- vd holds x and every other v register, and every slot and pointer of the queues, is unchanged (R108). -/
def WritesV (s t : State) (d : VDst) (x : V512) : Prop :=
  t.hart.bq = s.hart.bq ∧
  match d with
  | .v r => (∀ p, t.hart.rv p = if p = r then x else s.hart.rv p) ∧ t.hart.q = s.hart.q
  | .q hi n => t.hart.v = s.hart.v ∧ ∀ p, t.hart.rq p = if p = outQ hi then
      { s.hart.rq p with slots := (s.hart.rq p).slots.set ((s.hart.rq p).tailSlot n).toNat x } else s.hart.rq p

/-- Element k of a 512-bit value (R44). -/
def V512.at (w : Nat) (x : V512) (k : Nat) : Nat := elem w x.toNat k

/-- x holds, element by element, the low bits of f where the mask is active, and the old element or zero where it is not (R107). -/
def Lanes (h : Hart) (m : BMask) (w : Nat) (old x : V512) (f : Nat → Nat) : Prop :=
  ∀ k, k < 512 / w → V512.at w x k = if h.active m k then f k % 2 ^ w else if m.agn then 0 else V512.at w old k

/-- Flags of the active elements among n (R51, R107). -/
def laneFlags (h : Hart) (m : BMask) (n : Nat) (f : Nat → FFl) : FFl :=
  (List.range n).foldl (fun a k => a ||| if h.active m k then f k else 0) 0

/-- Element k of a vs2 operand of type t, a scalar the same for every k (R64). -/
def Vs2.at (t : ETy) (rm : Nat) (nanm : Bool) (y : Vs2) (k : Nat) : Nat :=
  match y with
  | .vec x => V512.at t.width x k
  | .scalar x => (scalarAs t rm nanm x).1
/-- Flags of the conversion of a scalar, if any of n elements is active (R64). -/
def Vs2.flags (h : Hart) (m : BMask) (n : Nat) (t : ETy) (rm : Nat) (nanm : Bool) (y : Vs2) : FFl :=
  match y with
  | .vec _ => 0
  | .scalar x => if h.anyActive m n then (scalarAs t rm nanm x).2 else 0

/-- The B word retires with a destination of the given elements and flags. -/
def RetiresLanes (s : State) (i : Instr) (m : BMask) (w : Nat) (d : VDst) (old : V512) (f : Nat → Nat) (fl : FFl) : Prop :=
  ∃ t x, exec i s = .next t ∧ RetiresB s t fl ∧ WritesV s t d x ∧ Lanes s.hart m w old x f

/-- The hart can take a trap with a cause: its depth is below 2, the mode that takes it has a vector, and it runs no end-of-sequence predicate (R25, R163, R317). -/
structure CanTrap (s : State) (cause : Nat) : Prop where
  depth : s.hart.td < 2
  vector : s.hart.reg (bank (trapMode s.ctl s.hart.priv cause)).tvec ≠ 0
  free : s.ctl = true → s.predOf s.hid = none

/-- Nothing of an older frame is left to do before a trap at PC (R23): no B word to retire, no load to land, and no store to perform but those that a stream group holds up (log entries 19 and 67). -/
def TrapReady (s : State) : Prop := s.hart.older = false ∧ s.hart.flight = [] ∧ ∀ e ∈ s.looseStores, ¬ e.fno < s.hart.fno

/-- The access columns of the control registers (R9, R72, R87, R156, R176, R185, R194, R201, R234 to R236, R271, R341, R354, R366): first and last number, and whether a hart in a mode may write, `none` where it may not read either. -/
def csrColumns (ctl : Bool) (priv : Nat) : List (Nat × Nat × Option Bool) :=
  let system : Option Bool := if priv = 0 then none else some true
  let machine : Option Bool := if ctl = true ∧ priv = 3 then some true else none
  [(0x000, 0x002, some true), (0x003, 0x005, some false), (0x010, 0x015, some false), (0x016, 0x016, some (priv != 0)), (0x017, 0x018, some true),
   (0x019, 0x019, some false), (0x100, 0x100, system), (0x101, 0x101, some (priv != 0)), (0x102, 0x10C, system), (0x120, 0x121, machine),
   (0x130, 0x137, system), (0x140, 0x140, system), (0x141, 0x141, some (ctl && priv == 3)), (0x142, 0x143, system),
   (0x150, 0x155, some true), (0x160, 0x160, some true), (0x161, 0x167, some false)]

/-- The fields of the control registers (R10 to R12 and the tables of the chapters named at `csrColumns`): number, read-write fields, fields that a written one clears, each as its highest and lowest bit. -/
def csrFields (ctl : Bool) : List (Nat × List (Nat × Nat) × List (Nat × Nat)) :=
  [(0x000, [(4, 0)], []), (0x001, [(1, 0)], []), (0x002, [(23, 0)], []), (0x016, [(15, 0)], []), (0x017, [], [(1, 0)]), (0x018, [], [(23, 20)]),
   (0x100, [(11, 11), (8, 7), (4, 3)], []), (0x101, [(3, 0)], []), (0x102, [(63, 6)], []), (0x103, [(7, 0)], []), (0x104, [(63, 3)], []),
   (0x105, [(63, 0)], []), (0x106, [(63, 0)], []), (0x107, [(63, 3)], []), (0x108, [(6, 0)], []), (0x109, [], if ctl then [(4, 4), (0, 0)] else [(0, 0)]),
   (0x10A, [(if ctl then 5 else 1, 0)], []), (0x10B, [(63, 0)], []), (0x10C, [(63, 0)], []), (0x120, [(7, 0)], []), (0x121, [(63, 0)], []),
   (0x130, [(63, 63), (59, 54), (14, 8), (5, 0)], []), (0x131, [(63, 63), (59, 54), (14, 8), (5, 0)], []), (0x132, [(63, 63), (59, 54), (14, 8), (5, 0)], []),
   (0x133, [(63, 63), (59, 54), (14, 8), (5, 0)], []), (0x134, [(63, 63), (59, 54), (14, 8), (5, 0)], []), (0x135, [(63, 63), (59, 54), (14, 8), (5, 0)], []),
   (0x136, [(63, 63), (59, 54), (14, 8), (5, 0)], []), (0x137, [(63, 63), (59, 54), (14, 8), (5, 0)], []),
   (0x140, [(51, 12)], []), (0x141, [(5, 0)], []), (0x142, [(63, 6)], []), (0x143, [(63, 0)], []), (0x150, [(19, 0)], []), (0x151, [(63, 0)], []),
   (0x152, [(63, 0)], []), (0x153, [(63, 0)], []), (0x154, [(63, 0)], []), (0x155, [], [(31, 18)]), (0x160, [(31, 0)], [])]
/-- Is a bit in one of a list of fields? -/
def inFields (l : List (Nat × Nat)) (b : Nat) : Bool := l.any fun f => decide (f.2 ≤ b) && decide (b ≤ f.1)

/-- A row of the register tables: the first register, the distance between copies and their number, and the read-write, write-one-to-clear and read-clear fields. -/
structure RegRow where
  first : Nat
  step : Nat
  copies : Nat
  rw : List (Nat × Nat)
  w1c : List (Nat × Nat)
  rc : List (Nat × Nat)
/-- A row of read-write fields. -/
def RegRow.only (first step copies : Nat) (rw : List (Nat × Nat)) : RegRow := ⟨first, step, copies, rw, [], []⟩
/-- Is bit b of the register at an offset in one of the fields that `f` picks from the rows? -/
def rowBit (l : List RegRow) (f : RegRow → List (Nat × Nat)) (o b : Nat) : Bool :=
  l.any fun r => decide (r.first ≤ o ∧ (o - r.first) % r.step = 0 ∧ (o - r.first) / r.step < r.copies) && inFields (f r) b

/-- The register space of a die, by offset (R209, R304, R348, R357, R359, R365, R367, R374 to R377, R380, R381, R387); what reads as 0 however written, SNAPTRIG and STEP, holds no bit. -/
def dieRows (d : Nat) : List RegRow :=
  let one := if d = 0 then 1 else 0
  [.only 0x1000000 0x10000 12 [(63, 63), (4, 0)], .only 0x1000008 0x10000 12 [(51, 9)],
   .only 0x2000000 8 1 [(63, 60), (11, 0)], .only 0x2000008 8 1 [(63, 6)], ⟨0x2000018, 8, 1, [], [(63, 63)], []⟩,
   .only 0x3000000 8 1 [(63, 6)], .only 0x3000008 8 1 [(51, 12)], .only 0x3000010 8 1 [(12, 0)], .only 0x3000018 8 2 [(15, 0)],
   .only 0x5000000 8 one [(9, 0)], .only 0x5001000 16 (256 * one) [(63, 38)], .only 0x5008000 8 (1024 * one) [(63, 62), (17, 0)],
   .only 0x6000000 8 32 [(5, 0)], .only 0x6000100 8 12 [(6, 0)],
   .only 0x7000000 8 1 [(63, 63), (4, 0)], .only 0x7000008 8 1 [(51, 16)], ⟨0x7000018, 8, 1, [], [], [(63, 32), (31, 0)]⟩,
   .only 0x7000100 0x100 16 [(63, 63), (52, 0)],
   ⟨0x7002000, 8, 1, [(3, 0)], [(63, 63)], []⟩, ⟨0x7002010, 8, 1, [], [], [(63, 0)]⟩,
   .only 0x7003000 8 1 [(63, 60), (5, 0)], .only 0x7003008 8 1 [(55, 16)], .only 0x7003010 8 1 [(39, 16)], .only 0x7003018 8 1 [(51, 16)],
   .only 0x7003020 8 1 [(51, 3)], .only 0x7004000 8 1 [(15, 0)], ⟨0x7005000, 8, 1, [], [(63, 63)], []⟩, ⟨0x7005010, 8, 1, [], [], [(63, 0)]⟩,
   .only 0x8000000 16 0x300000 [(63, 60), (50, 16)], .only 0x8000008 16 0x300000 [(63, 0)],
   .only 0xC000000 64 4096 [(63, 63), (3, 0)], .only 0xC000008 64 4096 [(51, 12)], .only 0xC000010 64 4096 [(63, 63), (23, 20)],
   ⟨0xC000018, 64, 4096, [], [], [(31, 0)]⟩]
/-- The host page of a die, by offset (R364, R384, R385); RING, which reads as 0, holds no bit. -/
def hostRows (d : Nat) : List RegRow :=
  let one := if d = 0 then 1 else 0
  [.only 0x0000 8 64 [(63, 0)], .only 0x1010 8 1 [(63, 0)], .only 0x2008 8 one [(50, 0)], .only 0x2010 8 one [(31, 0)], .only 0x2018 8 one [(0, 0)],
   .only 0x2040 8 (4 * one) [(63, 0)]]

/-- Bits [2:0] of an address cleared. -/
def frameOf (a : W64) : W64 := a &&& ~~~7

/-- Trap entry (R25, R72, R87) of a hart h: its registers k afterwards, for the mode that R340 selects; every other control register, g, v, the constant bank and the loop stack are those of h. -/
structure TrapTaken (s : State) (h k : Hart) (e : Exn) (trb : Bool) (f npc : W64) (rep : Nat) : Prop where
  pc : k.pc = h.reg (bank (trapMode s.ctl h.priv e.cause)).tvec + BitVec.ofNat 64 (64 * e.cause)
  cause : k.reg (bank (trapMode s.ctl h.priv e.cause)).cause = BitVec.ofNat 64 e.cause
  trappc : k.reg (bank (trapMode s.ctl h.priv e.cause)).pc = frameOf f
  val : k.reg (bank (trapMode s.ctl h.priv e.cause)).val = e.val
  addr : k.reg (bank (trapMode s.ctl h.priv e.cause)).addr = e.addr
  npc : k.reg (bank (trapMode s.ctl h.priv e.cause)).npc = frameOf (if trb then npc else f + 8)
  rep : k.reg (bank (trapMode s.ctl h.priv e.cause)).rep = if trb then BitVec.ofNat 64 rep else 1
  priv : k.priv = trapMode s.ctl h.priv e.cause
  ie : k.ie = false
  depth : k.td = h.td + 1
  trb : (k.reg .status).getLsbD 11 = trb
  ppriv : bitsN (k.reg .status) 8 7 = h.priv
  pie : (k.reg .status).getLsbD 4 = h.ie
  others : ∀ r : HReg, r.counter = false → r ≠ .status →
    r ∉ [(bank (trapMode s.ctl h.priv e.cause)).cause, (bank (trapMode s.ctl h.priv e.cause)).pc, (bank (trapMode s.ctl h.priv e.cause)).val,
      (bank (trapMode s.ctl h.priv e.cause)).addr, (bank (trapMode s.ctl h.priv e.cause)).npc, (bank (trapMode s.ctl h.priv e.cause)).rep] → k.reg r = h.reg r
  state : k.g = h.g ∧ k.v = h.v ∧ k.k = h.k ∧ k.loops = h.loops ∧ k.q = h.q ∧ k.bq = h.bq ∧ k.sbuf = h.sbuf ∧ k.flight = h.flight
  streams : ∀ q : BitVec 3, k.stream q = if e.cause = 14 ∧ q.toNat = bitsN e.val 2 0 then { h.stream q with told := h.td + 1 } else h.stream q
  frame : k.fno = h.fno + 1
  idle : k.seq = [] ∧ k.enter = [] ∧ k.trap = none ∧ k.aStall = none ∧ k.bStall = none ∧ k.fr = none

/-- The number that a finite value is; zero for the others. -/
def FV.rat : FV → Rat
  | .num s m e => (if s then -1 else 1) * (m : Rat) * (2 : Rat) ^ e
  | _ => 0
/-- Is a value a finite number? -/
def FV.finite : FV → Prop
  | .num _ _ _ => True
  | _ => False
/-- Is a value zero, of either sign? -/
def FV.zero : FV → Prop
  | .num _ m _ => m = 0
  | _ => False
/-- Sign of a value. -/
def FV.neg? : FV → Bool
  | .num s _ _ => s
  | .inf s => s
  | .nan => false
/-- A number cut towards zero to a multiple of a positive one (R244). -/
def towardsZero (q x : Rat) : Rat := (if x < 0 then -1 else 1) * ((x.abs / q).floor : Rat) * q

/-- A number known by the rationals not above it and the rationals not below it. -/
structure Cut where
  le : Rat → Prop
  ge : Rat → Prop
/-- A rational number. -/
def Cut.of (v : Rat) : Cut := ⟨fun x => x ≤ v, fun x => v ≤ x⟩
/-- 1 / √x of a positive rational. -/
def Cut.rsqrt (x : Rat) : Cut := ⟨fun y => y ≤ 0 ∨ y * y * x ≤ 1, fun y => 0 ≤ y ∧ 1 ≤ y * y * x⟩
/-- The binary logarithm of a positive rational. -/
def Cut.log2 (x : Rat) : Cut := ⟨fun y => (2 : Rat) ^ y.num ≤ x ^ y.den, fun y => x ^ y.den ≤ (2 : Rat) ^ y.num⟩
/-- 2 to the power of a rational. -/
def Cut.exp2 (x : Rat) : Cut := ⟨fun y => y ≤ 0 ∨ y ^ x.den ≤ (2 : Rat) ^ x.num, fun y => 0 ≤ y ∧ (2 : Rat) ^ x.num ≤ y ^ x.den⟩

/-- y is what v rounds to among the multiples of 2^q, in mode rm: 0 RNE, 1 RTZ, 2 RUP, 3 RDN (R50). -/
def RoundsTo (rm : Nat) (q : Int) (v : Cut) (y : Rat) : Prop :=
  let u : Rat := 2 ^ q
  let down := v.le y ∧ ¬ v.le (y + u)
  let up := v.ge y ∧ ¬ v.ge (y - u)
  ∃ n : Int, y = n * u ∧ match rm with
    | 0 => v.le (y - u / 2) ∧ v.ge (y + u / 2) ∧ (v.ge (y - u / 2) ∨ v.le (y + u / 2) → n % 2 = 0)
    | 1 => (v.le 0 → down) ∧ (¬ v.le 0 → up)
    | 2 => up
    | _ => down

/-- r is v, not zero, written into a format with prec significant bits: rounded once, with OF, UF and NX (R49 to R51, R129). -/
def Rounded (f : FFmt) (prec rm : Nat) (nanm : Bool) (v : Cut) (r : Rl) : Prop :=
  let largest : Rat := (2 ^ (f.mb + 1) - 1) * 2 ^ (f.emax - f.mb)
  ∀ (s : Bool) (k : Int) (y z : Rat), (if s then v.ge (-2 ^ k) ∧ ¬ v.ge (-2 ^ (k + 1)) else v.le (2 ^ k) ∧ ¬ v.le (2 ^ (k + 1))) →
    RoundsTo rm (k + 1 - prec) v y → RoundsTo rm (max (k + 1 - prec) (f.emin - f.mb)) v z →
      (largest < y.abs → r = (if !f.ieee then (if nanm then f.nan else f.largest s)
        else if rm = 1 ∨ (rm = 2 ∧ s = true) ∨ (rm = 3 ∧ s = false) then f.largest s else f.inf s, fOF ||| fNX)) ∧
      (y.abs ≤ largest → r.1 < 2 ^ (1 + f.eb + f.mb) ∧ (f.dec r.1).finite ∧ (f.dec r.1).rat = z ∧ (z = 0 → r.1 = f.zero s) ∧
        (v.le z ∧ v.ge z → r.2 = 0) ∧ (¬ (v.le z ∧ v.ge z) → r.2 = fNX ||| flIf (decide (y.abs < 2 ^ f.emin)) fUF))

/-- p is the product of two values, none of which is a zero beside an infinity (R113, R114). -/
def IsProduct (a b p : FV) : Prop :=
  (a = .nan ∨ b = .nan → p = .nan) ∧
  (a ≠ .nan → b ≠ .nan → (a.finite → b.finite → p.finite ∧ p.rat = a.rat * b.rat) ∧ p.neg? = (a.neg? != b.neg?) ∧
    (¬ a.finite ∨ ¬ b.finite → p = .inf (a.neg? != b.neg?)))

/-- r is the sum of two values, negated or not, rounded once into an IEEE format (R50, R114). -/
def IsSum (f : FFmt) (rm : Nat) (a b : FV) (neg : Bool) (r : Rl) : Prop :=
  (a = .nan ∨ b = .nan → r = (f.nan, 0)) ∧
  (∀ p, a = .inf p → (∀ q, b = .inf q → r = if p = q then (f.inf (p != neg), 0) else (f.nan, fNV)) ∧ (b.finite → r = (f.inf (p != neg), 0))) ∧
  (∀ q, b = .inf q → a.finite → r = (f.inf (q != neg), 0)) ∧
  (a.finite → b.finite →
    let v := a.rat + b.rat
    (v ≠ 0 → Rounded f (f.mb + 1) rm false (.of (if neg then -v else v)) r) ∧
    (v = 0 → r = (f.zero ((if a.neg? = b.neg? then a.neg? else rm == 3) != neg), 0)))

/-- Node j of a level of the tree of R133 over some leaves, an absent one `none`, with the flags of the operations below it. -/
def treeNode (op : Nat → Nat → Rl) (leaf : Nat → Option Nat) : Nat → Nat → Option Nat × FFl
  | 0, j => (leaf j, 0)
  | n + 1, j =>
    let a := treeNode op leaf n (2 * j)
    let b := treeNode op leaf n (2 * j + 1)
    match a.1, b.1 with
    | none, y => (y, a.2 ||| b.2)
    | some x, none => (some x, a.2 ||| b.2)
    | some x, some y => (some (op x y).1, a.2 ||| b.2 ||| (op x y).2)

/-- The value of an `ld` from n = `ldSize t` little-endian bytes: sign for .i, zero for .n (R88). -/
def loadValue (t : LdTy) (x : Nat) : W64 :=
  match t with
  | .i64 => BitVec.ofNat 64 x
  | .i32 => (BitVec.ofNat 32 x).signExtend 64
  | .i16 => (BitVec.ofNat 16 x).signExtend 64
  | .i8 => (BitVec.ofNat 8 x).signExtend 64
  | .n32 => (BitVec.ofNat 32 x).setWidth 64
  | .n16 => (BitVec.ofNat 16 x).setWidth 64
  | .n8 => (BitVec.ofNat 8 x).setWidth 64

/-- The state a queue is in once a load for its next slot has been issued (R18). -/
def Queue.reserved (x : Queue) (fno : Nat) : Queue := { x with ents := x.ents ++ [.pend fno] }
/-- The slot that the next load of a queue reserves (R18). -/
def Queue.tail (x : Queue) : BitVec 4 := x.head + BitVec.ofNat 4 x.ents.length
/-- A queue whose head slot has been taken (R18). -/
def Queue.popped (x : Queue) : Queue := { x with head := x.head + 1, ents := x.ents.drop 1 }

/-- A store buffer with one store more, behind those of its own and of older frames (R21). -/
def withStore (l : List StoreEnt) (e : StoreEnt) : List StoreEnt :=
  l.takeWhile (fun x => decide (x.fno ≤ e.fno)) ++ e :: l.dropWhile (fun x => decide (x.fno ≤ e.fno))

/-- Repetitions of R83 at a frame: what is left of a loop stack after n completions of the frame at f. -/
def afterPasses (f : W64) : Nat → W64 × List LoopEnt → W64 × List LoopEnt
  | 0, p => p
  | n + 1, p => afterPasses f n (loopNext f p.2)

/-- The instruction is `j`, or the step `e` that makes a waiting word `j` look again (R104). -/
def RunsAs (s : State) (i e j : Instr) : Prop :=
  i = j ∨ (i = e ∧ s.hart.aStall ≠ none ∧ ∃ w0 w1, s.hart.fr = some (w0, w1) ∧ w0.toNat % 2 ^ 30 = j.bits)

/-- The A word has not completed: it waits in its hart, and nothing outside the hart changes. -/
def Holds (s t : State) : Prop :=
  OnlyHart s t ∧ t.hart = { s.hart with aStall := t.hart.aStall, aWhy := t.hart.aWhy, stallAt := t.hart.stallAt, wait := t.hart.wait } ∧ t.hart.aStall ≠ none

/-- The value an atomic stores (R225). -/
def amoValue {w : Nat} (op : AmoOp) (old b e : BitVec w) : BitVec w :=
  match op with
  | .add => old + b
  | .swap => b
  | .cas => if old = e then b else old
  | .min => if b.toInt < old.toInt then b else old
  | .max => if old.toInt < b.toInt then b else old
  | .minu => if b.toNat < old.toNat then b else old
  | .maxu => if old.toNat < b.toNat then b else old
  | .and => old &&& b
  | .or => old ||| b
  | .xor => old ^^^ b

/-- Which atomic an instruction is, its size in bytes, its registers, ORD and SCOPE (R225). -/
def amoForm : Instr → Option (AmoOp × Nat × GReg × GReg × GReg × BitVec 2 × Scope)
  | .amoaddI64 d a b o c => some (.add, 8, d, a, b, o, c)
  | .amoswapI64 d a b o c => some (.swap, 8, d, a, b, o, c)
  | .amocasI64 d a b o c => some (.cas, 8, d, a, b, o, c)
  | .amominI64 d a b o c => some (.min, 8, d, a, b, o, c)
  | .amomaxI64 d a b o c => some (.max, 8, d, a, b, o, c)
  | .amominuI64 d a b o c => some (.minu, 8, d, a, b, o, c)
  | .amomaxuI64 d a b o c => some (.maxu, 8, d, a, b, o, c)
  | .amoandI64 d a b o c => some (.and, 8, d, a, b, o, c)
  | .amoorI64 d a b o c => some (.or, 8, d, a, b, o, c)
  | .amoxorI64 d a b o c => some (.xor, 8, d, a, b, o, c)
  | .amoaddI32 d a b o c => some (.add, 4, d, a, b, o, c)
  | .amoswapI32 d a b o c => some (.swap, 4, d, a, b, o, c)
  | .amocasI32 d a b o c => some (.cas, 4, d, a, b, o, c)
  | .amominI32 d a b o c => some (.min, 4, d, a, b, o, c)
  | .amomaxI32 d a b o c => some (.max, 4, d, a, b, o, c)
  | .amominuI32 d a b o c => some (.minu, 4, d, a, b, o, c)
  | .amomaxuI32 d a b o c => some (.maxu, 4, d, a, b, o, c)
  | .amoandI32 d a b o c => some (.and, 4, d, a, b, o, c)
  | .amoorI32 d a b o c => some (.or, 4, d, a, b, o, c)
  | .amoxorI32 d a b o c => some (.xor, 4, d, a, b, o, c)
  | _ => none

/-- Nothing keeps a task from ending: no pending matrix fault, no refused packet, no older B word, no store stream, no unacknowledged packet and nothing buffered, and no B word in the frame (R94, R168, R173, R181, R256). -/
def MayEnd (s : State) : Prop :=
  s.ctl = false ∧ bitsN (s.csr .mstat) 17 16 = 0 ∧ s.hart.nacks = [] ∧ s.hart.older = false ∧ s.hart.sstFault 6 = false ∧ s.hart.sstFault 7 = false ∧
    (s.hart.stream 6).active = false ∧ (s.hart.stream 7).active = false ∧ s.unacked s.hid = false ∧ s.hart.sbuf = [] ∧ s.hart.walks = [] ∧ s.hart.bWord? = none

/-- A hart on the free list (R161): parked, with nothing of its task. -/
def Parked (h : Hart) : Prop :=
  h.run = .parked ∧ h.task = none ∧ h.priv = 0 ∧ h.seq = [] ∧ h.sbuf = [] ∧ h.cbuf = [] ∧ h.mq = [] ∧ h.pre = none ∧ h.phase = none ∧ h.nacks = []

/-- The pool units that the current hart held are no longer its own: its scratchpad and backing units are free or kept for another, and without a matrix command under way its backing and accumulator units are free (R161, R163, R260). -/
def UnitsLeft (s u : State) : Prop :=
  let x := s.core (coreOf s.hid)
  let idle := s.hart.mq = [] ∧ (∀ o ∈ (s.cluster (clusOf s.hid)).ops, ∀ m ∈ o.members, m.own ≠ s.hid) ∧ ∀ d ∈ s.dev.drains, d.own ≠ s.hid
  ∀ n, n < 64 → let k := kget UnitUse.free (u.core (coreOf s.hid)).units n
    k ≠ .scratch (s.hid % 4) ∧ k ≠ .backing (s.hid % 4) ∧ (idle → kget UnitUse.free x.units n = .backing (s.hid % 4) → k = .free)

/-- The hart of a task ends it: it is parked, its core holds no pool unit for it, and what is left to do is the bookkeeping `rest` of the state `u`. -/
def EndsTask (i : Instr) (s : State) (rest : State → State) : Prop :=
  ∃ u, exec i s = .next (rest u) ∧ u.hid = s.hid ∧ Parked u.hart ∧ UnitsLeft s u

/-- The B word waits for a queue: it issues again, and nothing but the note of the wait changes (R110). -/
def WaitsB (s t : State) : Prop := ∃ w, t = { s with hart := { s.hart with bStall := some w, bWhy := some w } }

/-- What an operand that answers no value does to a B word: it waits, or, at a slot of a faulted group, takes the stream fault (R18, R93). -/
def Stops {α : Type} (s : State) (i : Instr) (x : Opnd α) : Prop :=
  (x = .wait → Ends i s (WaitsB s)) ∧
  ∀ q, x = .fault q → exec i s = .next (s.trapB ⟨14, streamVal q (s.hart.stream q).next, (s.hart.stream q).groupAddr (s.hart.stream q).next⟩)

/-- The B word retires with n mask bits of a destination and flags; the bits above are zero (R107, R118, R120). -/
def RetiresBits (s : State) (i : Instr) (m : BMask) (n : Nat) (d : VDst) (old : V512) (f : Nat → Bool) (fl : FFl) : Prop :=
  ∃ t x, exec i s = .next t ∧ RetiresB s t fl ∧ WritesV s t d x ∧
    ∀ k, k < 512 → x.getLsbD k = (decide (k < n) && if s.hart.active m k then f k else !m.agn && old.getLsbD k)

/-- The B word retires with a destination and flags (R107). -/
def RetiresWhole (s : State) (i : Instr) (d : VDst) (x : V512) (fl : FFl) : Prop :=
  ∃ t, exec i s = .next t ∧ RetiresB s t fl ∧ WritesV s t d x

/-- A BR instruction of element type t (R105 to R110): it stops at the first operand that has no value yet, vs1, vs2, vd; else it retires with the elements and flags that `f` gives from the old destination and the elements of vs1 and vs2. -/
def StepsBr (s : State) (i : Instr) (t : ETy) (m : BMask) (d : VDst) (a : VSrc) (b : VSrc2) (f : V512 → (Nat → Nat) → (Nat → Nat) → Nat → Rl) : Prop :=
  let w := t.width
  let n := 512 / w
  let rm := s.hart.bRm
  Stops s i (s.hart.src1 a) ∧ ∀ x, s.hart.src1 a = .val x → Stops s i (s.hart.src2 w b) ∧ ∀ y, s.hart.src2 w b = .val y → Stops s i (s.hart.dst d) ∧
    ∀ o, s.hart.dst d = .val o →
      let r := f o (V512.at w x) (y.at t rm false)
      RetiresLanes s i m w d o (fun k => (r k).1) (laneFlags s.hart m n (fun k => (r k).2) ||| y.flags s.hart m n t rm false)

/-- A compare of element type t (R105, R118): as `StepsBr`, with a mask bit for each element. -/
def StepsCmp (s : State) (i : Instr) (t : ETy) (m : BMask) (d : VDst) (a : VSrc) (b : VSrc2) (f : Nat → Nat → Bool × FFl) : Prop :=
  let w := t.width
  let n := 512 / w
  let rm := s.hart.bRm
  Stops s i (s.hart.src1 a) ∧ ∀ x, s.hart.src1 a = .val x → Stops s i (s.hart.src2 w b) ∧ ∀ y, s.hart.src2 w b = .val y → Stops s i (s.hart.dst d) ∧
    ∀ o, s.hart.dst d = .val o →
      let r (k : Nat) := f (V512.at w x k) (y.at t rm false k)
      RetiresBits s i m n d o (fun k => (r k).1) (laneFlags s.hart m n (fun k => (r k).2) ||| y.flags s.hart m n t rm false)

/-- A B2 instruction of element type t that writes element by element; `rm` converts a scalar (R64, R105). -/
def StepsB2 (s : State) (i : Instr) (t : ETy) (rm : Nat) (m : BMask) (d : VDst) (b : VSrc2) (f : Nat → Rl) : Prop :=
  let w := t.width
  let n := 512 / w
  Stops s i (s.hart.src2 w b) ∧ ∀ y, s.hart.src2 w b = .val y → Stops s i (s.hart.dst d) ∧ ∀ o, s.hart.dst d = .val o →
    let r (k : Nat) := f (y.at t rm false k)
    RetiresLanes s i m w d o (fun k => (r k).1) (laneFlags s.hart m n (fun k => (r k).2) ||| y.flags s.hart m n t rm false)

/-- A B2 instruction of element type t that writes its whole destination: `P` says what, and which flags it adds, of the elements of vs2 (R107). -/
def StepsWhole (s : State) (i : Instr) (t : ETy) (rm : Nat) (m : BMask) (d : VDst) (b : VSrc2) (P : (Nat → Nat) → V512 → FFl → Prop) : Prop :=
  let w := t.width
  let n := 512 / w
  Stops s i (s.hart.src2 w b) ∧ ∀ y, s.hart.src2 w b = .val y → Stops s i (s.hart.dst d) ∧ ∀ o, s.hart.dst d = .val o →
    ∃ x fl, P (y.at t rm false) x fl ∧ RetiresWhole s i d x (fl ||| y.flags s.hart m n t rm false)

/-- The element widths that mask, slide and broadcast instructions name (R63). -/
def widthOf : MW → Nat
  | .i8 => 8 | .i16 => 16 | .i32 => 32 | .i64 => 64

end Sys2Proof.Machine
end

