-- ==== Sys2Proof/Certificates/Slice0/Obligations.lean ====
section
/-! DEFINITION. The statements for the provers: what the machine does, rule by rule. -/
open Sys2Proof Sys2Proof.Machine

/-- R73 and R74: each binary instruction of major 0x01 completes in every state, with the spec's result in gd and its frame (R7, R14, R83); FUNC selects it, and a word with another FUNC, or with a bit of [8:6] set, is no instruction. -/
def Says.AluRegister : Prop :=
  ∀ (s : State) (d a b : GReg),
    let x := s.g a
    let y := s.g b
    let c := y.toNat % 64
    let ok (i : Instr) (v : W64) : Prop := ∃ t, exec i s = .next t ∧ Writes s t d v
    ok (.add d a b) (x + y) ∧ ok (.sub d a b) (x - y) ∧ ok (.and d a b) (x &&& y) ∧ ok (.or d a b) (x ||| y) ∧ ok (.xor d a b) (x ^^^ y) ∧
    ok (.sll d a b) (x <<< c) ∧ ok (.srl d a b) (x >>> c) ∧ ok (.sra d a b) (x.sshiftRight c) ∧
    ok (.slt d a b) (if x.toInt < y.toInt then 1 else 0) ∧ ok (.sltu d a b) (if x.toNat < y.toNat then 1 else 0) ∧
    ok (.mul d a b) (BitVec.ofNat 64 (x.toNat * y.toNat)) ∧
    ok (.mulh d a b) (BitVec.ofInt 64 (x.toInt * y.toInt / 2 ^ 64)) ∧ ok (.mulhu d a b) (BitVec.ofNat 64 (x.toNat * y.toNat / 2 ^ 64)) ∧
    ok (.div d a b) (if y = 0 then 0 else BitVec.ofInt 64 (x.toInt.tdiv y.toInt)) ∧
    ok (.divu d a b) (if y = 0 then 0 else BitVec.ofNat 64 (x.toNat / y.toNat)) ∧
    ok (.rem d a b) (if y = 0 then x else BitVec.ofInt 64 (x.toInt.tmod y.toInt)) ∧
    ok (.remu d a b) (if y = 0 then x else BitVec.ofNat 64 (x.toNat % y.toNat)) ∧
    ok (.min d a b) (if y.toInt < x.toInt then y else x) ∧ ok (.max d a b) (if x.toInt < y.toInt then y else x) ∧
    ok (.minu d a b) (if y.toNat < x.toNat then y else x) ∧ ok (.maxu d a b) (if x.toNat < y.toNat then y else x) ∧
    ∀ p l, fld p 24 6 = 0x01 →
      (∀ k (f : GReg → GReg → GReg → Instr), (k, f) ∈ ([(0, .add), (1, .sub), (2, .and), (3, .or), (4, .xor), (5, .sll), (6, .srl), (7, .sra), (8, .slt), (9, .sltu), (10, .mul), (11, .mulh), (12, .mulhu), (13, .div), (14, .divu), (15, .rem), (16, .remu), (17, .min), (18, .max), (19, .minu), (20, .maxu)] : List (Nat × (GReg → GReg → GReg → Instr))) → fld p 6 3 = 0 → fld p 0 6 = k →
        decodeA p l = some (f (gAt p 19) (gAt p 14) (gAt p 9))) ∧
      (fld p 6 3 ≠ 0 ∨ 21 ≤ fld p 0 6 → decodeA p l = none)

/-- R62 and R75 to R77: the immediate and literal forms, `lih`, `addpc` and `nop` complete in every state with the spec's result and its frame; majors 0x02 to 0x0A are the forms that R75 and R76 give them, and a shift with a bit of [11:6] set or [13:12] at 3 is no instruction. -/
def Says.AluImmediate : Prop :=
  ∀ (s : State) (d a : GReg) (i : BitVec 14) (n : BitVec 6) (u : BitVec 19) (w : W32),
    let x := s.g a
    let j : W64 := i.signExtend 64
    let l : W64 := w.signExtend 64
    let ok (i : Instr) (v : W64) : Prop := ∃ t, exec i s = .next t ∧ Writes s t d v
    ok (.addi d a i) (x + j) ∧ ok (.andi d a i) (x &&& j) ∧ ok (.ori d a i) (x ||| j) ∧ ok (.xori d a i) (x ^^^ j) ∧
    ok (.slti d a i) (if x.toInt < j.toInt then 1 else 0) ∧ ok (.sltiu d a i) (if x.toNat < j.toNat then 1 else 0) ∧
    ok (.slli d a n) (x <<< n.toNat) ∧ ok (.srli d a n) (x >>> n.toNat) ∧ ok (.srai d a n) (x.sshiftRight n.toNat) ∧
    ok (.lih d u) (BitVec.ofInt 64 (u.toInt * 2 ^ 13)) ∧ ok (.addpc d u) (s.hart.pc + u.signExtend 64) ∧
    ok (.addiLiteral d a w) (x + l) ∧ ok (.andiLiteral d a w) (x &&& l) ∧ ok (.oriLiteral d a w) (x ||| l) ∧
    ok (.xoriLiteral d a w) (x ^^^ l) ∧ ok (.lihLiteral d w) l ∧
    ∃ t, exec .nopA s = .next t ∧ Finishes s t ∧
    ∀ p, let at' (m : Nat) (i : Instr) : Prop := fld p 24 6 = m → decodeA p none = some i
      at' 0x02 (.addi (gAt p 19) (gAt p 14) (BitVec.ofNat 14 p)) ∧ at' 0x03 (.andi (gAt p 19) (gAt p 14) (BitVec.ofNat 14 p)) ∧
      at' 0x04 (.ori (gAt p 19) (gAt p 14) (BitVec.ofNat 14 p)) ∧ at' 0x05 (.xori (gAt p 19) (gAt p 14) (BitVec.ofNat 14 p)) ∧
      at' 0x06 (.slti (gAt p 19) (gAt p 14) (BitVec.ofNat 14 p)) ∧ at' 0x07 (.sltiu (gAt p 19) (gAt p 14) (BitVec.ofNat 14 p)) ∧
      at' 0x09 (.lih (gAt p 19) (BitVec.ofNat 19 p)) ∧ at' 0x0A (.addpc (gAt p 19) (BitVec.ofNat 19 p)) ∧
      (fld p 24 6 = 0x08 → decodeA p none = if fld p 6 6 ≠ 0 then none else match fld p 12 2 with
        | 0 => some (.slli (gAt p 19) (gAt p 14) (BitVec.ofNat 6 p)) | 1 => some (.srli (gAt p 19) (gAt p 14) (BitVec.ofNat 6 p))
        | 2 => some (.srai (gAt p 19) (gAt p 14) (BitVec.ofNat 6 p)) | _ => none)

/-- R62, R78 and R84: a conditional branch whose condition holds goes to F + 8 × SignExtend(off14), one whose condition does not hold goes on by R83; both complete in every state and write no register. What a trace of R379 records is in TransferTrace. -/
def Says.Branches : Prop :=
  ∀ (s : State) (a b : GReg) (o : BitVec 14),
    let x := s.g a
    let y := s.g b
    let goal : W64 := s.hart.pc + BitVec.ofInt 64 (8 * o.toInt)
    let ok (i : Instr) (c : Prop) : Prop :=
      (c → ∃ t, exec i s = .next t ∧ Jumps s.traceJump t goal false 0 0) ∧ (¬ c → ∃ t, exec i s = .next t ∧ Finishes s t)
    ok (.beq a b o) (x = y) ∧ ok (.bne a b o) (x ≠ y) ∧ ok (.blt a b o) (x.toInt < y.toInt) ∧ ok (.bge a b o) (y.toInt ≤ x.toInt) ∧
    ok (.bltu a b o) (x.toNat < y.toNat) ∧ ok (.bgeu a b o) (y.toNat ≤ x.toNat)

/-- R71, R79, R20 and R80: `jal` and an aligned `jalr` write F + 8 and go to their target, reading gs1 first; a misaligned `jalr` raises cause 1 with the target in TRAPVAL and writes nothing; `bqb` pops the head of bq and branches if it is 1. Each completes in every state that meets the condition named. -/
def Says.JumpsAndBqb : Prop :=
  ∀ (s : State) (d a : GReg) (u : BitVec 19) (i : BitVec 14),
    let s0 := s.traceJump
    let rel : W64 := s.hart.pc + BitVec.ofInt 64 (8 * u.toInt)
    let goal := s.g a + i.signExtend 64
    (∃ t, exec (.jal d u) s = .next t ∧ Jumps s0 t rel (d != 0) d (s.hart.pc + 8)) ∧
    (goal.toNat % 8 = 0 → ∃ t, exec (.jalr d a i) s = .next t ∧ Jumps s0 t goal (d != 0) d (s.hart.pc + 8)) ∧
    (goal.toNat % 8 ≠ 0 → exec (.jalr d a i) s = .next (s.trapA ⟨1, goal, 0⟩)) ∧
    (s.hart.bq = [] → ∃ t, exec (.bqb u) s = .next t ∧ WaitsA s t) ∧
    ∀ x l, s.hart.bq = x :: l → ∃ (t : State) (p : Hart), exec (.bqb u) s = .next t ∧ p.bq = l ∧
      p = { s.hart with bq := p.bq, bStall := p.bStall, undo := p.undo } ∧
      (x = true → Jumps ({ s with hart := p } : State).traceJump t rel false 0 0) ∧ (x = false → Finishes { s with hart := p } t)

/-- R23 and R379: where no trace is on, a taken transfer changes nothing else; where one is, its record is written at once, or, while an older word may still discard the frame, held by the hart with the frame's number, address and clk, and written once nothing can. A discarded frame's record goes with it. -/
def Says.TransferTrace : Prop :=
  ∀ (s : State),
    let pc := s.hart.pc
    (s.traced s.hid = false → s.traceJump = s) ∧
    (s.traced s.hid = true → s.hart.discardable s.hart.fno = false → s.traceJump = s.record s.hid 1 pc s.clk) ∧
    (s.traced s.hid = true → s.hart.discardable s.hart.fno = true →
      s.traceJump = { s with hart := { s.hart with traces := s.hart.traces ++ [(s.hart.fno, pc, s.clk)] } }) ∧
    (∀ x l, s.hart.traces = x :: l → s.hart.discardable x.1 = true → s.traceDue = s) ∧
    (∀ x, s.hart.traces = [x] → s.hart.discardable x.1 = false →
      s.traceDue = ({ s with hart := { s.hart with traces := [] } } : State).record s.hid 1 x.2.1 x.2.2) ∧
    ∀ n, (s.hart.dropFrom n).traces = s.hart.traces.filter fun x => decide (x.1 < n)

/-- R84: a taken transfer in the last frame of the innermost loop leaves that loop, wherever it goes. A transfer that is no call then leaves every innermost loop whose body holds its own frame and not the target, up to the first that this is not true of; a call leaves no other loop. -/
def Says.TakenLoops : Prop :=
  ∀ (f target : W64) (l : List LoopEnt),
    let holds (e : LoopEnt) (x : W64) : Prop := e.start.toNat ≤ x.toNat ∧ x.toNat ≤ e.last.toNat
    let left := match l with | e :: es => if e.last = f then es else e :: es | [] => []
    loopTaken f target true l = left ∧
    ∃ out, left = out ++ loopTaken f target false l ∧ (∀ e ∈ out, holds e f ∧ ¬ holds e target) ∧
      ∀ e es, loopTaken f target false l = e :: es → ¬ (holds e f ∧ ¬ holds e target)

/-- R82, R83 and R85: `loop` and `loopi` skip a body whose count is zero, trap on a full stack and on a body that is not nested, push the loop, or run it resident, in every state. A resident loop enters the sequencer behind the loop frame's own B word, which a trap would resume with the loop pushed, and the access stream goes on after the body. That a body ending on the last frame of an enclosing loop, or one that cannot be fetched, is pushed and not run resident, and that a count of zero leaves the entry of an outer loop, are the model's choices (log entries 17 and 64). -/
def Says.LoopStarts : Prop :=
  ∀ (s : State) (a : GReg) (c : BitVec 14) (n : BitVec 10) (i : Instr) (count : W64),
    (i = .loop a n ∧ count = s.g a) ∨ (i = .loopi c n ∧ count = c.setWidth 64) →
    let start := s.hart.pc + 8
    let last := s.hart.pc + BitVec.ofNat 64 (8 * n.toNat)
    let full := s.hart.loops.length = 4
    let outside := ∃ e l, s.hart.loops = e :: l ∧ e.last.toNat < last.toNat
    let body := if n.toNat ≤ 16 ∧ (∀ e ∈ s.hart.loops, e.last ≠ last) then s.bodyFrames start n.toNat else none
    let plain := ∃ fs t, body = some (fs, t) ∧ ∀ f ∈ fs, plainFrame f.2.1 f.2.2 = true
    (count = 0 → Ends i s fun t => CompletesA s t ∧ SendsB s t ∧ WritesG s t 0 0 ∧ t.hart.pc = last + 8 ∧ t.hart.loops = s.hart.loops) ∧
    (count ≠ 0 → full ∨ outside → exec i s = .next (s.trapA ⟨2, s.hart.word0, 0⟩)) ∧
    (count ≠ 0 → ¬ full → ¬ outside → ¬ plain →
      Ends i s fun t => CompletesA s t ∧ SendsB s t ∧ WritesG s t 0 0 ∧ t.hart.pc = start ∧ t.hart.loops = ⟨start, last, count⟩ :: s.hart.loops) ∧
    ∀ fs s1, count ≠ 0 → ¬ full → ¬ outside → body = some (fs, s1) → (∀ f ∈ fs, plainFrame f.2.1 f.2.2 = true) →
      Ends i s fun t => OnlyHart s1 t ∧ (∀ r, t.g r = s1.g r) ∧ (∀ r : HReg, r.counter = false → t.hart.reg r = s1.hart.reg r) ∧
        t.hart = { s1.hart with
          regs := t.hart.regs, pc := last + 8, loops := s1.hart.loops, fr := none, fno := s1.hart.fno + 2
          aStall := none, bStall := none, aWhy := none, wait := .none, seq := t.hart.seq, enter := t.hart.enter } ∧
        match s1.hart.bWord? with
        | none => t.hart.seq = s1.hart.seq ∧ t.hart.enter = s1.hart.enter ++ s1.hart.resident start last count fs
        | some w => ∃ e : SeqEnt, t.hart.seq = s1.hart.seq ++ [e] ∧ t.hart.enter = s1.hart.resident start last count fs ∧
            e.word = w ∧ e.pc = s1.hart.pc ∧ e.rep = 0 ∧ e.snap.npc = start ∧ e.snap.loops = ⟨start, last, count⟩ :: s1.hart.loops

/-- R83: what a frame that completes does to the loop stack, entry by entry. After its count of passes through its last frame a loop is gone and the next frame follows it; until then each pass goes back to its start with one less. Where an outer loop ends on the same frame, it counts one pass when the inner loop is gone, and goes back to its own start or ends there too. -/
def Says.LoopRuns : Prop :=
  ∀ (start last count : W64) (l : List LoopEnt), count ≠ 0 → (∀ e ∈ l.head?, e.last ≠ last) →
    afterPasses last count.toNat (last, ⟨start, last, count⟩ :: l) = (last + 8, l) ∧
    ∀ k, k < count.toNat → k ≠ 0 →
      afterPasses last k (last, ⟨start, last, count⟩ :: l) = (start, ⟨start, last, count - BitVec.ofNat 64 k⟩ :: l)

/-- See `LoopRuns`: the step of R83, and an inner and an outer loop that end on the same frame. -/
def Says.LoopsNested : Prop :=
  (∀ f, loopNext f [] = (f + 8, [])) ∧
  (∀ (f : W64) (e : LoopEnt) (l : List LoopEnt),
    (e.last ≠ f → loopNext f (e :: l) = (f + 8, e :: l)) ∧
    (e.last = f → e.count = 1 → loopNext f (e :: l) = loopNext f l) ∧
    (e.last = f → e.count ≠ 1 → loopNext f (e :: l) = (e.start, { e with count := e.count - 1 } :: l))) ∧
  ∀ (a b last c d : W64) (l : List LoopEnt), c ≠ 0 → d ≠ 0 → (∀ e ∈ l.head?, e.last ≠ last) →
    let stack := ⟨a, last, c⟩ :: ⟨b, last, d⟩ :: l
    (∀ k, k < c.toNat → k ≠ 0 → afterPasses last k (last, stack) = (a, ⟨a, last, c - BitVec.ofNat 64 k⟩ :: ⟨b, last, d⟩ :: l)) ∧
    (d = 1 → afterPasses last c.toNat (last, stack) = (last + 8, l)) ∧
    (d ≠ 1 → afterPasses last c.toNat (last, stack) = (b, ⟨b, last, d - 1⟩ :: l))

/-- R86: `rep` completes in every state; the B word of its frame enters the sequencer n times, 64 for a field of 0, each repetition with its number and the three steps. -/
def Says.RepeatPrefix : Prop :=
  ∀ (s : State) (n : BitVec 6) (d a b : BitVec 2),
    Ends (.rep n d a b) s fun t => CompletesA s t ∧ NextFrame s t ∧ WritesG s t 0 0 ∧
      match s.hart.bWord? with
      | none => t.hart.seq = s.hart.seq ∧ t.hart.enter = s.hart.enter
      | some w => ∃ es : List SeqEnt, es.length = (if n = 0 then 64 else n.toNat) ∧
          t.hart.seq = s.hart.seq ++ es.take 1 ∧ t.hart.enter = es.drop 1 ∧
          ∀ (j : Nat) (e : SeqEnt), es[j]? = some e → e.rep = j ∧ e.word = w ∧ e.pc = s.hart.pc ∧ e.sd = d.toNat ∧ e.s1 = a.toNat ∧ e.s2 = b.toNat

/-- R86: the word of a repetition. Each field of a format of R63 that names a v register goes on by the repetition times its step, modulo 32, the vd of a BI word modulo 8; a queue slot, a constant and the literal stay; every other bit is that of the frame's word. -/
def Says.RepeatSteps : Prop :=
  ∀ (w j sd s1 s2 : Nat), w < 2 ^ 30 →
    let m := fld w 22 7
    let r := repWord w j sd s1 s2
    let only (l : List (Nat × Nat)) : Prop :=
      (∀ f ∈ l, fld r f.1 5 = (fld w f.1 5 + j * f.2) % 32) ∧ ∀ b, (∀ f ∈ l, b < f.1 ∨ f.1 + 5 ≤ b) → fld r b 1 = fld w b 1
    let vd := if fld w 21 1 = 0 then [(16, sd)] else []
    let v1 := if fld w 14 2 = 0 then [(9, s1)] else []
    let v2 := if fld w 8 1 = 0 then [(0, s2)] else []
    (m ≤ 0x5D → only (vd ++ v1 ++ v2)) ∧ (0x5D < m → m ≤ 0x6B → only (vd ++ v2)) ∧ (0x6B < m → m ≤ 0x6E → only [(17, sd), (0, s2)]) ∧
    (0x6E < m → m ≤ 0x70 → only (vd ++ if fld w 5 2 = 0 then [(0, s1)] else [])) ∧
    (0x70 < m → m ≤ 0x73 → only [(17, sd), (12, s1), (7, s2)]) ∧ (0x73 < m → m ≤ 0x76 → only [(17, sd), (7, s2)]) ∧
    (m = 0x77 → only []) ∧ (m = 0x78 → only v2) ∧
    (0x79 ≤ m → m ≤ 0x7E → fld r 0 20 = fld w 0 20 ∧ fld r 29 1 = fld w 29 1 ∧ (fld r 22 7 - 0x79) / 2 = (m - 0x79) / 2 ∧
      (fld r 22 7 - 0x79) % 2 * 4 + fld r 20 2 = ((m - 0x79) % 2 * 4 + fld w 20 2 + j * sd) % 8) ∧
    ∀ e : SeqEnt, e.bad = none → e.lit = none →
      e.slot = match decodeB (repWord e.word.toNat e.rep e.sd e.s1 e.s2) none with | some i => .op i | none => .bad .word e.word

/-- R61, R88, R89, R191 to R196, R203, R206 and R343: `ld`. If strong it waits until the hart is quiet, its own stores and walks with it, and it waits for older stream groups of its bytes (the model's choice, log entries 13 and 67). A misaligned one traps with cause 4; a refused one with the trap of `AccessChecks`; one that reads an uncorrectable word with cause 8, its frame or unit retired. One of memory, with nothing of the hart's own still buffered, completes with the extended little-endian value in gd and changes no byte of memory. One of the register space or of another device is made when the hart is quiet (the model's choice, log entries 13 and 72) and brings what the registers, or the other device, answer, under the task's own commit buffer; a data error there is cause 8 with TRAPVAL 3. -/
def Says.Load : Prop :=
  ∀ (s : State) (d a : GReg) (t : LdTy) (m : MemMode),
    let n := ldSize t
    let addr := s.g a + memDisp m n
    let i := Instr.ld d a t m
    let loud := memStrong m = true ∧ s.hart.quiet = false
    let busy := loud ∨ s.groupAhead s.hart.fno addr n = true
    (addr.toNat % n ≠ 0 → exec i s = .next (s.trapA ⟨4, 0, addr⟩)) ∧
    (addr.toNat % n = 0 → loud → Drains i s) ∧
    (addr.toNat % n = 0 → ¬ loud → s.groupAhead s.hart.fno addr n = true → WaitsStreams i s (s.queuesAhead s.hart.fno addr n)) ∧
    (addr.toNat % n = 0 → ¬ busy →
      (∀ e, s.access s.me addr n .read = .trap e → exec i s = .next ((s.walked s.part addr).trapA e)) ∧
      (s.access s.me addr n .read = .wait → exec i s = .next ((s.held addr n .read).waitA .other)) ∧
      (∀ k pte, s.access s.me addr n .read = .ok (.mem k) pte → s.badIn k n = true →
        exec i s = .next (((s.count k n).retireBad k n).trapA ⟨8, BitVec.ofNat 64 (s.errCode s.hid k), addr⟩)) ∧
      (∀ k pte, s.access s.me addr n .read = .ok (.mem k) pte → s.badIn k n = false → s.hart.sbuf = [] → s.hart.cbuf = [] →
        Ends i s fun u => SameMemory s u ∧ ∃ ws ds, WalkNoted s ws addr .read ∧ HotOnly s.dies ds ∧
          Writes { s with hart := { s.hart with walks := ws }, dies := ds, regs := (s.niSample addr).regs } u d (loadValue t (s.rdN k n))) ∧
      (∀ l pte, s.access s.me addr n .read = .ok l pte → (∀ k, l ≠ .mem k) → s.hart.quiet = false → Ends i s (WaitsA s)) ∧
      (∀ pa pte, s.access s.me addr n .read = .ok (.reg pa) pte → s.hart.quiet = true →
        Ends i s fun u => ∃ ws, WalkNoted (s.readRegs pa n).2 ws addr .read ∧
          Writes { (s.readRegs pa n).2 with hart := { (s.readRegs pa n).2.hart with walks := ws } } u d (loadValue t ((s.readRegs pa n).1 % 2 ^ (8 * n)))) ∧
      ∀ dev va pte, s.access s.me addr n .read = .ok (.remote dev va) pte → s.hart.quiet = true →
        match s.askRemote addr .read with
        | (none, _, u) => exec i s = .next (u.waitA .other)
        | (some false, f, u) => exec i s = .next (u.trapA (remoteDeny f .read addr))
        | (some true, f, u) => (Config.remoteBad f = true → exec i s = .next (u.trapA ⟨8, 3, addr⟩)) ∧
            (Config.remoteBad f = false → Ends i s fun v => ∃ ws, WalkNoted u ws addr .read ∧
              Writes { u.niSample addr with hart := { u.hart with walks := ws } } v d
                (loadValue t (leNat (s.hart.seen s.hart.fno (.remote dev va) addr (remoteBytes f n))))))

/-- R21, R88, R89, R162, R196, R205 and R206: `st`. A misaligned one traps with cause 4; a full store buffer makes it wait before its place is checked (the model's choice, log entry 30); a refused one traps. One whose access is granted puts its bytes into the store buffer and completes; one to virtual space of a buffered task is bound for the commit buffer, and where that would need line 1,025 the task is discarded, to come back in exclusive mode, once older B words have retired (the model's choice, log entry 40). A write to another device leaves once that device has taken it. Memory changes only when the buffer performs the store. -/
def Says.Store : Prop :=
  ∀ (s : State) (d a : GReg) (t : StTy) (m : MemMode),
    let n := stSize t
    let addr := s.g a + memDisp m n
    let i := Instr.st d a t m
    let rel := match m with | .weak _ => false | .strong o c _ => o.getLsbD 1 && c != .hart
    let buf := !addr.getLsbD 63 && s.hart.isBuffered
    let past := buf = true ∧ addr.toNat / 64 ∉ s.hart.cbufLines ∧ 1024 ≤ s.hart.cbufLines.length
    let puts (s0 : State) (l : Loc) (u : State) : Prop := SameMemory s0 u ∧ ∃ ws bs, WalkNoted s0 ws addr .write ∧ bs.length = n ∧
      (∀ i (h : i < bs.length), bs[i] = ((s.g d) >>> (8 * i)).setWidth 8) ∧
      Finishes { s0 with hart := { s0.hart with walks := ws, sbuf := withStore s0.hart.sbuf ⟨l, addr, bs, s.hart.fno, false, buf, false, rel⟩ } } u
    (addr.toNat % n ≠ 0 → exec i s = .next (s.trapA ⟨4, 0, addr⟩)) ∧
    let entry (l : Loc) : StoreEnt := ⟨l, addr, leBytes n ((s.g d).toNat % 2 ^ (8 * n)), s.hart.fno, false, buf, false, rel⟩
    (addr.toNat % n = 0 → 64 ≤ s.hart.sbuf.length → BufferFull i s) ∧
    (addr.toNat % n = 0 → s.hart.sbuf.length < 64 →
      (∀ e, s.access s.me addr n .write = .trap e → exec i s = .next ((s.walked s.part addr).trapA e)) ∧
      (s.access s.me addr n .write = .wait → exec i s = .next ((s.held addr n .write).waitA .other)) ∧
      (∀ l pte, s.access s.me addr n .write = .ok l pte → s.room (entry l) = false → BufferFull i s) ∧
      (∀ l pte, s.access s.me addr n .write = .ok l pte → (∀ dev va, l ≠ .remote dev va) → s.room (entry l) = true →
        (¬ past → Ends i s (puts s l)) ∧ (past → s.hart.older = true → Ends i s (WaitsA s)) ∧
        (past → s.hart.older = false → exec i s = .next (s.discardTask s.hid true))) ∧
      ∀ dev va pte, s.access s.me addr n .write = .ok (.remote dev va) pte → s.room (entry (.remote dev va)) = true →
        match s.askRemote addr .write with
        | (none, _, u) => exec i s = .next (u.waitA .other)
        | (some false, f, u) => exec i s = .next (u.trapA (remoteDeny f .write addr))
        | (some true, _, u) => (¬ past → Ends i s (puts u (.remote dev va))) ∧ (past → s.hart.older = true → Ends i s (WaitsA u)) ∧
            (past → s.hart.older = false → exec i s = .next (u.discardTask u.hid true)))

/-- R17, R21, R190, R213 and R214: which accesses meet (they share a byte as written, or where they land); for which older streams' groups a buffered store waits (those that meet it, and every one if it releases); which buffered stores are free to go, where a store may pass those held up unless it releases, is of the same frame or meets one; and the places of the buffer of 64, the last of them for a store that leaves one free to go (the model's choice, log entry 67). -/
def Says.StoreOrder : Prop :=
  ∀ (s : State) (a b : W64) (m n : Nat) (fno : Nat) (e : StoreEnt) (held es : List StoreEnt), 0 < m → 0 < n →
    (s.meets a m b n = true ↔ ∃ i j, i < m ∧ j < n ∧ (a.toNat + i = b.toNat + j ∨ ∃ x y, s.landing a = some x ∧ s.landing b = some y ∧ x + i = y + j)) ∧
    (∀ q, q ∈ s.queuesAhead fno b n ↔ q < 8 ∧ ∃ x, s.hart.str[q]? = some x ∧ x.active = true ∧ x.fno < fno ∧
      ∃ g, x.next ≤ g ∧ g < x.total ∧ s.meets (x.groupAddr g) x.glen b n = true) ∧
    (s.groupAhead fno b n = true ↔ s.queuesAhead fno b n ≠ []) ∧
    (∀ q, q ∈ s.storeQueues e ↔ q ∈ s.queuesAhead e.fno e.va e.data.length ∨
      (e.rel = true ∧ q < 8 ∧ ∃ x, s.hart.str[q]? = some x ∧ x.active = true ∧ x.fno < e.fno ∧ x.next < x.total)) ∧
    let blocked : Prop := s.storeQueues e ≠ [] ∨ (e.rel = true ∧ held ≠ []) ∨ ∃ x ∈ held, x.fno = e.fno ∨ s.meets x.va x.data.length e.va e.data.length = true
    s.loose held [] = [] ∧ (blocked → s.loose held (e :: es) = s.loose (held ++ [e]) es) ∧ (¬ blocked → s.loose held (e :: es) = e :: s.loose held es) ∧
    s.looseStores = s.loose [] s.hart.sbuf ∧
    (s.room e = true ↔ s.hart.sbuf.length < 63 ∨ (s.hart.sbuf.length = 63 ∧ (s.mapHart (·.pushStore e)).looseStores ≠ []))

/-- R21, R96, R193, R213 and R214: the oldest buffered store that is free to go (StoreOrder) waits for the B words and the walks of its frame and of older ones. Then it puts its bytes where it was resolved to and changes no other byte, unless a dump still protects its page; one that sets full sets exactly the granules it touches. A store to the register space writes the registers, one to another device leaves this one unchanged; a tracked one raises the hart's measure (R310). -/
def Says.StorePerformed : Prop :=
  ∀ s : State, (s.looseStores = [] → exec .storePerformed s = .next s) ∧ ∀ (e : StoreEnt) (es : List StoreEnt), s.looseStores = e :: es →
    let ready := (∀ x ∈ s.hart.seq ++ s.hart.enter, e.fno < x.fno) ∧ ∀ w ∈ s.hart.walks, e.fno < w.fno
    let s0 : State := { s with hart := { s.hart with sbuf := s.hart.sbuf.erase e, aStall := none } }
    let m := deltaMeasure s.hart.dslot (v512 e.data) (s0.oldLine e.loc e.va)
    let s1 : State := if e.tracked = true then { s0 with hart := { s0.hart with meas := if s.hart.meas < m then m else s.hart.meas } } else s0
    (¬ ready → exec .storePerformed s = .next s) ∧
    (ready → e.buffered = false → (e.va.getLsbD 63 = false → s.dumpHolds s.part e.va = none) →
      (∀ k, e.loc = .mem k → s.badIn k e.data.length = false →
        Ends .storePerformed s fun u => u = { s1 with mem := u.mem, full := u.full, dies := u.dies } ∧ HotOnly s.dies u.dies ∧
          (∀ i (h : i < e.data.length), u.rdB (k + i) = e.data[i]) ∧ SameMemoryBut s u k e.data.length ∧
          ∀ j, u.isFull j = if e.setFull = true ∧ 2 ^ 52 ≤ k ∧ k / 16 ≤ j / 16 ∧ j / 16 < (k + e.data.length + 15) / 16 then true else s.isFull j) ∧
      (∀ pa, e.loc = .reg pa → exec .storePerformed s = .next (s0.writeRegBytes pa e.data)) ∧
      ∀ dev va, e.loc = .remote dev va → exec .storePerformed s = .next s1)

/-- R162: a performed store of a buffered task changes no memory: its bytes stand in its line of the commit buffer, whose other bytes are those that the line held, or those of memory where the store is the first to its line: a free value for a byte that is uncorrectable, whose frame is retired (R343; the model's choice, log entry 27). -/
def Says.StoreCommitted : Prop :=
  ∀ (s : State) (e : StoreEnt) (es : List StoreEnt), s.looseStores = e :: es → s.hart.storeReady e = true → e.buffered = true →
    let line := e.va.toNat / 64
    let o := e.va.toNat % 64
    let old := s.hart.cbuf.find? (·.1 == line)
    let s1 : State := match old, e.loc with
      | some _, _ => s
      | none, .mem k => (s.count (k - o) 64).retireBad (k - o) 64
      | none, _ => s.nextFv.2
    o + e.data.length ≤ 64 →
    Ends .storePerformed s fun u => u = { s1 with hart := u.hart } ∧ ∃ x,
      u.hart = { s.hart with sbuf := s.hart.sbuf.erase e, aStall := none, cbuf := kput s.hart.cbuf line x, trk := u.hart.trk } ∧
      (∀ j, j ∈ u.hart.trk ↔ j ∈ s.hart.trk ∨ (e.tracked = true ∧ j = line)) ∧
      ∀ i, i < 64 → lineByte x i = if o ≤ i ∧ i < o + e.data.length then e.data.getD (i - o) 0 else
        match old, e.loc with
        | some (_, y), _ => lineByte y i
        | none, .mem k => if s.badIn (k - o) 64 = true ∧ s.badIn (k - o + i) 1 = true then Config.remoteByte s.freeIx i else s.rdB (k - o + i)
        | none, _ => lineByte (v512 (remoteBytes s.nextFv.1 64)) i

/-- R17, R21 and R162: a load of the bytes that the hart's own buffered store will write sees them, before they are in memory; a load in virtual space of a buffered task sees its own commit buffer, wherever the line lies. -/
def Says.StoreSeen : Prop :=
  (∀ (h : Hart) (k : Nat) (a : W64) (old bs : List Byte) (full tracked rel : Bool), h.sbuf = [] → h.isBuffered = false → old.length = bs.length →
    let g := { h with sbuf := [⟨.mem k, a, bs, h.fno, full, false, tracked, rel⟩] }
    (∀ fno, h.fno ≤ fno → g.seen fno (.mem k) a old = bs)) ∧
  ∀ (h : Hart) (fno : Nat) (l : Loc) (a : W64) (old : List Byte) (i : Nat), h.sbuf = [] → h.isBuffered = true → a.getLsbD 63 = false → i < old.length →
    (h.seen fno l a old)[i]? = match h.cbuf.find? (·.1 == (a.toNat + i) / 64) with
      | some (_, x) => some (lineByte x ((a.toNat + i) % 64))
      | none => old[i]?

/-- R18, R88 to R90, R93 and R343: `ldq` on a queue with a free slot and no stream under way reserves the next slot and sends its 64 bytes on their way; `stq` on a filled slot stores its 64 bytes and moves the head. Each traps if misaligned and waits while its queue, its older groups or its strength do not allow it; a stopped `sst` of the queue traps at `stq`; a refused access traps, and so does an uncorrectable word. The model's choice (log entry 30): `ldq` checks its alignment before it waits for its queue, `stq` raises the pending fault before that. -/
def Says.QueueLoadStore : Prop :=
  ∀ (s : State) (q : BitVec 3) (a : GReg) (m : MemMode),
    let addr := s.g a + memDisp m 64
    let x := s.hart.rq q
    let l := Instr.ldq q a m
    let w := Instr.stq q a m
    let used := s.hart.streamBusy q = true ∨ 16 ≤ x.ents.length
    let loud := memStrong m = true ∧ s.hart.quiet = false
    let busy := used ∨ loud ∨ s.groupAhead s.hart.fno addr 64 = true
    let stopped := streamVal q (s.hart.stream q).next
    let rel := match m with | .weak _ => false | .strong o c _ => o.getLsbD 1 && c != .hart
    (addr.toNat % 64 ≠ 0 → exec l s = .next (s.trapA ⟨4, 0, addr⟩)) ∧
    (addr.toNat % 64 = 0 → used → Ends l s (WaitsA s)) ∧
    (addr.toNat % 64 = 0 → ¬ used → loud → Drains l s) ∧
    (addr.toNat % 64 = 0 → ¬ used → ¬ loud → s.groupAhead s.hart.fno addr 64 = true → WaitsStreams l s (s.queuesAhead s.hart.fno addr 64)) ∧
    (addr.toNat % 64 = 0 → ¬ busy →
      (∀ e, s.access s.me addr 64 .read = .trap e → exec l s = .next ((s.walked s.part addr).trapA e)) ∧
      (∀ k pte, s.access s.me addr 64 .read = .ok (.mem k) pte → s.badIn k 64 = true →
        exec l s = .next (((s.count k 64).retireBad k 64).trapA ⟨8, BitVec.ofNat 64 (s.errCode s.hid k), addr⟩)) ∧
      ∀ k pte, s.access s.me addr 64 .read = .ok (.mem k) pte → s.badIn k 64 = false → s.hart.sbuf = [] → s.hart.cbuf = [] →
        Ends l s fun u => SameMemory s u ∧ ∃ ws ds, WalkNoted s ws addr .read ∧ HotOnly s.dies ds ∧
          Finishes { s with dies := ds, regs := (s.niSample addr).regs, hart := { s.hart with
            walks := ws, q := s.hart.q.set q.toNat (x.reserved s.hart.fno)
            flight := s.hart.flight ++ [⟨q, x.tail, s.hart.fno, BitVec.ofNat 512 (s.rdN k 64)⟩] } } u) ∧
    (s.hart.sstFault q = true → exec w s = .next (s.trapA ⟨14, stopped, (s.hart.stream q).groupAddr (s.hart.stream q).next⟩)) ∧
    (s.hart.sstFault q = false → addr.toNat % 64 ≠ 0 → exec w s = .next (s.trapA ⟨4, 0, addr⟩)) ∧
    (s.hart.sstFault q = false → addr.toNat % 64 = 0 → s.hart.streamBusy q = true ∨ x.headFull = false → Ends w s (WaitsA s)) ∧
    (s.hart.sstFault q = false → addr.toNat % 64 = 0 → s.hart.streamBusy q = false → x.headFull = true → 64 ≤ s.hart.sbuf.length → BufferFull w s) ∧
    (s.hart.sstFault q = false → addr.toNat % 64 = 0 → s.hart.streamBusy q = false → x.headFull = true → s.hart.sbuf.length < 64 →
      ∀ e, s.access s.me addr 64 .write = .trap e → exec w s = .next ((s.walked s.part addr).trapA e)) ∧
    let buf := !addr.getLsbD 63 && s.hart.isBuffered
    let entry (p : Loc) : StoreEnt := ⟨p, addr, leBytes 64 (x.slots[x.head.toNat]).toNat, s.hart.fno, false, buf, false, rel⟩
    ∀ p pte, s.hart.sstFault q = false → addr.toNat % 64 = 0 → s.hart.streamBusy q = false → x.headFull = true → s.hart.sbuf.length < 64 →
      (∀ dev va, p ≠ .remote dev va) → (buf = true → addr.toNat / 64 ∈ s.hart.cbufLines ∨ s.hart.cbufLines.length < 1024) → s.access s.me addr 64 .write = .ok p pte →
      (s.room (entry p) = false → BufferFull w s) ∧ (s.room (entry p) = true → Ends w s fun u => SameMemory s u ∧ ∃ ws, WalkNoted s ws addr .write ∧
        Finishes { s with hart := { s.hart with
          walks := ws, q := s.hart.q.set q.toNat x.popped
          undo := if ({ s.hart with walks := ws } : Hart).discardable (s.hart.fno + 1) then .qPop s.hart.fno q x.slots[x.head.toNat] :: s.hart.undo else s.hart.undo
          sbuf := withStore s.hart.sbuf (entry p) } } u)

/-- R18 and R22: a load in flight lands its 64 bytes in the slot that it reserved, which is filled from then on if it was still reserved; no other slot changes. While an older trap could discard it, what the slot held is kept. The stream whose last load it was has ended (R94). -/
def Says.LoadLands : Prop :=
  ∀ (s : State) (k : Nat) (f : Flight), s.hart.flight[k]? = some f →
    let y := s.hart.rq f.q
    let x := s.hart.stream f.q
    Ends (.loadLanding k) s fun u => OnlyHart s u ∧
      u.hart = { s.hart with flight := s.hart.flight.eraseIdx k, q := u.hart.q, str := u.hart.str, undo := u.hart.undo, aStall := none, bStall := none } ∧
      u.hart.undo = (if s.hart.discardable f.fno then .landed f.fno f.q f.slot y.slots[f.slot.toNat] :: s.hart.undo else s.hart.undo) ∧
      (∀ p, p ≠ f.q → u.hart.rq p = s.hart.rq p ∧ u.hart.stream p = s.hart.stream p) ∧
      u.hart.stream f.q = (if x.active = true ∧ x.total ≤ x.next ∧ ∀ g ∈ s.hart.flight.eraseIdx k, g.q ≠ f.q then Stream.idle else x) ∧
      (u.hart.rq f.q).head = y.head ∧ (u.hart.rq f.q).slots = y.slots.set f.slot.toNat f.data ∧
      (u.hart.rq f.q).ents.length = y.ents.length ∧ ∀ j e, y.ents[j]? = some e → (u.hart.rq f.q).ents[j]? = some
        (if j = (f.slot - y.head).toNat then (match e with | .pend n => .full n | x => x) else e)

/-- R89 and R95 to R98, R193, R195: full-empty access. A granule that is full and first in line is read and, for `.clr`, emptied; an empty one makes `ldfe` wait in the queue of its pool, which holds at most 16 requests of other cores, and where it stands its check is not made again; `stfe` buffers a release that will set its granule full; `feclr` empties exactly the granules of its range and leaves their bytes. A virtual address is an access fault, a misaligned one traps, a refused one traps. The model's choices (log entries 30 and 31): core space is checked before alignment, a `feclr` whose length alone is bad has TRAPADDR g[gs1], and one of length 0 has no effect at any address. -/
def Says.FullEmpty : Prop :=
  ∀ (s : State) (d a b : GReg) (keep : Bool) (i : BitVec 10),
    let addr := s.g a + i.signExtend 64 * 8
    let n := (s.g b).toNat
    let l := Instr.ldfe d a keep i
    let first (k : Nat) : Prop := ∀ x, (s.core (poolCore k)).feq.find? (·.1 == k / 16) = some x → x.2 = s.hid
    let others (c : Nat) := (s.core c).feq.filter fun e => isControl e.2 || coreOf e.2 != c
    let place (x : W64) (m al : Nat) : Res := if x.getLsbD 63 = false then .trap ⟨5, 0, x⟩ else if x.toNat % al ≠ 0 then .trap ⟨4, 0, x⟩ else s.resolveCore s.me x m .fe
    let at_ : Res := match s.hart.wait with | .fe c => .ok (.mem (poolKey c (addr.toNat % 2 ^ 18))) 0 | _ => place addr 8 8
    (∀ e, at_ = .trap e → exec l s = .next (s.trapA e)) ∧
    ((∀ e, at_ ≠ .trap e) → s.hart.quiet = false → Drains l s) ∧
    ((∀ e, at_ ≠ .trap e) → s.hart.quiet = true → s.groupAhead s.hart.fno addr 8 = true → WaitsStreams l s (s.queuesAhead s.hart.fno addr 8)) ∧
    (at_ = .wait → s.hart.quiet = true → s.groupAhead s.hart.fno addr 8 = false → exec l s = .next ((s.held addr 8 .fe).waitA .other)) ∧
    (∀ k pte, at_ = .ok (.mem k) pte → s.hart.quiet = true → s.groupAhead s.hart.fno addr 8 = false → s.isFull k = true → (keep = false → first k) →
      (s.badIn k 8 = true → exec l s = .next ((s.retireBad k 8).trapA ⟨8, BitVec.ofNat 64 (s.errCode s.hid k), addr⟩)) ∧
      (s.badIn k 8 = false → Ends l s fun u => SameMemory s u ∧
        (∀ j, u.isFull j = if keep = false ∧ k / 16 ≤ j / 16 ∧ j / 16 < (k + 8 + 15) / 16 then false else s.isFull j) ∧
        (∀ c, u.core c = { s.core c with feq := if c = poolCore k then (s.core c).feq.filter (·.2 != s.hid) else (s.core c).feq }) ∧
        Writes { s with cores := u.cores, full := u.full } u d (BitVec.ofNat 64 (s.rdN k 8)))) ∧
    (∀ k pte, at_ = .ok (.mem k) pte → s.hart.quiet = true → s.groupAhead s.hart.fno addr 8 = false → s.isFull k = false ∨ (keep = false ∧ ¬ first k) →
      let c := poolCore k
      let joins := (∀ e ∈ (s.core c).feq, e.2 ≠ s.hid) ∧ ((isControl s.hid || coreOf s.hid != c) = true → (others c).length < 16)
      Ends l s fun u => u = { s with hart := u.hart, cores := u.cores } ∧
        u.hart = { s.hart with aStall := some .other, aWhy := some .other, stallAt := u.hart.stallAt, wait := u.hart.wait } ∧
        (∀ j, j ≠ c → u.core j = s.core j) ∧
        (joins → u.hart.wait = .fe c ∧ u.core c = { s.core c with feq := (s.core c).feq ++ [(k / 16, s.hid)] }) ∧
        (¬ joins → u.hart.wait = s.hart.wait ∧ u.core c = s.core c)) ∧
    let entry (p : Loc) : StoreEnt := ⟨p, addr, leBytes 8 (s.g d).toNat, s.hart.fno, true, false, false, true⟩
    (64 ≤ s.hart.sbuf.length → BufferFull (.stfe d a i) s) ∧
    (s.hart.sbuf.length < 64 → place addr 8 8 = .wait → exec (.stfe d a i) s = .next ((s.held addr 8 .fe).waitA .other)) ∧
    (∀ e, s.hart.sbuf.length < 64 → place addr 8 8 = .trap e → exec (.stfe d a i) s = .next (s.trapA e)) ∧
    (∀ p pte, place addr 8 8 = .ok p pte → s.hart.sbuf.length < 64 → (s.room (entry p) = false → BufferFull (.stfe d a i) s) ∧
      (s.room (entry p) = true → Ends (.stfe d a i) s (Finishes { s with hart := { s.hart with sbuf := withStore s.hart.sbuf (entry p) } }))) ∧
    ((s.g a).toNat % 16 ≠ 0 ∨ n % 16 ≠ 0 → exec (.feclr a b) s = .next (s.trapA ⟨4, 0, s.g a⟩)) ∧
    ((s.g a).toNat % 16 = 0 → n = 0 → Ends (.feclr a b) s (Finishes s)) ∧
    ((s.g a).toNat % 16 = 0 → n % 16 = 0 → n ≠ 0 →
      (∀ e, place (s.g a) n 16 = .trap e → exec (.feclr a b) s = .next (s.trapA e)) ∧
      ∀ k pte, place (s.g a) n 16 = .ok (.mem k) pte →
        (s.hart.quiet = false → Drains (.feclr a b) s) ∧
        (s.hart.quiet = true → Ends (.feclr a b) s fun u => SameMemory s u ∧
          (∀ j, u.isFull j = if k / 16 ≤ j / 16 ∧ j / 16 < (k + n + 15) / 16 then false else s.isFull j) ∧ Finishes { s with full := u.full } u))

/-- R91 to R94: a stream instruction whose first group lies in one line hands its descriptor to the queue's unit and completes; a count of zero moves no group; a first group across a line traps; a busy queue makes it wait; `swait` completes once its queue has no active stream. The model's choice (log entries 30 and 67): a busy queue is waited for before the first group is checked, and a count of zero checks none. -/
def Says.Streams : Prop :=
  ∀ (s : State) (q : BitVec 3) (a : GReg) (n : BitVec 2) (st : Bool) (i : Instr), i = .sld q a n st ∨ i = .sst q a n st →
    let x : Stream := ⟨s.streamDesc a, true, n, st, false, 0, s.hart.fno, 0⟩
    let stopped := exec i s = .next (s.trapA ⟨14, streamVal q (s.hart.stream q).next, (s.hart.stream q).groupAddr (s.hart.stream q).next⟩)
    (∀ k (h : k < 4), x.desc[k] = s.g (a + BitVec.ofNat 5 k)) ∧
    (s.hart.sstFault q = true → stopped) ∧
    (s.hart.sstFault q = false → s.hart.streamBusy q = true → Ends i s (WaitsA s)) ∧
    (s.hart.sstFault q = false → s.hart.streamBusy q = false → x.total = 0 → Ends i s (Finishes s)) ∧
    (s.hart.sstFault q = false → s.hart.streamBusy q = false → x.total ≠ 0 → 64 < (x.groupAddr 0).toNat % 64 + x.glen → exec i s = .next (s.trapA ⟨4, 0, x.groupAddr 0⟩)) ∧
    (s.hart.sstFault q = false → s.hart.streamBusy q = false → x.total ≠ 0 → (x.groupAddr 0).toNat % 64 + x.glen ≤ 64 →
      Ends i s (Finishes { s with hart := { s.hart with str := s.hart.str.set q.toNat x } })) ∧
    (s.hart.sstFault q = true → exec (.swait q) s = .next (s.trapA ⟨14, streamVal q (s.hart.stream q).next, (s.hart.stream q).groupAddr (s.hart.stream q).next⟩)) ∧
    (s.hart.sstFault q = false → (s.hart.stream q).active = false → Ends (.swait q) s (Finishes s)) ∧
    (s.hart.sstFault q = false → (s.hart.stream q).active = true → Ends (.swait q) s (WaitsA s))

/-- R22, R92, R93, R162 and R213: the unit of an `sld` with a free slot reserves the next slot and sends its next group's GLEN bytes, the rest of the slot zero; the unit of an `sst` with a filled slot buffers a store of its low GLEN bytes and moves the head, bound for the commit buffer where the task is buffered; outside that, A and D of its page are set first (R203). A group waits for older streams' groups of its bytes, a group of a strong stream also until nothing older can discard it and no older store is buffered. A group that crosses a line or is refused stops its stream, and an `sld` marks its slot faulted. A stream that is idle, stopped or without a group moves nothing. -/
def Says.StreamGroups : Prop :=
  ∀ (s : State) (q : BitVec 3),
    let x := s.hart.stream q
    let y := s.hart.rq q
    let addr := x.groupAddr x.next
    let i := Instr.streamGroup q
    let runs := x.active = true ∧ x.faulted = false ∧ x.next < x.total
    let clear := s.groupAhead x.fno addr x.glen = false ∧
      (x.strong = true → s.hart.discardable x.fno = false ∧ ∀ e ∈ s.hart.sbuf, x.fno < e.fno)
    let noted (ws : List WalkReq) (k : AccKind) : Prop := ws = s.hart.walks ∨ ws = s.hart.walks ++ [⟨addr, k, x.fno, none⟩]
    let stops (s0 u : State) : Prop := u = { s0 with hart := u.hart } ∧ u.hart = { s.hart with
      str := s.hart.str.set q.toNat { x with faulted := true, told := 0 }, aStall := none, bStall := none
      q := if q.toNat < 6 then s.hart.q.set q.toNat { y with ents := y.ents ++ [.fault x.fno] } else s.hart.q }
    (¬ runs → exec i s = .next s) ∧
    (runs → q.toNat < 6 → 16 ≤ y.ents.length → exec i s = .next s) ∧
    (runs → q.toNat < 6 → y.ents.length < 16 →
      (inLine addr x.glen = false → Ends i s (stops s)) ∧
      (inLine addr x.glen = true →
        (∀ e, s.access s.me addr x.glen .read = .trap e → Ends i s (stops (s.walked s.part addr))) ∧
        ∀ k pte, s.access s.me addr x.glen .read = .ok (.mem k) pte →
          (¬ clear → exec i s = .next s) ∧
          (clear → s.badIn k x.glen = true → Ends i s (stops ((s.count k x.glen).retireBad k x.glen))) ∧
          (clear → s.badIn k x.glen = false → s.hart.sbuf = [] → s.hart.cbuf = [] →
            Ends i s fun u => SameMemory s u ∧ u = { s with hart := u.hart, dies := u.dies, regs := (s.niSample addr).regs } ∧ HotOnly s.dies u.dies ∧
              u.hart = { s.hart with
                q := s.hart.q.set q.toNat (y.reserved x.fno), str := s.hart.str.set q.toNat { x with next := x.next + 1 }, walks := u.hart.walks, regs := u.hart.regs
                flight := s.hart.flight ++ [⟨q, y.tail, x.fno, BitVec.ofNat 512 (s.rdN k x.glen)⟩] } ∧
              noted u.hart.walks .read ∧ ∀ r : HReg, r.counter = false → u.hart.reg r = s.hart.reg r))) ∧
    (runs → 6 ≤ q.toNat → y.headFull = false ∨ 64 ≤ s.hart.sbuf.length → exec i s = .next s) ∧
    (runs → 6 ≤ q.toNat → y.headFull = true → s.hart.sbuf.length < 64 →
      (inLine addr x.glen = false → Ends i s (stops s)) ∧
      (inLine addr x.glen = true →
        (∀ e, s.access s.me addr x.glen .write = .trap e → Ends i s (stops (s.walked s.part addr))) ∧
        ∀ k pte, s.access s.me addr x.glen .write = .ok (.mem k) pte →
          let buf := !addr.getLsbD 63 && s.hart.isBuffered
          let entry : StoreEnt := ⟨.mem k, addr, (leBytes 64 (y.slots[y.head.toNat]).toNat).take x.glen, x.fno, false, buf, false, false⟩
          let unwalked := buf = false ∧ s.needsWalk addr .write pte = true
          (¬ clear ∨ s.room entry = false → exec i s = .next s) ∧
          (clear → s.room entry = true → unwalked → Ends i s fun u => u = { s with hart := { s.hart with walks := u.hart.walks } } ∧ noted u.hart.walks .write) ∧
          (clear → s.room entry = true → ¬ unwalked → (buf = true → addr.toNat / 64 ∈ s.hart.cbufLines ∨ s.hart.cbufLines.length < 1024) →
            Ends i s fun u => u = { s with hart := u.hart } ∧
              u.hart = { s.hart with
                q := s.hart.q.set q.toNat y.popped, undo := u.hart.undo, regs := u.hart.regs, aStall := none, bStall := none
                str := s.hart.str.set q.toNat (if x.total ≤ x.next + 1 then Stream.idle else { x with next := x.next + 1 })
                sbuf := withStore s.hart.sbuf entry } ∧
              (∀ r : HReg, r.counter = false → u.hart.reg r = s.hart.reg r) ∧
              ∀ z ∈ u.hart.undo, z ∈ s.hart.undo ∨ z = .qPop x.fno q y.slots[y.head.toNat])))

/-- R9, R12, R13, R99 and R366: `csrr` of a register that the mode can reach by the access columns of the spec's tables completes with the register as it reads, any other number is illegal; FFLAGS waits until the B words of earlier frames have retired, MIGREQ while its request is pending. Stored registers read as stored, those of a trap bank as the current mode's; the others read as the state that R9, R12, R156, R176, R185, R194, R201 and R271 name. -/
def Says.ControlRegisterRead : Prop :=
  ∀ (s : State) (d : GReg) (c : BitVec 12),
    let n := c.toNat
    let h := s.hart
    let right := csrAccess s.ctl h.priv n
    let x := s.core (coreIx s.hid)
    (∀ r ∈ csrColumns s.ctl h.priv, r.1 ≤ n → n ≤ r.2.1 → right = r.2.2) ∧ ((∀ r ∈ csrColumns s.ctl h.priv, n < r.1 ∨ r.2.1 < n) → right = none) ∧
    (right = none → exec (.csrr d c) s = .next (s.trapA ⟨2, h.word0, 0⟩)) ∧
    (right ≠ none → n ≠ 0 → n ≠ 0x143 → Ends (.csrr d c) s fun t => Writes s t d (s.csrRead n)) ∧
    (n = 0 → h.older = true → Ends (.csrr d c) s (WaitsA s)) ∧
    (n = 0 → h.older = false → Ends (.csrr d c) s fun t => Writes s t d (s.csr .fflags)) ∧
    (right ≠ none → n = 0x143 → (s.csr .migreq).getLsbD 62 = true → Ends (.csrr d c) s (WaitsA s)) ∧
    (right ≠ none → n = 0x143 → (s.csr .migreq).getLsbD 62 = false → Ends (.csrr d c) s fun t =>
      Writes s t d (BitVec.ofNat 64 (bitsN (s.csr .migreq) 63 63 * 2 ^ 63 + bitsN (s.csr .migreq) 2 0))) ∧
    (∀ r, (n, r) ∈ ([(0x000, .fflags), (0x001, .fmode), (0x002, .lperm), (0x012, .spbase), (0x013, .splen), (0x014, .handin), (0x015, .handlen), (0x100, .status),
        (0x101, .vshare), (0x102, (bank h.priv).tvec), (0x103, (bank h.priv).cause), (0x104, (bank h.priv).pc), (0x105, (bank h.priv).val), (0x106, (bank h.priv).addr),
        (0x107, (bank h.priv).npc), (0x108, (bank h.priv).rep), (0x10A, .inten), (0x10B, .timecmp), (0x10C, .ctxptr), (0x120, .bdsel), (0x150, .mxfmt), (0x151, .mxscalea),
        (0x152, .mxscaleb), (0x153, .mxtscale), (0x154, .mxmeta), (0x160, .capsel), (0x161, .capstat), (0x162, .capctr0), (0x163, .capctr1), (0x164, .capctr2),
        (0x165, .capctr3), (0x166, .capclk), (0x167, .capptr)] : List (Nat × HReg)) → s.csrRead n = s.csr r) ∧
    (n = 0x003 → ∀ q, q < 8 → (∀ p, (h.rq p).filled ≤ 16) → fld (s.csrRead n).toNat (8 * q) 8 = (h.rq (BitVec.ofNat 3 q)).filled) ∧
    (n = 0x004 → s.csrRead n = BitVec.ofNat 64 h.bq.length) ∧ (n = 0x005 → s.csrRead n = BitVec.ofNat 64 h.loops.length) ∧
    (n = 0x010 → s.csrRead n = BitVec.ofNat 64 s.hid) ∧ (n = 0x011 → s.csrRead n = s.clk) ∧ (n = 0x016 → s.csrRead n = x.lnkto) ∧
    (n = 0x017 → s.csrRead n = BitVec.ofNat 64 (x.lnkerr.toNat % 4 + x.east.length * 16 + x.west.length * 128)) ∧
    (n = 0x018 → s.csrRead n = BitVec.ofNat 64 (bitsN (s.csr .cpystat) 23 20 * 2 ^ 20 + x.fifo.length * 4096 + x.infl)) ∧
    (n = 0x019 → s.csrRead n = if s.ctl = true ∨ s.csr .spbase = 0 then 0 else BitVec.ofNat 64 (2 ^ 63 + coreOf s.hid * 2 ^ 18 + (s.csr .spbase).toNat % 2 ^ 18)) ∧
    (n = 0x109 → s.csrRead n = s.intpend s.hid) ∧
    (n = 0x121 → s.csrRead n = kget 0 (s.die (dieOf s.hid)).bdt (bitsN (s.csr .bdsel) 7 4 * 16 + bitsN (s.csr .bdsel) 3 0)) ∧
    (n = 0x140 → s.csrRead n = (s.prt s.part).ptroot) ∧ (n = 0x141 → s.csrRead n = BitVec.ofNat 64 s.part) ∧ (n = 0x142 → s.csrRead n = (s.prt s.part).svec) ∧
    (n = 0x155 → s.csrRead n = BitVec.ofNat 64 (bitsN (s.csr .mstat) 31 4 * 16 + h.mq.length)) ∧ (∀ i (_ : i < 8), n = 0x130 + i → s.csrRead n = x.win[i])

/-- R5, R9 to R13, R99, R176 and R195: a write of a control register completes with the value of its operation, bit by bit: a writable bit takes the operation's result, a write-one-to-clear bit is cleared where `csrw` or `csrc` has a one, any other bit keeps its value, and a PPRIV of 2 leaves PPRIV. A register that only B words of later frames use is written at once, a window register when the hart's own accesses are done, any other one once older B words have retired. A register out of reach or read-only is illegal; BDDATA waits for an entry with a pending arrival. The value goes where R9, R176, R185, R194, R201, R271 and R366 put the register. That every other register waits for older B words, that TRAPCAUSE holds 8 bits and that a written PPRIV of 2 is dropped are the model's choices (log entry 32). -/
def Says.ControlRegisterWrite : Prop :=
  ∀ (s : State) (a : GReg) (c : BitVec 12) (op : CsrOp) (i : Instr),
    (op = .write ∧ i = .csrw a c) ∨ (op = .set ∧ i = .csrs a c) ∨ (op = .clear ∧ i = .csrc a c) →
    let n := c.toNat
    let right := csrAccess s.ctl s.hart.priv n
    let window := 0x130 ≤ n ∧ n ≤ 0x137
    let early := n = 0x001 ∨ n = 0x002 ∨ n = 0x101
    let ready := early ∨ (window ∧ s.hart.quiet = true ∧ s.hart.groupsBefore s.hart.fno = false) ∨ (¬ window ∧ s.hart.older = false)
    let old := s.csrRead n
    let x := s.g a
    let y := s.core (coreIx s.hid)
    let f (b : Nat) : Bool := match op with | .write => x.getLsbD b | .set => old.getLsbD b || x.getLsbD b | .clear => old.getLsbD b && !x.getLsbD b
    (∀ r ∈ csrFields s.ctl, r.1 = n → ∀ b, b < 64 → (csrMask s.ctl n).1.getLsbD b = inFields r.2.1 b ∧ (csrMask s.ctl n).2.getLsbD b = inFields r.2.2 b) ∧
    (right = some true → ∃ r ∈ csrFields s.ctl, r.1 = n) ∧
    (right ≠ some true → exec i s = .next (s.trapA ⟨2, s.hart.word0, 0⟩)) ∧
    (right = some true → ¬ early → ¬ window → s.hart.older = true → Ends i s (WaitsA s)) ∧
    (right = some true → window → s.hart.groupsBefore s.hart.fno = true → WaitsStreams i s (s.hart.queuesBefore s.hart.fno)) ∧
    (right = some true → window → s.hart.groupsBefore s.hart.fno = false → s.hart.quiet = false → Drains i s) ∧
    (right = some true → n = 0x121 → s.hart.older = false → s.bdPending = true → Ends i s (WaitsA s)) ∧
    (right = some true → ready → ¬ (n = 0x121 ∧ s.bdPending = true) →
      ∃ v : W64, Ends i s (Finishes (s.csrStore n v)) ∧
        (∀ r, csrHeld s.hart.priv n = some r → s.csrStore n v = { s with hart := s.hart.setReg r v }) ∧
        (n = 0x016 → s.csrStore n v = s.setCore (coreIx s.hid) { y with lnkto := v }) ∧
        (n = 0x017 → s.csrStore n v = s.setCore (coreIx s.hid) { y with lnkerr := v &&& 3 }) ∧
        (n = 0x018 → s.csrStore n v = { s with hart := s.hart.setReg .cpystat (v &&& 0xF00000) }) ∧
        (n = 0x109 → s.csrStore n v = { s with hart := s.hart.setReg .intpend (v &&& 0x11) }) ∧
        (∀ k (h : k < 8), n = 0x130 + k → s.csrStore n v = s.setCore (coreIx s.hid) { y with win := y.win.set k v }) ∧
        (n = 0x121 → s.csrStore n v = if 9 * 16 ≤ s.hart.bdKey then s else
          s.setDie (dieOf s.hid) { s.die (dieOf s.hid) with bdt := kset 0 (s.die (dieOf s.hid)).bdt s.hart.bdKey (if s.hart.bdKey < 16 then v &&& 0xC00000000000003F else v) }) ∧
        (n = 0x140 → s.csrStore n v = s.setPrt s.part { s.prt s.part with ptroot := v }) ∧
        (n = 0x141 → s.csrStore n v = { s with hart := s.hart.setReg .partid v }) ∧
        (n = 0x142 → s.csrStore n v = s.setPrt s.part { s.prt s.part with svec := v }) ∧
        (n = 0x143 → s.csrStore n v = s.migRequest v) ∧
        (n = 0x155 → s.csrStore n v = { s with hart := s.hart.setReg .mstat (v &&& ~~~0xF) }) ∧
        ∀ b, b < 64 → v.getLsbD b =
          if n = 0x100 ∧ (b = 7 ∨ b = 8) ∧ f 8 = true ∧ f 7 = false then old.getLsbD b
          else if (csrMask s.ctl n).1.getLsbD b then f b
          else if (csrMask s.ctl n).2.getLsbD b && op != .set then old.getLsbD b && !x.getLsbD b
          else old.getLsbD b)

/-- R10, R23, R25, R72, R101, R144, R163, R317, R339, R340 and R384: `ecall` and `brk` wait until older B words have retired, loads have landed and stores are visible and then take their trap: the machine is that of the trap's trace record (R379), its hart at the handler with the trap registers of the mode that R340 selects. Without a vector, or at depth 2, a task completes as faulted with the cause, plus 0x80 at depth 2, and a control hart stops with recovery REASON 5 and interrupts the host. On a hart that runs a predicate, a trap ends it. What the trap waits for, without the stores that a stream group holds up, is the model's choice (log entries 19 and 67). -/
def Says.EnvironmentCalls : Prop :=
  ∀ (s : State) (i : Instr) (cause : Nat),
    (i = .ecall ∧ cause = if s.hart.priv = 0 then 9 else if s.hart.priv = 1 then 0xA else 0xC) ∨ (i = .brk ∧ cause = 0xD) →
    let e : Exn := ⟨cause, 0, 0⟩
    let lost := 2 ≤ s.hart.td ∨ s.hart.reg (bank (trapMode s.ctl s.hart.priv cause)).tvec = 0
    let s0 := s.withdraw s.hid
    (¬ TrapReady s → Ends i s (WaitsA s)) ∧
    (TrapReady s → CanTrap s cause →
      ∃ k, exec i s = .next { s0.trace s.hid 2 s.hart.pc with hart := k } ∧ TrapTaken s s.hart k e false s.hart.pc (s.hart.pc + 8) 1) ∧
    (TrapReady s → lost → s.ctl = false →
      exec i s = .next (s0.completeFaulted s.hid (if 2 ≤ s.hart.td then 0x80 + cause else cause))) ∧
    (TrapReady s → lost → s.ctl = true → s.predOf s.hid = none →
      Ends i s fun t => t.hart.run = .stopped ∧ bitsN (t.getReg (hostPage 0 + 0x2000)) 7 0 = 5 ∧ t.dev.hostIrq = true ∧ SameMemory s t) ∧
    (TrapReady s → ∀ n, s.ctl = true → s.predOf s.hid = some n →
      exec i s = .next (s.predEnd n (if cause = 9 then some (s.g 10, s.g 11) else none)))

/-- R10, R24, R87, R93 and R102: `eret` is illegal in user mode, and in supervisor mode while PPRIV is 3. Else it waits for older B words, then gives PRIV and IE back from PPRIV and PIE, clears PPRIV, PIE and TRB, takes one from TD, and goes to TRAPPC or, where TRB was 1, has the B word at TRAPPC issued from repetition REPSTAT.NEXT and goes to TRAPNPC. A stream goes on if the trap that this return leaves is the one at which its fault was raised (R93). -/
def Says.ReturnFromTrap : Prop :=
  ∀ (s : State),
    let st := s.csr .status
    let b := bank s.hart.priv
    let bad := s.hart.priv = 0 ∨ (s.hart.priv = 1 ∧ bitsN st 8 7 = 3)
    (bad → exec .eret s = .next (s.trapA ⟨2, s.hart.word0, 0⟩)) ∧
    (¬ bad → s.hart.older = true → Ends .eret s (WaitsA s)) ∧
    (¬ bad → s.hart.older = false → Ends .eret s fun t => OnlyHart (s.trace s.hid 3 s.hart.pc) t ∧
      t.hart.priv = bitsN st 8 7 ∧ t.hart.ie = st.getLsbD 4 ∧ t.hart.td = s.hart.td - 1 ∧
      bitsN (t.hart.reg .status) 8 7 = 0 ∧ (t.hart.reg .status).getLsbD 4 = false ∧ (t.hart.reg .status).getLsbD 11 = false ∧
      (st.getLsbD 11 = false → t.hart.pc = s.csr b.pc ∧ t.hart.redo = s.hart.redo) ∧
      (st.getLsbD 11 = true → t.hart.pc = s.csr b.npc ∧ t.hart.redo = some (s.csr b.pc, bitsN (s.csr b.rep) 6 0)) ∧
      t.hart.fr = none ∧ t.hart.g = s.hart.g ∧ t.hart.v = s.hart.v ∧ t.hart.loops = s.hart.loops ∧ t.hart.bq = s.hart.bq ∧
      (∀ r : HReg, r.counter = false → r ≠ .status → t.hart.reg r = s.hart.reg r) ∧
      ∀ q, let x := s.hart.stream q
        if x.faulted = true ∧ x.told ≠ 0 ∧ x.told = s.hart.td then t.hart.stream q = { x with faulted := false, told := 0 } ∧
          t.hart.rq q = { s.hart.rq q with ents := (s.hart.rq q).ents.filter fun e => match e with | .fault _ => false | _ => true }
        else t.hart.stream q = x ∧ t.hart.rq q = s.hart.rq q)

/-- R25 and R102: a return from a trap gives back the mode, IE, TD, and the frame that trapped, or the B word that trapped, its repetition and the frame after it. -/
def Says.TrapThenReturn : Prop :=
  ∀ (h : Hart) (m : Nat) (e : Exn) (trb : Bool) (f npc : W64) (rep : Nat), (m = 1 ∨ m = 3) → h.td < 2 → e.cause < 64 → e.cause ≠ 14 → rep < 128 → (∀ q, (h.stream q).told = h.td + 1 → (h.stream q).faulted = false) →
    let k := (h.enterTrap m e trb f npc rep).returnFrom
    k.priv = h.priv ∧ k.ie = h.ie ∧ k.td = h.td ∧ k.g = h.g ∧ k.v = h.v ∧ k.q = h.q ∧ k.bq = h.bq ∧ k.loops = h.loops ∧
    (trb = false → k.pc = frameOf f ∧ k.redo = none) ∧ (trb = true → k.pc = frameOf npc ∧ k.redo = some (frameOf f, rep))

/-- R103: `wfi` completes once an interrupt of the hart is pending, enabled or not, or a pre-emption request has arrived, and waits until then. -/
def Says.WaitForInterrupt : Prop :=
  ∀ (s : State), (s.intpend s.hid ≠ 0 ∨ s.hart.preAsked = true → Ends .wfi s (Finishes s)) ∧
    (s.intpend s.hid = 0 → s.hart.preAsked = false → Ends .wfi s (WaitsA s))

/-- R19, R23, R25, R196, R341 and R342: an interrupt that is pending, enabled and not masked by the mode is taken at the cut, with cause 0x30 plus its bit, the lowest first; a trap that the hart holds is taken once every older frame has retired, its loads have landed and its stores are visible; a hart whose streams have waited on each other for 64 clk, with no load in flight and no stream unit able to move, takes cause 11 at the oldest waiting instruction; a compare that CYCLE has reached wakes the hart. That a stream unit able to move holds off the deadlock trap, the place of that trap, and what a held trap and a cut wait for are the model's choices (log entries 25, 34 and 67). -/
def Says.TrapEvents : Prop :=
  ∀ (s : State),
    let h := s.hart
    let open_ (n : Nat) : Prop := n < 6 ∧ (s.intpend s.hid).getLsbD n = true ∧ (s.csr .inten).getLsbD n = true
    let queued : Option Why → Bool := fun w => match w with | some .queue => true | some .bq => true | _ => false
    let stuck := h.run = .running ∧ (queued h.aStall = true ∨ h.aStall = some .seqFull ∨ h.aStall = some .halt) ∧ (h.seq = [] ∨ queued h.bStall = true) ∧ h.flight = [] ∧
      (∀ q, s.canMove q = false) ∧ 64 ≤ (s.clk - h.stallAt).toNat
    let cut := h.cutAt
    (∀ n, s.irq s.hid = some n ↔ h.run = .running ∧ h.ie = true ∧ (s.ctl = false → h.priv ≠ 3) ∧ open_ n ∧ ∀ j, j < n → ¬ open_ j) ∧
    ((s.intpend s.hid).getLsbD 0 = (s.csr .intpend).getLsbD 0 ∧ (s.intpend s.hid).getLsbD 1 = decide (s.csr .timecmp ≤ s.clk) ∧
      (s.ctl = false → ∀ n, 2 ≤ n → (s.intpend s.hid).getLsbD n = false)) ∧
    (s.cuttable = true ↔ h.flight = [] ∧ (∀ e ∈ s.looseStores, ¬ e.fno < h.oldest) ∧
      (∀ w ∈ h.walks, w.back ≠ none → h.oldest < w.fno) ∧ (h.trap = none ∨ h.seq ++ h.enter ≠ []) ∧ (∀ p, h.wait ≠ .bar (some p)) ∧ ∀ e es, h.seq = e :: es → e.bad = none) ∧
    (h.seq ++ h.enter = [] → h.redo = none → cut.1 = (h.pc, false, h.pc + 8, 1) ∧ cut.2.g = h.g ∧ cut.2.loops = h.loops) ∧
    (∀ e es, h.seq ++ h.enter = e :: es → e.res = none → cut.1 = (e.pc, true, e.snap.npc, e.rep + 1) ∧ cut.2 = h.restore e.fno e.snap) ∧
    (∀ n, s.irq s.hid = some n → s.cuttable = true → CanTrap s (0x30 + n) →
      Ends .interrupt s fun t => t.others = s.others ∧ t.hid = s.hid ∧
        TrapTaken s { cut.2 with wait := .none } t.hart ⟨0x30 + n, 0, 0⟩ cut.1.2.1 cut.1.1 cut.1.2.2.1 cut.1.2.2.2) ∧
    (s.irq s.hid = none ∨ s.cuttable = false → exec .interrupt s = .next s) ∧
    (∀ e, h.trap = some e → TrapReady s → CanTrap s e.cause →
      Ends .trapEntry s fun t => t.others = s.others ∧ t.hid = s.hid ∧ TrapTaken s h t.hart e false h.pc (h.pc + 8) 1) ∧
    (h.trap = none ∨ ¬ TrapReady s → exec .trapEntry s = .next s) ∧
    (∀ e, h.trap = some e → e.cause = 7 → TrapReady s → CanTrap s 7 →
      Ends .remoteNack s fun t => t.others = s.others ∧ t.hid = s.hid ∧ TrapTaken s h t.hart e false h.pc (h.pc + 8) 1) ∧
    (stuck → h.seq = [] → TrapReady s → CanTrap s 11 →
      Ends .streamDeadlock s fun t => TrapTaken s h t.hart ⟨11, h.word0, 0⟩ false h.pc (h.pc + 8) 1) ∧
    (∀ x xs, stuck → h.seq = x :: xs → x.res = none → (∀ e ∈ s.looseStores, ¬ e.fno < x.fno) → CanTrap s 11 →
      Ends .streamDeadlock s fun t => TrapTaken s (h.restore x.fno x.snap) t.hart ⟨11, x.word.setWidth 64, 0⟩ true x.pc x.snap.npc (x.rep + 1)) ∧
    (¬ stuck → exec .streamDeadlock s = .next s) ∧
    (s.csr .timecmp ≤ s.clk → exec .timerCompare s = .next { s with hart := { h with aStall := none, bStall := none } }) ∧
    (s.clk < s.csr .timecmp → exec .timerCompare s = .next s)

/-- R89, R203, R206, R213, R214, R225, R226, R343 and R360: an atomic traps on a misaligned address. It waits for the older stream groups of its bytes, as a release for every older group, and until the hart is quiet. Then it traps if its access is refused or its word is uncorrectable; else, on a word of memory that its path serves, it makes the walk that its translation still needs, puts the sign-extended old value in gd and the operation's value in memory, and changes no other byte and no full-empty bit; on a register it does the same by the reads and writes of the register space. A path refuses what R360 says it refuses, with cause 0x1A; another device answers with its own old value, or with a data error. The model's choices (log entries 13 and 30): it waits for a quiet hart whatever ORD and SCOPE; place, path and data are checked in that order. -/
def Says.Atomics : Prop :=
  ∀ (s : State) (i : Instr) (op : AmoOp) (n : Nat) (d a b : GReg) (o : BitVec 2) (c : Scope), amoForm i = some (op, n, d, a, b, o, c) →
    let addr := s.g a
    let fno := s.hart.fno
    let release := o.getLsbD 1 = true ∧ c ≠ .hart
    let w := 8 * n
    let x := (s.g b).setWidth w
    let y := (s.g d).setWidth w
    (addr.toNat % n ≠ 0 → exec i s = .next (s.trapA ⟨4, 0, addr⟩)) ∧
    (addr.toNat % n = 0 → s.groupAhead fno addr n = true → WaitsStreams i s (s.queuesAhead fno addr n)) ∧
    (addr.toNat % n = 0 → s.groupAhead fno addr n = false → release → s.hart.groupsBefore fno = true → WaitsStreams i s (s.hart.queuesBefore fno)) ∧
    (addr.toNat % n = 0 → s.groupAhead fno addr n = false → (release → s.hart.groupsBefore fno = false) →
      (s.hart.quiet = false → Drains i s) ∧ (s.hart.quiet = true →
      (∀ e, s.access s.me addr n .atomic = .trap e → exec i s = .next ((s.walked s.part addr).trapA e)) ∧
      (s.access s.me addr n .atomic = .wait → exec i s = .next ((s.held addr n .atomic).waitA .other)) ∧
      (∀ k pte, s.access s.me addr n .atomic = .ok (.mem k) pte →
        let s1 := s.walkNow addr .atomic pte
        let old := BitVec.ofNat w (s1.rdN k n)
        let served := isHostMem k = true → op = .add ∨ op = .swap ∨ op = .cas
        (¬ served → exec i s = .next (s.trapA ⟨0x1A, s.hart.word0, addr⟩)) ∧
        (served → s.badIn k n = true → exec i s = .next (((s.count k n).retireBad k n).trapA ⟨8, BitVec.ofNat 64 (s.errCode s.hid k), addr⟩)) ∧
        (s.needsWalk addr .atomic pte = false → s1 = s) ∧ (s.needsWalk addr .atomic pte = true → s1 = s.makeWalk addr .atomic) ∧
        (served → s.badIn k n = false → s1.badIn k n = false → Ends i s fun t => BitVec.ofNat w (t.rdN k n) = amoValue op old x y ∧
          SameMemoryBut s1 t k n ∧ ∃ ds, HotOnly s1.dies ds ∧
            let u : State := { s1 with dies := ds, mem := t.mem }
            Writes (if op = .cas ∧ old ≠ y then u else u.cleared) t d (old.signExtend 64))) ∧
      (∀ pa pte, s.access s.me addr n .atomic = .ok (.reg pa) pte →
        let r := (s.walkNow addr .atomic pte).readRegs pa n
        let old := BitVec.ofNat w r.1
        Ends i s fun t => Writes (if op = .cas ∧ old ≠ y then r.2 else r.2.writeRegs pa n ((amoValue op old x y).setWidth 64)) t d (old.signExtend 64)) ∧
      ∀ dev va pte, s.access s.me addr n .atomic = .ok (.remote dev va) pte →
        let served := (s.route dev).getLsbD 62 = false ∧ op ≠ .and ∧ op ≠ .or ∧ op ≠ .xor
        (¬ served → exec i s = .next (s.trapA ⟨0x1A, s.hart.word0, addr⟩)) ∧
        (served →
          match s.askRemote addr .atomic with
          | (none, _, u) => exec i s = .next (u.waitA .other)
          | (some false, f, u) => exec i s = .next (u.trapA (remoteDeny f .atomic addr))
          | (some true, f, u) => (Config.remoteBad f = true → exec i s = .next (u.trapA ⟨8, 3, addr⟩)) ∧
              (Config.remoteBad f = false → Ends i s fun t => Writes (u.walkNow addr .atomic pte) t d ((BitVec.ofNat w (leNat (remoteBytes f n))).signExtend 64)))))

/-- R203, R214, R221, R228 and R229: `fence` has no effect at scope `.hart`, else it completes once every earlier access of the kinds that it names is done, and waits until then. `waitge` traps on a misaligned address, waits until the hart is quiet and no older group of its bytes is left, traps if its read is refused or its word uncorrectable, and completes, at a poll or at its first execution, once the count that it reads is at least its target. That a wait raises the fault of a stopped stream that it waits for is the model's choice (log entries 31 and 67). -/
def Says.FenceAndWait : Prop :=
  ∀ (s : State) (e : BitVec 3) (c : Scope) (a b : GReg) (i : Instr),
    let sst := s.hart.activeOf [6, 7]
    let sld := s.hart.activeOf [0, 1, 2, 3, 4, 5]
    let f := Instr.fence e c
    let stores := e.getLsbD 1 = true ∧ sst ≠ []
    let loads := e.getLsbD 2 = true ∧ sld ≠ []
    let buffer := e.getLsbD 1 = true ∧ s.hart.sbuf ≠ []
    let rest := (e.getLsbD 2 = true ∧ (s.hart.flight ≠ [] ∨ s.hart.walks ≠ [])) ∨ (e.getLsbD 0 = true ∧ s.engineBusy s.hid = true)
    (c = .hart → Ends f s (Finishes s)) ∧
    (c ≠ .hart → stores → WaitsStreams f s sst) ∧
    (c ≠ .hart → ¬ stores → loads → WaitsStreams f s sld) ∧
    (c ≠ .hart → ¬ stores → ¬ loads → buffer → Drains f s) ∧
    (c ≠ .hart → ¬ stores → ¬ loads → ¬ buffer → rest → Ends f s (WaitsA s)) ∧
    (c ≠ .hart → ¬ stores → ¬ loads → ¬ buffer → ¬ rest → Ends f s (Finishes s)) ∧
    (RunsAs s i .waitgePoll (.waitge a b) →
      let addr := s.g a
      let ahead := s.groupAhead s.hart.fno addr 8
      let free := addr.toNat % 8 = 0 ∧ s.hart.quiet = true ∧ ahead = false
      (addr.toNat % 8 ≠ 0 → exec i s = .next (s.trapA ⟨4, 0, addr⟩)) ∧
      (addr.toNat % 8 = 0 → s.hart.quiet = false → Drains i s) ∧
      (addr.toNat % 8 = 0 → s.hart.quiet = true → ahead = true → WaitsStreams i s (s.queuesAhead s.hart.fno addr 8)) ∧
      (∀ f, free → s.access s.me addr 8 .read = .trap f → exec i s = .next ((s.walked s.part addr).trapA f)) ∧
      (free → s.access s.me addr 8 .read = .wait → exec i s = .next ((s.held addr 8 .read).waitA .other)) ∧
      (∀ k pte, free → s.access s.me addr 8 .read = .ok (.mem k) pte → s.badIn k 8 = true →
        exec i s = .next (((s.count k 8).retireBad k 8).trapA ⟨8, BitVec.ofNat 64 (s.errCode s.hid k), addr⟩)) ∧
      (∀ k pte, free → s.hart.cbuf = [] → s.access s.me addr 8 .read = .ok (.mem k) pte → s.badIn k 8 = false →
        Ends i s fun t => SameMemory s t ∧ ∃ ws ds, WalkNoted s ws addr .read ∧ HotOnly s.dies ds ∧
          let u : State := { s with hart := { s.hart with walks := ws }, dies := ds, regs := (s.niSample addr).regs }
          ((s.g b).toNat % 2 ^ 56 ≤ s.rdN k 8 % 2 ^ 56 → Finishes u t) ∧ (s.rdN k 8 % 2 ^ 56 < (s.g b).toNat % 2 ^ 56 → WaitsA u t)) ∧
      ∀ pa pte, free → s.access s.me addr 8 .read = .ok (.reg pa) pte →
        let r := s.readRegs pa 8
        Ends i s fun t => ∃ ws, WalkNoted r.2 ws addr .read ∧
          let u : State := { r.2 with hart := { r.2.hart with walks := ws } }
          ((s.g b).toNat % 2 ^ 56 ≤ r.1 % 2 ^ 56 → Finishes u t) ∧ (r.1 % 2 ^ 56 < (s.g b).toNat % 2 ^ 56 → WaitsA u t))

/-- R184 and R185: neighbour links. `lnkr` takes the oldest word of the core's input from the east or west neighbour, `lnkw` puts a word into that neighbour's input from the other side if it holds fewer than four, `lnkr.fwd` does both, on opposite sides; each waits while it cannot. At the end of the row, and after LNKTO clk beside a parked or halted core, it completes not-ready, with the side's bit of LNKSTAT set. A word that another hart of the core has waited for longer, on the same side, stays for it. A control hart has no links. That a link access waits for older B words, which words a forwarding read reads in line with, and that a word stays for one that has waited longer are the model's choices (log entry 45). -/
def Says.NeighbourLinks : Prop :=
  ∀ (s : State) (d a : GReg) (w : Bool) (i : Instr),
    let c := coreOf s.hid
    let x := s.core c
    let near (w : Bool) : Nat := if w then c - 1 else c + 1
    let edge (w : Bool) : Prop := c % 8 = if w then 0 else 7
    let room (w : Bool) : Prop := ¬ edge w ∧ ((s.core (near w)).link (!w)).length < 4
    let fed (u : State) (w : Bool) (v : W64) : State := u.setCore (near w) ((s.core (near w)).setLink (!w) ((s.core (near w)).link (!w) ++ [v]))
    let alone := ∀ n, n < 4 → hartOf c n ≠ s.hid → (s.getHart (hartOf c n)).waiting 0x24 = none
    let since := match s.hart.wait with | .timed t => t | _ => s.clk
    let lost (w : Bool) : State := s.setCore c { x with lnkerr := x.lnkerr ||| (if w then 2 else 1) }
    let late (w : Bool) : Prop := edge w ∨ s.linkDead c w since = true
    let behind (f : Nat) : Prop := ∃ n t w0 w1, n < 4 ∧ hartOf c n ≠ s.hid ∧ (s.getHart (hartOf c n)).aStall ≠ none ∧ (s.getHart (hartOf c n)).fr = some (w0, w1) ∧
      fld w0.toNat 24 6 = 0x24 ∧ fld w0.toNat 0 3 = f ∧ (s.getHart (hartOf c n)).wait = .timed t ∧ (t < since ∨ (t = since ∧ hartOf c n < s.hid))
    let side := if w then 2 else 0
    let stays := (late w → Ends i s (Finishes (lost w))) ∧ (¬ late w → Ends i s (Holds s))
    RunsAs s i .linkNotReadyTimeout (.lnkr d w) ∨ RunsAs s i .linkNotReadyTimeout (.lnkw a w) ∨ RunsAs s i .linkNotReadyTimeout (.lnkrFwd d w) →
    (s.ctl = true → exec i s = .next (s.trapA ⟨2, s.hart.word0, 0⟩)) ∧
    (s.ctl = false → s.hart.older = true → Ends i s (WaitsA s)) ∧
    (s.ctl = false → s.hart.older = false → RunsAs s i .linkNotReadyTimeout (.lnkr d w) → s.linkBusy c w = true ∨ behind side ∨ behind (4 + side) → stays) ∧
    (s.ctl = false → s.hart.older = false → RunsAs s i .linkNotReadyTimeout (.lnkw a w) → behind (1 + side) → stays) ∧
    (s.ctl = false → s.hart.older = false → alone →
      (RunsAs s i .linkNotReadyTimeout (.lnkr d w) → s.linkBusy c w = false →
        (∀ v l, x.link w = v :: l → Ends i s fun t => Writes (s.setCore c (x.setLink w l)) t d v) ∧
        (x.link w = [] → late w → Ends i s (Finishes (lost w))) ∧ (x.link w = [] → ¬ late w → Ends i s (Holds s))) ∧
      (RunsAs s i .linkNotReadyTimeout (.lnkw a w) →
        (room w → Ends i s (Finishes (fed s w (s.g a)))) ∧
        (¬ room w → late w → Ends i s (Finishes (lost w))) ∧ (¬ room w → ¬ late w → Ends i s (Holds s))) ∧
      (RunsAs s i .linkNotReadyTimeout (.lnkrFwd d w) → s.linkBusy c w = false →
        (∀ v l, x.link w = v :: l → room (!w) → Ends i s fun t => Writes (fed (s.setCore c (x.setLink w l)) (!w) v) t d v) ∧
        (∀ v l, x.link w = v :: l → ¬ room (!w) → ¬ late (!w) → Ends i s (Holds s)) ∧
        (∀ v l, x.link w = v :: l → ¬ room (!w) → late (!w) → Ends i s (Finishes (lost (!w)))) ∧
        (x.link w = [] → late w → Ends i s (Finishes (lost w))) ∧ (x.link w = [] → ¬ late w → Ends i s (Holds s))))

/-- R174 to R179, R181 and R214: `bar` and `sstep`. A control hart may not use them; an arrival that was made waits on; a refused packet is reported first; an `sstep` waits for an open exchange phase; both wait until every earlier access is done. A malformed descriptor, a core that it does not name, and a pending domain that overlaps it or counts differently are cause 0x10. A fifth domain waits, and so does an arrival beyond its core's number. Any other is added to the domain's arrivals, and when it is the last one every participant is released at P = CYCLE + 16. That an arrival beyond its core's number waits uncounted, and the order of the checks, are the model's choices (log entry 44). -/
def Says.BarrierArrival : Prop :=
  ∀ (s : State) (a : GReg) (i : Instr), i = .bar a ∨ i = .sstep a →
    let x := s.g a
    let cl := clusOf s.hid
    let c := s.cluster cl
    let mask := bitsN x 7 0
    let n := bitsN x 11 10 + 1
    let pend := c.doms.filter fun d => d.release.isNone
    let free := s.ctl = false ∧ (∀ p, s.hart.wait ≠ .bar p) ∧ s.hart.nacks = [] ∧ (i = .sstep a → s.phaseOpen = false)
    let moved := s.hart.groupsBefore s.hart.fno = false
    let goes := free ∧ s.hart.quiet = true ∧ moved
    let core := goes ∧ domBad x = false ∧ bitsN x 63 62 = 0
    let mine := mask.testBit (coreOf s.hid % 8) = true
    let clash := ∃ d ∈ pend, d.key &&& mask ≠ 0 ∧ (d.key ≠ mask ∨ d.harts ≠ n)
    let bad := exec i s = .next (s.trapA ⟨0x10, x, 0⟩)
    (s.ctl = true → exec i s = .next (s.trapA ⟨2, s.hart.word0, 0⟩)) ∧
    (∀ p, s.ctl = false → s.hart.wait = .bar p → Ends i s (WaitsA s)) ∧
    (∀ q l, s.ctl = false → (∀ p, s.hart.wait ≠ .bar p) → s.hart.nacks = q :: l → TrapReady s → CanTrap s 7 → Ends i s fun t => t.hart.nacks = l ∧
      TrapTaken s s.hart t.hart ⟨7, BitVec.ofNat 64 q.slot, q.dest⟩ false s.hart.pc (s.hart.pc + 8) 1) ∧
    (free → ¬ moved → WaitsStreams i s (s.hart.queuesBefore s.hart.fno)) ∧ (free → moved → s.hart.quiet = false → Drains i s) ∧
    (s.ctl = false → s.hart.nacks = [] → (∀ p, s.hart.wait ≠ .bar p) → i = .sstep a → s.phaseOpen = true → Ends i s (WaitsA s)) ∧
    (goes → domBad x = true → bad) ∧ (core → ¬ mine → bad) ∧ (core → clash → bad) ∧
    (core → mine → ¬ clash → (∀ d ∈ pend, d.key ≠ mask) → 4 ≤ pend.length → Ends i s (WaitsA s)) ∧
    (∀ before rest, core → mine → ¬ clash → c.doms = ⟨mask, n, before, none⟩ :: rest →
      n ≤ (before.filter fun h => coreOf h % 8 == coreOf s.hid % 8).length → Ends i s (WaitsA s)) ∧
    ∀ before rest, core → mine → (c.doms = rest ∧ before = [] ∨ c.doms = ⟨mask, n, before, none⟩ :: rest) → (∀ d ∈ rest, d.release = none → d.key &&& mask = 0) →
      (before = [] → (rest.filter fun d => d.release.isNone).length < 4) → (before.filter fun h => coreOf h % 8 == coreOf s.hid % 8).length < n →
      let all := before ++ [s.hid]
      let done := ∀ j, j < 8 → mask.testBit j = true → (all.filter fun h => coreOf h % 8 == j).length = n
      Ends i s fun t => t = { s with hart := t.hart, others := t.others, clus := t.clus } ∧
        t.hart = { s.hart with aStall := some .sync, aWhy := some .sync, stallAt := t.hart.stallAt, wait := t.hart.wait } ∧
        (∀ k, t.cluster k = { s.cluster k with doms := (t.cluster k).doms }) ∧ (∀ k, k ≠ cl → t.cluster k = s.cluster k) ∧
        (∀ d ∈ rest, d ∈ (t.cluster cl).doms) ∧ (∀ id, id ∉ all → t.getHart id = s.getHart id) ∧
        (done → ⟨mask, n, all, some (s.clk + 16)⟩ ∈ (t.cluster cl).doms ∧ ∀ id ∈ all, (t.getHart id).wait = .bar (some (s.clk + 16))) ∧
        (¬ done → ⟨mask, n, all, none⟩ ∈ (t.cluster cl).doms ∧ t.hart.wait = .bar none ∧ t.others = s.others)

/-- R166, R176 and R177: an arrival at a die domain counts at its table entry; when every cluster of CMAP has contributed ARRIVE arrivals, every participant is released at P = CYCLE + 96, and an entry with BAL has the clock balancer told the first-arriving cluster and the last-arriving one. An entry that is not valid, has no legal ARRIVE or does not name the hart's cluster is cause 0x10; an arrival beyond its cluster's number waits. That such an arrival waits uncounted, and that an ARRIVE of 33 to 63 traps, are the model's choices (log entry 44). -/
def Says.DieBarrierArrival : Prop :=
  ∀ (s : State) (a : GReg) (i : Instr), i = .bar a ∨ i = .sstep a →
    s.ctl = false → (∀ p, s.hart.wait ≠ .bar p) → s.hart.nacks = [] → (i = .sstep a → s.phaseOpen = false) → s.hart.quiet = true →
    s.hart.groupsBefore s.hart.fno = false →
    let x := s.g a
    let d := dieOf s.hid
    let e := bitsN x 3 0
    let w := kget 0 (s.die d).bdt e
    let n := bitsN w 5 0
    let named (j : Nat) : Bool := (kget 0 (s.die d).bdt (16 * (1 + j / 64) + e)).getLsbD (j % 64)
    let legal := w.getLsbD 63 = true ∧ 1 ≤ n ∧ n ≤ 32 ∧ named (clusOf s.hid % 512) = true
    let own (l : List Nat) : Nat := (l.filter fun h => clusOf h % 512 == clusOf s.hid % 512).length
    domBad x = false → bitsN x 63 62 = 1 →
    (¬ legal → exec i s = .next (s.trapA ⟨0x10, x, 0⟩)) ∧
    (∀ before rest, legal → (s.die d).doms = ⟨e, n, before, none⟩ :: rest → n ≤ own before → Ends i s (WaitsA s)) ∧
    ∀ before rest, legal → ((s.die d).doms = ⟨e, n, before, none⟩ :: rest ∨ (s.die d).doms = [] ∧ before = [] ∧ rest = []) → own before < n →
      let all := before ++ [s.hid]
      let done := ∀ j, j < 512 → named j = true → (all.filter fun h => clusOf h % 512 == j).length = n
      let first := clusOf (all.headD 0)
      Ends i s fun t => t = { s with hart := t.hart, others := t.others, dies := t.dies, dev := t.dev } ∧
        t.hart = { s.hart with aStall := some .sync, aWhy := some .sync, stallAt := t.hart.stallAt, wait := t.hart.wait } ∧ (∀ id, id ∉ all → t.getHart id = s.getHart id) ∧
        (∀ k, t.die k = { s.die k with doms := (t.die k).doms }) ∧ (∀ k, k ≠ d → t.die k = s.die k) ∧
        (done → (t.die d).doms = ⟨e, n, all, some (s.clk + 96)⟩ :: rest ∧ (∀ id ∈ all, (t.getHart id).wait = .bar (some (s.clk + 96))) ∧
          t.dev = { s.dev with balance := s.dev.balance ++ if w.getLsbD 62 = true ∧ first ≠ clusOf s.hid then [⟨first, clusOf s.hid⟩] else [] }) ∧
        (¬ done → (t.die d).doms = ⟨e, n, all, none⟩ :: rest ∧ t.hart.wait = .bar none ∧ t.others = s.others ∧ t.dev = s.dev)

/-- R177, R179 and R378: at its release point a completed domain is gone and the frame of every participant has completed; an `sstep` has opened the exchange phase at P, of XWIN clk or 16,384 for a field of 0, which its cluster keeps. A participant at a halted core stops there at a cut, with no B word on its way. -/
def Says.BarrierLeave : Prop :=
  ∀ (s : State) (k cl key n : Nat) (l : List Nat) (p : W64) (rest : List Domain), p ≤ s.clk → l.Nodup →
    (k = 256 * cl + key ∧ cl < 2048 ∧ key < 256 ∧ (s.cluster cl).doms = ⟨key, n, l, some p⟩ :: rest) ∨
      (k = 2 ^ 20 + 16 * cl + key ∧ key < 16 ∧ (s.die cl).doms = ⟨key, n, l, some p⟩ :: rest) →
    Ends (.barrierComplete k) s fun t => t = { s with hart := t.hart, others := t.others, clus := t.clus, dies := t.dies } ∧
      (k < 2 ^ 20 → (t.cluster cl).doms = rest ∧ t.dies = s.dies) ∧ (2 ^ 20 ≤ k → (t.die cl).doms = rest) ∧
      (∀ id, id ∉ l → t.getHart id = s.getHart id) ∧
      ∀ id ∈ l, let h := s.getHart id
        let g := t.getHart id
        let halted := s.coreHalted (coreOf id) = true ∧ isControl id = false
        (halted → g.seq = [] ∧ g.enter = [] ∧ g.wait = .none ∧ g.fr = none) ∧
        (¬ halted → g.pc = (loopNext h.pc h.loops).1 ∧ g.loops = (loopNext h.pc h.loops).2 ∧ g.wait = .none ∧ g.fr = none ∧ g.g = h.g ∧ g.v = h.v ∧ g.q = h.q) ∧
        ∀ w0 w1, h.fr = some (w0, w1) →
          (w0.toNat % 64 ≠ 7 → g.phase = h.phase) ∧
          (w0.toNat % 64 = 7 → ∃ m, g.phase = some ⟨p, m, decide (k < 2 ^ 20), key⟩ ∧ ⟨p, m, decide (k < 2 ^ 20), key⟩ ∈ (t.cluster (clusOf id)).phases ∧
            let f := bitsN (h.rg (BitVec.ofNat 5 (w0.toNat / 2 ^ 14 % 32))) 45 32
            m = if f = 0 then 16384 else f)

/-- R166, R179 and R381: the exchange phases of a cluster are those that it has entered and, from P on, those of its completed domains whose participants are still to leave. A phase closes XWIN clk after P, in its hart and in its cluster; the first recorded rebalance of which neither cluster is in an exchange phase moves 50 MHz from the first-arriving cluster to the last-arriving one within 1,600 to 2,000 MHz, the lower bound after what the power limit takes. -/
def Says.PhaseAndClock : Prop :=
  ∀ (s : State),
    let past (p : Phase) : Prop := p.p ≤ s.clk ∧ p.xwin ≤ (s.clk - p.p).toNat
    let held (r : Rebalance) : Prop := (∃ p ∈ s.phasesOf r.from_, ¬ past p) ∨ ∃ p ∈ s.phasesOf r.to_, ¬ past p
    let opens (d : Domain) (cluster : Bool) (c : Nat) (p : Phase) : Prop := ∃ q, d.release = some q ∧ q ≤ s.clk ∧ (∃ id ∈ d.arrived, clusOf id = c) ∧
      ∃ id ∈ d.arrived, ∃ w0 w1, (s.getHart id).fr = some (w0, w1) ∧ w0.toNat % 64 = 7 ∧
        let f := bitsN ((s.getHart id).rg (BitVec.ofNat 5 (w0.toNat / 2 ^ 14 % 32))) 45 32
        p = ⟨q, if f = 0 then 16384 else f, cluster, d.key⟩
    (∀ c p, p ∈ s.phasesOf c ↔ p ∈ (s.cluster c).phases ∨ (∃ d ∈ (s.cluster c).doms, opens d true c p) ∨ ∃ x ∈ s.dies, ∃ d ∈ x.2.doms, opens d false c p) ∧
    (Ends .exchangePhaseEnd s fun t => t = { s with hart := t.hart, others := t.others, clus := t.clus } ∧ t.hart = { s.hart with phase :=
      match s.hart.phase with
      | some p => if p.p ≤ s.clk ∧ p.xwin ≤ (s.clk - p.p).toNat then none else some p
      | none => none } ∧
      ∀ c, t.cluster c = { s.cluster c with phases := (t.cluster c).phases } ∧ ∀ p, p ∈ (t.cluster c).phases ↔ p ∈ (s.cluster c).phases ∧ ¬ past p) ∧
    ((∀ r ∈ s.dev.balance, held r) → exec .clockRebalance s = .next s) ∧
    ∀ l r m, s.dev.balance = l ++ r :: m → (∀ x ∈ l, held x) → ¬ held r → r.from_ ≠ r.to_ → Ends .clockRebalance s fun t =>
      let move := 1650 + (s.cluster r.from_).cut ≤ (s.cluster r.from_).mhz ∧ (s.cluster r.to_).mhz ≤ 1950
      t = { s with dev := { s.dev with balance := l ++ m }, clus := t.clus } ∧ (∀ c, c ≠ r.from_ → c ≠ r.to_ → t.cluster c = s.cluster c) ∧
      t.cluster r.from_ = { s.cluster r.from_ with mhz := (s.cluster r.from_).mhz - if move then 50 else 0 } ∧
      t.cluster r.to_ = { s.cluster r.to_ with mhz := (s.cluster r.to_).mhz + if move then 50 else 0 }

/-- R17, R21 and R180: `xsend` inside its open phase and in its slot sends one packet with the source bytes of the own pool as the hart sees them; before its slot it waits for P + slot, after it or without an open phase it traps with cause 0xF and its lateness; a misaligned source or destination, a source outside the task's share and a destination outside the partition of its die trap first, in that order. The model's choices (log entry 45): cause 5 for a destination of another partition, the wait for older B words, and that an uncorrectable word is sent as a free value and retires its unit. -/
def Says.ExchangeSend : Prop :=
  ∀ (s : State) (a b : GReg) (n : BitVec 14) (p : Phase) (i : Instr),
    let x := s.g a
    let dest := s.g b
    let o := bitsN x 17 0
    let len := 64 * (bitsN x 21 20 + 1)
    let key := poolKey (coreOf s.hid) o
    let at_ := p.p + BitVec.ofNat 64 n.toNat
    let late (m : Nat) : Exn := ⟨0xF, BitVec.ofNat 64 (n.toNat + m * 2 ^ 32), 0⟩
    let s1 := s.retireBad key len
    let task := match s.hart.task with | some t => t.ident | none => 0
    let sent : State := { s1 with dev := { s1.dev with packets := s1.dev.packets ++
      [⟨s.hid, dest, n.toNat, bitsN x 28 24, s.hart.seen s.hart.fno (.mem key) (selfAddr o) (s.rdFree s.freeIx key len), task, s.clk⟩] } }
    let ahead := s.groupAhead s.hart.fno (selfAddr o) len
    (s.badIn key len = false → s1 = s ∧ s.rdFree s.freeIx key len = s.rdBytes key len) ∧
    let fresh := i = .xsend a b n ∧ ∀ t, s.hart.wait ≠ .timed t
    (s.ctl = true → exec (.xsend a b n) s = .next (s.trapA ⟨2, s.hart.word0, 0⟩)) ∧
    (s.ctl = false → fresh → (s.hart.phase = none ∨ (s.hart.phase = some p ∧ (s.phaseOpen = false ∨ p.xwin ≤ n.toNat))) →
      exec i s = .next (s.trapA (late 0xFFFFFFFF))) ∧
    (s.hart.phase = some p → (s.phaseOpen = true ↔ p.p ≤ s.clk ∧ (s.clk - p.p).toNat < p.xwin)) ∧
    (s.ctl = false → fresh → s.hart.phase = some p → s.phaseOpen = true → n.toNat < p.xwin →
      (o % 64 ≠ 0 → exec i s = .next (s.trapA ⟨4, 0, selfAddr o⟩)) ∧
      (∀ m, o % 64 = 0 → s.outsideShare o len = some m → exec i s = .next (s.trapA ⟨5, 0, selfAddr (o + m)⟩)) ∧
      (o % 64 = 0 → s.outsideShare o len = none → dest.toNat % 64 ≠ 0 → exec i s = .next (s.trapA ⟨4, 0, dest⟩)) ∧
      (o % 64 = 0 → s.outsideShare o len = none → dest.toNat % 64 = 0 →
        (s.destBad dest = true → exec i s = .next (s.trapA ⟨5, 0, dest⟩)) ∧
        (s.destBad dest = false → at_ < s.clk → exec i s = .next (s.trapA (late ((s.clk - at_).toNat % 2 ^ 32)))) ∧
        (s.destBad dest = false → s.clk ≤ at_ → ahead = true → WaitsStreams i s (s.queuesAhead s.hart.fno (selfAddr o) len)) ∧
        (s.destBad dest = false → s.clk ≤ at_ → ahead = false → s.hart.older = true → Ends i s (WaitsA s)) ∧
        (s.destBad dest = false → s.clk < at_ → ahead = false → s.hart.older = false → Ends i s fun t => Holds s t ∧ t.hart.wait = .timed at_) ∧
        (s.destBad dest = false → s.clk = at_ → ahead = false → s.hart.older = false → Ends i s (Finishes sent)))) ∧
    ∀ t, s.ctl = false → s.hart.wait = .timed t → RunsAs s i .xsendInject (.xsend a b n) →
      (t ≤ s.clk → Ends i s (Finishes sent)) ∧ (s.clk < t → Ends i s (WaitsA s))

/-- R181 and R378: of packets injected in one clk, that of the lowest hart is served first. One that the destination's windows admit puts its bytes in the pool, sets the granules that it touches full and counts in its mailbox; a refused one is reported to the task that sent it, on the hart that runs it now or in its saved context, and to no other task. At a halted core it stands in the inbound buffer, which refuses a 65th request. The order by hart within one clk is the model's reading (log entry 45). -/
def Says.PacketArrives : Prop :=
  ∀ (s : State) (i : Nat),
    (∀ p0, s.dev.packets[i]? = some p0 → ∃ k p, s.packetAt i = some (k, p) ∧ s.dev.packets[k]? = some p ∧ p.sent = p0.sent ∧
      ∀ q ∈ s.dev.packets, q.sent = p0.sent → p.hart ≤ q.hart) ∧
    (s.dev.packets.length ≤ i → exec (.packetArrival i) s = .next s) ∧
    ∀ k p, s.packetAt i = some (k, p) →
      let c := coreNamed p.hart p.dest
      let o := bitsN p.dest 17 0
      let key := poolKey c o
      let mine := s.gpart (c / 8) = s.partOf p.hart
      let ok := s.admits c .write (srcClass p.hart c) o p.data.length = true
      let full := 64 ≤ (s.core c).inbox.length
      let gone (t : State) : Prop := t.dev = { s.dev with packets := s.dev.packets.eraseIdx k }
      (mine → s.coreHalted c = false → ok → s.badIn key p.data.length = false → Ends (.packetArrival i) s fun t =>
        gone t ∧ t.hart = s.hart ∧ t.others = s.others ∧ t.clus = s.clus ∧
        (∀ j (h : j < p.data.length), t.rdB (key + j) = p.data[j]) ∧ SameMemoryBut s t key p.data.length ∧
        (∀ j, t.isFull j = if key / 16 ≤ j / 16 ∧ j / 16 < (key + p.data.length + 15) / 16 then true else s.isFull j) ∧
        (∀ j, t.core j = { s.core j with mbox := (t.core j).mbox }) ∧
        ∀ j m, kget 0 (t.core j).mbox m = if j = c ∧ m = p.tag then min 65535 (kget 0 (s.core c).mbox m + 1) else kget 0 (s.core j).mbox m) ∧
      (¬ mine ∨ (s.coreHalted c = false ∧ ¬ ok) ∨ (s.coreHalted c = true ∧ full) → Ends (.packetArrival i) s fun t => gone t ∧ SameMemory s t ∧ t.cores = s.cores ∧
        let s0 : State := { s with dev := t.dev }
        let runs (h : Hart) : Prop := ∃ x, h.task = some x ∧ x.ident = p.ident
        (∀ l id h r, s.allHarts = l ++ (id, h) :: r → (∀ q ∈ l, ¬ runs q.2) → runs h → t = s0.setHart id { h with nacks := h.nacks ++ [⟨p.dest, p.slot⟩] }) ∧
        ((∀ q ∈ s.allHarts, ¬ runs q.2) → t = { s0 with clus := t.clus, dies := t.dies } ∧ ∀ cl e x, (e, some x) ∈ (s.cluster cl).basin →
          (e, some (if x.ctx.isSome = true ∧ x.ident = p.ident then { x with nacks := x.nacks ++ [⟨p.dest, p.slot⟩] } else x)) ∈ (t.cluster cl).basin)) ∧
      (mine → s.coreHalted c = true → ¬ full → Ends (.packetArrival i) s fun t => t = { s with dev := t.dev, cores := t.cores } ∧ gone t ∧
        (∀ j, j ≠ c → t.core j = s.core j) ∧ t.core c = { s.core c with inbox := (s.core c).inbox ++
          [⟨c, BitVec.ofNat 2 (srcClass p.hart c), .write, o, p.data.length, p.data, true, some p.hart, p.dest, some (p.tag, p.slot, p.ident), .none⟩] })

/-- R181 to R183: `mbwait` first reports a refused packet of the hart with cause 7. It completes with its count, taken from the mailbox, once that many packets have arrived, and at once for a count of zero; after its timeout it makes its test once more and else completes with bit 63 set and the packets that did arrive, and the mailbox is zero; until then it waits, and behind an earlier `mbwait` of the core on the same counter that has its count. The wait for older B words, and that an earlier wait which has its count goes first, are the model's choices (log entry 45). -/
def Says.MailboxWait : Prop :=
  ∀ (s : State) (d a b : GReg) (tag : BitVec 5) (i : Instr), RunsAs s i .mbwaitTimeout (.mbwait d a b tag) →
    let n := bitsN (s.g a) 15 0
    let c := coreOf s.hid
    let x := s.core c
    let have_ := kget 0 x.mbox tag.toNat
    let since := match s.hart.wait with | .timed t => t | _ => s.clk
    let late := (s.g b).toNat % 2 ^ 32 ≤ (s.clk - since).toNat
    let put (v : Nat) : State := s.setCore c { x with mbox := kset 0 x.mbox tag.toNat v }
    let alone := ∀ m, m < 4 → hartOf c m ≠ s.hid → (s.getHart (hartOf c m)).waiting 0x2B = none
    let before := ∃ m t w0 w1, m < 4 ∧ hartOf c m ≠ s.hid ∧ (s.getHart (hartOf c m)).aStall ≠ none ∧ (s.getHart (hartOf c m)).fr = some (w0, w1) ∧
      fld w0.toNat 24 6 = 0x2B ∧ fld w0.toNat 4 5 = tag.toNat ∧ (s.getHart (hartOf c m)).wait = .timed t ∧ (t < since ∨ (t = since ∧ hartOf c m < s.hid)) ∧
      bitsN ((s.getHart (hartOf c m)).rg (gAt w0.toNat 14)) 15 0 ≤ have_
    (s.ctl = true → exec i s = .next (s.trapA ⟨2, s.hart.word0, 0⟩)) ∧
    (∀ q l, s.ctl = false → s.hart.nacks = q :: l → TrapReady s → CanTrap s 7 → Ends i s fun t => t.hart.nacks = l ∧
      TrapTaken s s.hart t.hart ⟨7, BitVec.ofNat 64 q.slot, q.dest⟩ false s.hart.pc (s.hart.pc + 8) 1) ∧
    (s.ctl = false → s.hart.nacks = [] → s.hart.older = true → Ends i s (WaitsA s)) ∧
    (s.ctl = false → s.hart.nacks = [] → s.hart.older = false →
      (n = 0 → Ends i s fun t => Writes s t d 0) ∧
      (n ≠ 0 → before → Ends i s fun t => Holds s t ∧ t.hart.wait = .timed since) ∧
      (n ≠ 0 → ¬ before → n ≤ have_ → alone ∨ late → Ends i s fun t => Writes (put (have_ - n)) t d (BitVec.ofNat 64 n)) ∧
      (n ≠ 0 → ¬ before → have_ < n → late → Ends i s fun t => Writes (put 0) t d (BitVec.ofNat 64 (2 ^ 63 + have_))) ∧
      (n ≠ 0 → ¬ before → have_ < n → ¬ late → Ends i s fun t => Holds s t ∧ t.hart.wait = .timed since))

/-- R104, R180, R183, R185 and R229: the events `mbwaitTimeout`, `linkNotReadyTimeout`, `waitgePoll` and `xsendInject` execute the waiting word of the hart again, and complete it where what it waits for is there: a count of zero, a word of the neighbour's, a count that is reached, the time of the packet. -/
def Says.LooksAgain : Prop :=
  ∀ (s : State) (w0 w1 : W32), s.hart.fr = some (w0, w1) → s.hart.aStall ≠ none →
    let c := coreOf s.hid
    let waits (i : Instr) : Prop := w0.toNat % 2 ^ 30 = i.bits
    (∀ d a b tag, waits (.mbwait d a b tag) → s.ctl = false → s.hart.nacks = [] → s.hart.older = false → (s.g a).toNat % 2 ^ 16 = 0 →
      ∃ t, exec .mbwaitTimeout s = .next t ∧ Writes s t d 0) ∧
    (∀ d w v l, waits (.lnkr d w) → s.ctl = false → s.hart.older = false → s.linkBusy c w = false → (s.core c).link w = v :: l →
      (∀ n, n < 4 → hartOf c n ≠ s.hid → (s.getHart (hartOf c n)).waiting 0x24 = none) →
      ∃ t, exec .linkNotReadyTimeout s = .next t ∧ Writes (s.setCore c ((s.core c).setLink w l)) t d v) ∧
    (∀ a b k pte, waits (.waitge a b) → (s.g a).toNat % 8 = 0 → s.hart.quiet = true → s.groupAhead s.hart.fno (s.g a) 8 = false → s.hart.cbuf = [] →
      s.access s.me (s.g a) 8 .read = .ok (.mem k) pte → s.badIn k 8 = false → (s.g b).toNat % 2 ^ 56 ≤ s.rdN k 8 % 2 ^ 56 →
      ∃ t ws ds, exec .waitgePoll s = .next t ∧ WalkNoted s ws (s.g a) .read ∧ HotOnly s.dies ds ∧
        Finishes { s with hart := { s.hart with walks := ws }, dies := ds, regs := (s.niSample (s.g a)).regs } t) ∧
    ∀ a b n at_, waits (.xsend a b n) → s.ctl = false → s.hart.wait = .timed at_ → at_ ≤ s.clk →
      let s1 := s.retireBad (poolKey c (bitsN (s.g a) 17 0)) (64 * (bitsN (s.g a) 21 20 + 1))
      ∃ t u, exec .xsendInject s = .next t ∧ Finishes u t ∧ u = { s1 with dev := u.dev } ∧ u.dev = { s1.dev with packets := u.dev.packets } ∧
        u.dev.packets.length = s1.dev.packets.length + 1

/-- R151, R152, R159, R169, R170 and R214: `tspawn` traps on a misaligned address and waits until every earlier access is done; a read that is refused traps; an image that R169 refuses is cause 0x11 with its code; one that it accepts becomes an entry of the slice and index that R151 selects, with no arrivals, or with a handed range of its tag and partition that waits there and one arrival, and the frame completes; it waits while no slice has room. `tsig` sends its tag with the partition, region and die of the task; a delivered tag counts at every entry of its partition with that tag, which is ready once its arrivals meet COUNT, or, where there is none, in LOSTSIG of the region of the task that sent it. That LOSTSIG saturates is the model's choice (log entry 18). -/
def Says.SpawnAndSignal : Prop :=
  ∀ (s : State) (a : GReg),
    let addr := s.g a
    let moved := s.hart.groupsBefore s.hart.fno = false
    let ready := s.hart.quiet = true ∧ moved
    let waits (i : Instr) : Prop := (¬ moved → WaitsStreams i s (s.hart.queuesBefore s.hart.fno)) ∧ (moved → s.hart.quiet = false → Drains i s)
    (addr.toNat % 64 ≠ 0 → exec (.tspawn a) s = .next (s.trapA ⟨4, 0, addr⟩)) ∧
    (addr.toNat % 64 = 0 → waits (.tspawn a)) ∧
    (∀ e u, addr.toNat % 64 = 0 → ready → s.readA addr 64 = .trap e u → exec (.tspawn a) s = .next (u.trapA e)) ∧
    (∀ bs u, addr.toNat % 64 = 0 → ready → s.readA addr 64 = .ok bs u →
      let w := lineWords bs
      let v := u.entrySeen u.part w
      (u.spawnStart = none → exec (.tspawn a) s = .next (u.trapA ⟨0x11, 5, addr⟩)) ∧
      ∀ start, u.spawnStart = some start →
        (∀ n, u.checkImage u.part w = .refuse n → exec (.tspawn a) s = .next (v.trapA ⟨0x11, BitVec.ofNat 64 n, addr⟩)) ∧
        (∀ e, u.checkImage u.part w = .trap e → exec (.tspawn a) s = .next (v.trapA e)) ∧
        ∀ eff, u.checkImage u.part w = .ok eff →
          (u.basinSlot u.part start = none → Ends (.tspawn a) s (WaitsA s)) ∧
          ∀ cl n, u.basinSlot u.part start = some (cl, n) → Ends (.tspawn a) s fun t => (∃ x : State, x.hart = u.hart ∧ x.hid = u.hid ∧ Finishes x t) ∧
            let mine (p : W32 × HandRange) : Prop := p.1 = imgTag w ∧ p.2.part = u.part
            ∃ e : Entry, (t.cluster cl).entry n = some e ∧ e.image = w ∧ e.part = u.part ∧ e.eff = eff ∧ e.ctx = none ∧ e.mere = none ∧
              ((∀ p ∈ (u.cluster cl).hands, ¬ mine p) → e.arrivals = 0 ∧ e.hand = none ∧ (e.ready ≠ none ↔ imgCount w = 0) ∧ (t.cluster cl).hands = (u.cluster cl).hands) ∧
              ∀ l r m, (u.cluster cl).hands = l ++ (imgTag w, r) :: m → r.part = u.part → (∀ p ∈ l, ¬ mine p) →
                e.arrivals = 1 ∧ e.hand = some { r with bound := u.clk, tried := false } ∧ (e.ready ≠ none ↔ imgCount w ≤ 1) ∧ ∀ p ∈ (t.cluster cl).hands, p ≠ (imgTag w, r)) ∧
    waits (.tsig a) ∧
    (ready → Ends (.tsig a) s
      (Finishes { s with dev := { s.dev with signals := s.dev.signals ++ [((s.g a).setWidth 32, s.part, s.hart.region, dieOf s.hid)] } })) ∧
    (s.hart.region = match s.hart.task with | some t => some (t.eff.chain.headD (0, 0, 0)).1 | none => none) ∧
    (s.dev.signals = [] → exec .signalDelivery s = .next s) ∧
    ∀ tag part region d l, s.dev.signals = (tag, part, region, d) :: l →
      let hit (e : Entry) : Prop := imgTag e.image = tag ∧ e.part = part
      let u : State := { s with dev := { s.dev with signals := l } }
      ((∃ p ∈ s.clus, ∃ q ∈ p.2.basin, ∃ e, q.2 = some e ∧ hit e) → Ends .signalDelivery s fun t => t = { u with clus := t.clus } ∧
        ∀ cl n e, (s.cluster cl).entry n = some e → ∃ e' : Entry, (t.cluster cl).entry n = some e' ∧ (¬ hit e → e' = e) ∧
          (hit e → e' = { e with arrivals := min 65535 (e.arrivals + 1), ready := if e.ready = none ∧ imgCount e.image ≤ e'.arrivals then some s.clk else e.ready })) ∧
      ((∀ p ∈ s.clus, ∀ q ∈ p.2.basin, ∀ e, q.2 = some e → ¬ hit e) →
        exec .signalDelivery s = .next (match region with
          | none => u
          | some at_ => u.rcbUpdate d part at_ 56 fun w => putBits w 31 0 (min (2 ^ 32 - 1) (bitsN w 31 0 + 1))))

/-- R159, R171, R214 and R367: `hand` of a page range of the task's own scratchpad, with a page count of 1 to 61, waits until every earlier access is done, binds the range to the lowest-indexed entry of its partition with its tag, which counts an arrival, or keeps it in the hand table, spilled where it can be, and completes; the units have left the task's share. A full hand table or an entry that has a range is cause 0x12; a control hart, a misaligned range, a malformed operand and a range outside the share trap first. That it never binds to a saved context is the model's choice (log entry 37). -/
def Says.HandOn : Prop :=
  ∀ (s : State) (a b : GReg),
    let x := s.g a
    let addr := s.g b
    let n := bitsN x 37 32
    let tag : W32 := x.setWidth 32
    let i := Instr.hand a b
    let cl := clusOf s.hid
    let c := s.cluster cl
    let u0 := bitsN addr 17 0 / 4096
    let good := s.ctl = false ∧ addr.toNat % 4096 = 0 ∧ 1 ≤ n ∧ n ≤ 61 ∧ bitsN x 63 38 = 0
    let own := s.ownRange addr n = true
    let moved := s.hart.groupsBefore s.hart.fno = false
    let ready := s.hart.quiet = true ∧ moved
    let r := s.handRange u0 n
    let fits (p : Nat × Option Entry) : Prop := ∃ e, p.2 = some e ∧ imgTag e.image = tag ∧ e.part = s.part ∧ e.ctx = none
    let left (t : State) (k : UnitUse) : Prop := ∀ m, kget UnitUse.free (t.core (coreOf s.hid)).units m =
      if u0 ≤ m ∧ m < u0 + n then k else kget UnitUse.free (s.core (coreOf s.hid)).units m
    (s.ctl = true → exec i s = .next (s.trapA ⟨2, s.hart.word0, 0⟩)) ∧
    (s.ctl = false → addr.toNat % 4096 ≠ 0 → exec i s = .next (s.trapA ⟨4, 0, addr⟩)) ∧
    (s.ctl = false → addr.toNat % 4096 = 0 → n = 0 ∨ 61 < n ∨ bitsN x 63 38 ≠ 0 → exec i s = .next (s.trapA ⟨2, x, 0⟩)) ∧
    (good → ¬ own → exec i s = .next (s.trapA ⟨5, 0, addr⟩)) ∧
    (good → own → ¬ moved → WaitsStreams i s (s.hart.queuesBefore s.hart.fno)) ∧ (good → own → moved → s.hart.quiet = false → Drains i s) ∧
    (own → addr.getLsbD 63 = true ∧ coreNamed s.hid addr = coreOf s.hid ∧ ∀ m, u0 ≤ m → m < u0 + n → kget UnitUse.free (s.core (coreOf s.hid)).units m = .scratch (s.hid % 4)) ∧
    (good → own → ready → kwf none c.basin = true → ∀ k e, c.entry k = some e → fits (k, some e) → (∀ p ∈ c.basin, p.1 < k → ¬ fits p) →
      (e.hand ≠ none → exec i s = .next (s.trapA ⟨0x12, x, addr⟩)) ∧
      (e.hand = none → Ends i s fun t => Finishes { s with cores := t.cores, clus := t.clus } t ∧ left t .kept ∧
        (∀ j, t.cluster j = { s.cluster j with basin := (t.cluster j).basin }) ∧ (∀ j q, ¬ (j = cl ∧ q = k) → (t.cluster j).entry q = (s.cluster j).entry q) ∧
        ∃ e', (t.cluster cl).entry k = some e' ∧ e' = { e with
          hand := some r, arrivals := min 65535 (e.arrivals + 1)
          ready := if e.ready = none ∧ imgCount e.image ≤ e'.arrivals then some s.clk else e.ready })) ∧
    (good → own → ready → (∀ p ∈ c.basin, ¬ fits p) →
      (16 ≤ c.hands.length → exec i s = .next (s.trapA ⟨0x12, x, addr⟩)) ∧
      (c.hands.length < 16 → Ends i s fun t => ∃ (v : State) (q : HandRange), Finishes v t ∧ v.hart = s.hart ∧ v.others = s.others ∧
        (t.cluster cl).hands = c.hands ++ [(tag, q)] ∧ (t.cluster cl).basin = c.basin ∧
        (q.spilled = false → q = { r with tried := true } ∧ left t .kept) ∧
        (q.spilled = true → left t .free ∧ ∃ d, q = { r with addr := r.spill + BitVec.ofNat 64 (4096 * d), spilled := true, units := [] })))

/-- R94, R160 to R162, R168, R172, R173 and R260: `halt`, `halt.retain` and `tabort` of a task that may end. `halt` of a direct task ends it; of a buffered one every line of the commit buffer is written, or, if one line fails its check, none is, and the task completes as faulted with that cause. `halt.retain` first hands its scratchpad on. `tabort` discards a buffered task, which returns to Basin, and completes another as faulted with cause 0x40. Each waits for older B words, and one whose frame holds a B word completes as no end, so that the B word traps. The model's choices: `halt.retain` with an empty share binds nothing (log entry 37); an ending beside a B word does not end the task (log entry 18). -/
def Says.TaskEnds : Prop :=
  ∀ (s : State) (a : GReg) (t : Task), s.hart.task = some t →
    (∀ i, i = .halt ∨ i = .haltRetain a ∨ i = .tabort →
      (s.ctl = true → exec i s = .next (s.trapA ⟨2, s.hart.word0, 0⟩)) ∧
      (s.ctl = false → bitsN (s.csr .mstat) 17 16 = 0 → s.hart.nacks = [] → s.hart.older = true → Ends i s (WaitsA s)) ∧
      ∀ w, MayEnd { s with hart := { s.hart with fr := none } } → s.hart.bWord? = some w →
        Ends i s fun u => CompletesA s u ∧ NextFrame s u ∧ ∃ e : SeqEnt, u.hart.seq = [e] ∧ e.bad = some w ∧ e.pc = s.hart.pc) ∧
    (MayEnd s → s.hart.isBuffered = false → EndsTask .halt s fun u => (u.liveDown (dieOf s.hid) t.part t.eff).mereCommit t s.hart.meas) ∧
    (MayEnd s → s.hart.isBuffered = true →
      (∀ u, s.plan s.hart.cbuf = .wait u → exec .halt s = .next (u.waitA .other)) ∧
      (∀ c u, s.plan s.hart.cbuf = .fail c u → u.mem = s.mem ∧ u.full = s.full ∧ u.hart = s.hart ∧ u.others = s.others ∧ exec .halt s = .next (u.completeFaulted u.hid c)) ∧
      ∀ l u, s.plan s.hart.cbuf = .ok l u → ∃ (x : State) (m : W32), exec .halt s = .next (x.finishTask m) ∧ x.hart.task = some t ∧
        (l.Pairwise (fun p q => ∀ j k, p.2.1 = .mem j → q.2.1 = .mem k → j + 64 ≤ k ∨ k + 64 ≤ j) → (∀ k, kget false s.bad k = false) →
          ∀ p ∈ l, ∀ k, p.2.1 = .mem k → ∀ j, j < 64 → x.rdB (k + j) = lineByte p.2.2 j)) ∧
    (MayEnd s →
      (firstRun (s.heldUnits s.hid) = [] → exec (.haltRetain a) s = exec .halt s) ∧
      ∀ k l, firstRun (s.heldUnits s.hid) = k :: l →
        let r := s.handRange k (l.length + 1)
        (s.bindHand ((s.g a).setWidth 32) r = none → exec (.haltRetain a) s = .next (s.trapA ⟨0x12, s.g a, r.addr⟩)) ∧
        (∀ u, s.bindHand ((s.g a).setWidth 32) r = some u → exec (.haltRetain a) s = .next u.retireTask) ∧ exec .halt s = .next s.retireTask ∧
        (s.hart.isBuffered = false → s.bindHand ((s.g a).setWidth 32) r ≠ none →
          EndsTask (.haltRetain a) s fun u => (u.liveDown (dieOf s.hid) t.part t.eff).mereCommit t s.hart.meas)) ∧
    (MayEnd s → s.hart.isBuffered = true → EndsTask .tabort s fun u => u.insertOrWait (clusOf s.hid) { t.entry s.clk with exclusive := false }) ∧
    (MayEnd s → s.hart.isBuffered = false → exec .tabort s = .next (s.completeFaulted s.hid 0x40))

/-- R163 and R172: completion of a task as faulted parks its hart and frees its units; a buffered task's stores to virtual space are gone, and the others that are still buffered are made (that a direct task's are is the model's choice, log entry 31); the rest is bookkeeping: FAULTS of its region, the first fault, LIVE, a Mere block, quarantine. -/
def Says.TaskFaulted : Prop :=
  ∀ (s : State) (fc : Nat) (t : Task), s.ctl = false → s.hart.task = some t → t.mere = none → t.eff.quarantine = false →
    ∃ u, s.completeFaulted s.hid fc = (((u.rcbUpdate (dieOf s.hid) t.part (t.eff.chain.headD (0, 0, 0)).1 40 fun w =>
        putBits w 31 0 (bitsN w 31 0 + 1)).firstFault (dieOf s.hid) t fc).liveDown (dieOf s.hid) t.part t.eff) ∧
      u.hid = s.hid ∧ Parked u.hart ∧ ((∀ e ∈ s.hart.sbuf, e.buffered = true) → SameMemory s u) ∧ UnitsLeft s u

/-- R27, R154 to R157, R179, R181, R347 and R348: a dispatch to a cluster without power or without a selectable entry does nothing; else the winner goes to the lowest core where it fits, and a new task starts on the lowest free hart there, in user mode at its entry, with the arguments, the tag, the constant bank, the share and the vectors of R27, everything else at its reset value. A task whose constant bank cannot be read completes as faulted with 0x41. A saved context goes on with the registers, queues and PC of its image, its open phase, its packet refusals, the stores that a stream group held up, its measure and its MIGREQ, and its slot is free; a byte of the image in an uncorrectable word is a free value (log entry 27). Where a winner fits but for a hart, the running task of the lowest priority is asked to leave if the winner exceeds it by 8. That each dispatch selects afresh and that a cluster without power takes nothing are the model's choices (log entry 41). -/
def Says.Dispatch : Prop :=
  ∀ (s : State) (cl : Nat),
    ((s.cluster cl).powered = false ∨ s.winner cl = none → exec (.dispatch cl) s = .next s) ∧
    (∀ n e, (s.cluster cl).powered = true → s.winner cl = some (n, e) → (∀ c, 8 * cl ≤ c → c < 8 * cl + 8 → s.fits e c = none) →
      ((∀ c, 8 * cl ≤ c → c < 8 * cl + 8 → s.fitsUnits e c = none) → exec (.dispatch cl) s = .next s) ∧
      ∀ c, 8 * cl ≤ c → c < 8 * cl + 8 → s.fitsUnits e c ≠ none → ∀ id t, 32 * cl ≤ id → id < 32 * cl + 32 → (s.getHart id).task = some t → (s.getHart id).pre = none →
        (∀ j x, 32 * cl ≤ j → j < 32 * cl + 32 → j ≠ id → (s.getHart j).task = some x → t.eff.prio < x.eff.prio) →
        (e.rank s.clk < t.eff.prio + 8 → exec (.dispatch cl) s = .next s) ∧
        (t.eff.prio + 8 ≤ e.rank s.clk → Ends (.dispatch cl) s fun u => ∃ p, p.st = .requested ∧ p.kind = 1 ∧ p.byReg = false ∧
          (u.getHart id).pre = some p ∧ ∀ j, j ≠ id → u.getHart j = s.getHart j)) ∧
    (∀ n e c sp rest slot, (s.cluster cl).powered = true → s.winner cl = some (n, e) →
      ((List.range 8).map (8 * cl + ·)).findSome? (fun c => (s.fits e c).map fun p => (c, p)) = some (c, sp, rest) → e.ctx = some slot →
      ∃ k, s.freeHart c = some k ∧ Ends (.dispatch cl) s fun t =>
        let id := hartOf c k
        let h := t.getHart id
        let at_ := s.ctxSlotAt (dieOf id) slot
        let bs := s.rdFree s.freeIx at_ (bitsN (BitVec.ofNat 64 (s.rdN (at_ + 48) 8)) 19 0)
        at_ + 2 ^ 20 ≤ 2 ^ 52 → h.run = .running ∧ (∀ r : GReg, h.rg r = if r = 0 then 0 else ctxWord bs (0x40 + 8 * r.toNat)) ∧ (∀ r : BitVec 5, h.rv r = v512 ((bs.drop (0x800 + 64 * r.toNat)).take 64)) ∧
        (∀ q : BitVec 3, h.rq q = ctxQueue bs q.toNat) ∧ (∀ q : BitVec 3, h.stream q = { ctxStream bs q.toNat with fno := (e.fnos.getD q.toNat (0, 0)).1, told := (e.fnos.getD q.toNat (0, 0)).2 }) ∧
        (let f := putBits (ctxWord bs 8) 2 0 0
         if (ctxWord bs 8).getLsbD 0 then h.pc = putBits (ctxWord bs 16) 2 0 0 ∧ h.redo = some (f, bitsN (ctxWord bs 24) 6 0) else h.pc = f ∧ h.redo = none) ∧
        h.phase = e.phase ∧ h.nacks = e.nacks ∧ h.sbuf = e.left ∧ h.meas = e.meas ∧ h.reg .migreq = e.migreq ∧ (∃ x : Task, h.task = some x ∧ x.image = e.image ∧ x.part = e.part ∧ x.eff = e.eff ∧ x.hand = e.hand ∧ x.ident = e.ident) ∧
        slot ∉ (t.die (dieOf id)).ctx) ∧
    ∀ n e c sp rest, (s.cluster cl).powered = true → s.winner cl = some (n, e) →
      ((List.range 8).map (8 * cl + ·)).findSome? (fun c => (s.fits e c).map fun p => (c, p)) = some (c, sp, rest) → e.ctx = none →
      let ptr := e.image[5]
      ∃ (k : Nat) (u : State), s.freeHart c = some k ∧ u = { s with clus := u.clus, cores := u.cores, dev := u.dev } ∧
        (ptr.getLsbD 63 = false → u.constBank e.part ptr = s.constBank e.part ptr) ∧
        let id := hartOf c k
        (∀ bank, u.constBank e.part ptr = some bank → Ends (.dispatch cl) s fun t =>
          let h := t.getHart id
          h.run = .running ∧ h.pc = e.image[0] ∧ h.k = bank ∧ h.priv = 0 ∧ h.ie = true ∧ h.td = 0 ∧
          h.rg 1 = e.image[1] ∧ h.rg 2 = e.image[2] ∧ h.rg 3 = e.image[3] ∧ h.rg 4 = e.image[4] ∧ h.rg 5 = (imgTag e.image).setWidth 64 ∧
          (∀ r : GReg, 5 < r.toNat → h.rg r = 0) ∧ (∀ r, h.rv r = 0) ∧ (∀ q, h.rq q = Queue.empty) ∧ h.bq = [] ∧ h.loops = [] ∧ h.seq = [] ∧
          h.reg .vshare = BitVec.ofNat 64 e.eff.vsh ∧ h.reg .stvec = (s.prt e.part).svec ∧ h.reg .fflags = 0 ∧ h.reg .fmode = 0 ∧
          (∀ b, b < 64 → (h.reg .mtvec).getLsbD b = (decide (6 ≤ b) && (s.getReg (regBase (dieOf id) + 0x3000000)).getLsbD b)) ∧
          h.reg .lperm = 0x00FAC688 ∧ h.reg .timecmp = 0xFFFFFFFFFFFFFFFF ∧ h.reg .srep = 1 ∧ h.reg .mrep = 1 ∧ h.reg .inten = 0 ∧ h.reg .intpend = 0 ∧
          ∃ x : Task, h.task = some x ∧ x.image = e.image ∧ x.part = e.part ∧ x.eff = e.eff) ∧
        (u.constBank e.part ptr = none → ∃ x : State, exec (.dispatch cl) s = .next ((x.completeFaulted id 0x41).serve (cl / 512)))

/-- R204, R214 and R350: `tlbinv` is illegal in user mode and for a REACH of 4 to 7, waits as `fence.st` does for its streams of stores and its store buffer, and for older B words, and then completes with the translations of its partition that it names gone from the TLB of every core and the cache of every network interface in its reach; no other translation and nothing else is removed. -/
def Says.TranslationInvalidate : Prop :=
  ∀ (s : State) (a b : GReg),
    let c := s.g b
    let reach := bitsN c 2 0
    let i := Instr.tlbinv a b
    let near (k : Nat) : Prop := (reach = 1 ∧ s.ctl = false ∧ k = clusOf s.hid) ∨ (reach = 2 ∧ k / 512 = dieOf s.hid) ∨ (reach = 3 ∧ s.gpart k = s.part)
    let inside (k : Nat) : Prop := (reach = 0 ∧ s.ctl = false ∧ k = coreOf s.hid) ∨ near (k / 8)
    let named (e : TlbEnt) : Prop := e.part = s.part ∧ (c.getLsbD 3 = true ∨
      ((s.g a).getLsbD 63 = false ∧ bitsN (s.g a) 62 56 = 0 ∧ (s.g a).toNat / 2 ^ pageLog e.lvl = e.page))
    let sst := s.hart.activeOf [6, 7]
    let ready := sst = [] ∧ s.hart.sbuf = [] ∧ s.hart.older = false
    (s.hart.priv = 0 → exec i s = .next (s.trapA ⟨2, s.hart.word0, 0⟩)) ∧
    (s.hart.priv ≠ 0 → 4 ≤ reach → exec i s = .next (s.trapA ⟨2, c, 0⟩)) ∧
    (s.hart.priv ≠ 0 → reach < 4 → sst ≠ [] → WaitsStreams i s sst) ∧
    (s.hart.priv ≠ 0 → reach < 4 → sst = [] → s.hart.sbuf ≠ [] → Drains i s) ∧
    (s.hart.priv ≠ 0 → reach < 4 → sst = [] → s.hart.sbuf = [] → s.hart.older = true → Ends i s (WaitsA s)) ∧
    (s.hart.priv ≠ 0 → reach < 4 → ready → Ends i s fun t => Finishes { s with cores := t.cores, clus := t.clus } t ∧
      (∀ k, t.core k = { s.core k with tlb := (t.core k).tlb } ∧ ∀ e, e ∈ (t.core k).tlb ↔ e ∈ (s.core k).tlb ∧ ¬ (inside k ∧ named e)) ∧
      ∀ k, t.cluster k = { s.cluster k with ni := (t.cluster k).ni } ∧ ∀ e, e ∈ (t.cluster k).ni ↔ e ∈ (s.cluster k).ni ∧ ¬ (near k ∧ named e))

/-- R344, R345 and R351 to R353: `ctxsave` and `ctxrest` are illegal in user mode, refuse core space and a misaligned image, and wait for a quiet hart, its streams and its engines. `ctxsave` stores the hart's image, which resumes at the next frame, and completes; `ctxrest` checks the header and goes on with every register as the image has it; `yield` completes and, on an ordinary hart, asks for a cut with an image of KIND 2. What they wait for and in which order, the order of the header's faults, and that an uncorrectable word of the pool traps `ctxsave` before any line is stored are the model's choices (log entries 42 and 43). -/
def Says.Contexts : Prop :=
  ∀ (s : State) (a : GReg),
    let addr := if a = 0 then s.csr .ctxptr else s.g a
    let settled := s.hart.streamsDone = true ∧ s.enginesDone s.hid = true
    (∀ i, i = .ctxsave a ∨ i = .ctxrest a →
      (s.hart.priv = 0 → exec i s = .next (s.trapA ⟨2, s.hart.word0, 0⟩)) ∧
      (s.hart.priv ≠ 0 → addr.getLsbD 63 = true → exec i s = .next (s.trapA ⟨5, 0, addr⟩)) ∧
      (s.hart.priv ≠ 0 → addr.getLsbD 63 = false → addr.toNat % 4096 ≠ 0 → exec i s = .next (s.trapA ⟨4, 0, addr⟩)) ∧
      (s.hart.priv ≠ 0 → addr.getLsbD 63 = false → addr.toNat % 4096 = 0 → s.hart.quiet = false → Drains i s)) ∧
    (s.hart.priv ≠ 0 → addr.getLsbD 63 = false → addr.toNat % 4096 = 0 → s.hart.quiet = true →
      (¬ settled → Ends (.ctxsave a) s (WaitsA s)) ∧
      (∀ o, s.ctxBadAt s.hid = some o → s.badIn (poolKey (coreOf s.hid) o) 1 = true ∧ o / 4096 ∈ s.ctxHeld s.hid) ∧
      (s.ctxBadAt s.hid = none → ∀ u ∈ s.ctxHeld s.hid, ∀ o, o / 4096 = u → s.badIn (poolKey (coreOf s.hid) o) 1 = false) ∧
      (∀ o, settled → s.ctxBadAt s.hid = some o → exec (.ctxsave a) s = .next ((s.ctxRetire s.hid).trapA ⟨8, 1, selfAddr o⟩)) ∧
      (settled → s.ctxBadAt s.hid = none →
        let bs := s.ctxImage s.hid 0 (s.hart.pc + 8) false (s.hart.pc + 16) 1
        let ls := rangeLines addr bs.length
        (s.hart.overflows ls = true → exec (.ctxsave a) s = .next (s.discardTask s.hid true)) ∧
        let ahead := s.groupAhead s.hart.fno addr bs.length
        (s.hart.overflows ls = false → ahead = true → WaitsStreams (.ctxsave a) s (s.queuesAhead s.hart.fno addr bs.length)) ∧
        (∀ cs u, s.hart.overflows ls = false → ahead = false → s.storeLines bs ls = .ok cs u → Ends (.ctxsave a) s (Finishes u)) ∧
        (∀ e u, s.hart.overflows ls = false → ahead = false → s.storeLines bs ls = .trap e u → exec (.ctxsave a) s = .next (u.trapA e))) ∧
      (s.groupAhead s.hart.fno addr 0x400 = true → WaitsStreams (.ctxrest a) s (s.queuesAhead s.hart.fno addr 0x400)) ∧
      ∀ hd u, s.groupAhead s.hart.fno addr 0x400 = false → s.loadLines (rangeLines addr 0x400) = .ok hd u →
        (∀ n, u.ctxBad hd = some n → exec (.ctxrest a) s = .next (u.trapA ⟨0x1B, BitVec.ofNat 64 n, addr⟩)) ∧
        (u.ctxBad hd = none → u.hart.streamsDone = true → u.enginesDone u.hid = true →
          let units := u.heldUnits u.hid ++ u.hart.handUnits
          ∀ bs v, u.groupAhead u.hart.fno addr (0xB000 + 4096 * units.length) = false → u.loadLines (rangeLines addr (0xB000 + 4096 * units.length)) = .ok bs v →
            Ends (.ctxrest a) s fun t => OnlyHart (v.ctxLoad bs units) t ∧
              (∀ r : GReg, r ≠ 0 → t.g r = ctxWord bs (0x40 + 8 * r.toNat)) ∧
              (∀ r : VReg, t.hart.rv r = BitVec.ofNat 512 (leNat ((bs.drop (0x800 + 64 * r.toNat)).take 64))) ∧
              (∀ n : BitVec 6, t.hart.rk n = BitVec.ofNat 32 (leNat ((bs.drop (0x400 + 4 * n.toNat)).take 4))) ∧
              t.csr .fmode = ctxReg bs .fmode &&& 3 ∧ t.csr .inten = ctxReg bs .inten &&& (if v.ctl then 0x3F else 3) ∧
              ((ctxWord bs 8).getLsbD 0 = false → t.hart.pc = frameOf (ctxWord bs 8) ∧ t.hart.redo = none) ∧
              ((ctxWord bs 8).getLsbD 0 = true → t.hart.pc = frameOf (ctxWord bs 16) ∧
                t.hart.redo = some (frameOf (ctxWord bs 8), bitsN (ctxWord bs 24) 6 0)))) ∧
    (s.hart.older = true → Ends .yield s (WaitsA s)) ∧
    (s.hart.older = false → s.ctl = true → s.enginesDone s.hid = false → Ends .yield s (WaitsA s)) ∧
    (s.hart.older = false → s.ctl = true → s.enginesDone s.hid = true → Ends .yield s (Finishes s)) ∧
    (s.hart.older = false → s.ctl = false → Ends .yield s fun t => ∃ p : PreReq, p.st = .requested ∧ p.kind = 2 ∧
      Finishes { s with hart := { s.hart with pre := some p } } t)

/-- R344 and R352: a hart that loads its own image has the g, v and k registers, the branch queue and the loop stack that it had. -/
def Says.ContextRoundTrip : Prop :=
  ∀ (s : State) (kind rep : Nat) (pc npc : W64) (trb : Bool), s.hart.bq.length ≤ 16 → s.hart.loops.length ≤ 4 →
    let bs := s.ctxImage s.hid kind pc trb npc rep
    let h := s.hart.ctxLoad s.ctl bs
    (∀ r, h.rg r = s.hart.rg r) ∧ (∀ r, h.rv r = s.hart.rv r) ∧ (∀ n, h.rk n = s.hart.rk n) ∧ h.bq = s.hart.bq ∧ h.loops = s.hart.loops ∧
      (∀ q, (h.rq q).head = (s.hart.rq q).head ∧ (h.rq q).slots = (s.hart.rq q).slots)

/-- R23, R354 and R355: `capstart` and `capstop` wait for older B words. `capstart` at a 64 B boundary completes and starts a capture with zero counters; `capstop` completes without effect when none is active, else it buffers one store of the record and ends the capture. That the record holds the counts before its own store is the model's choice (log entry 70). -/
def Says.Capture : Prop :=
  ∀ (s : State) (a : GReg),
    let buf := !(s.csr .capptr).getLsbD 63 && s.hart.isBuffered
    ((s.g a).toNat % 64 ≠ 0 → exec (.capstart a) s = .next (s.trapA ⟨4, 0, s.g a⟩)) ∧
    ((s.g a).toNat % 64 = 0 → s.hart.older = true → Ends (.capstart a) s (WaitsA s)) ∧
    ((s.g a).toNat % 64 = 0 → s.hart.older = false → ∃ h : Hart, h = { s.hart with regs := h.regs } ∧ h.reg .capptr = s.g a ∧ h.reg .capstat = BitVec.ofNat 64 (2 ^ 63) ∧
      h.reg .capclk = 0 ∧ h.reg .capt0 = s.clk ∧ (∀ r : HReg, r.counter = true → h.reg r = 0) ∧
      (∀ r : HReg, r.counter = false → r ∉ [HReg.capptr, .capstat, .capclk, .capt0] → h.reg r = s.hart.reg r) ∧
      Ends (.capstart a) s (Finishes { s with hart := h })) ∧
    ((s.csr .capstat).getLsbD 63 = false → Ends .capstop s (Finishes s)) ∧
    let entry (l : Loc) : StoreEnt := ⟨l, s.csr .capptr, s.capRecord, s.hart.fno, false, buf, false, false⟩
    ((s.csr .capstat).getLsbD 63 = true → s.hart.older = true → Ends .capstop s (WaitsA s)) ∧
    ((s.csr .capstat).getLsbD 63 = true → s.hart.older = false → 64 ≤ s.hart.sbuf.length → BufferFull .capstop s) ∧
    (∀ l pte, (s.csr .capstat).getLsbD 63 = true → s.hart.older = false → s.hart.sbuf.length < 64 → s.access s.me (s.csr .capptr) 64 .write = .ok l pte →
      s.room (entry l) = false → BufferFull .capstop s) ∧
    (∀ e, (s.csr .capstat).getLsbD 63 = true → s.hart.older = false → s.hart.sbuf.length < 64 → s.access s.me (s.csr .capptr) 64 .write = .trap e →
      exec .capstop s = .next ((s.walked s.part (s.csr .capptr)).trapA e)) ∧
    (s.capRecord = [s.csr .capstat, s.csr .capclk, s.clk - s.csr .capt0, s.csr .capsel, s.csr .capctr0, s.csr .capctr1, s.csr .capctr2, s.csr .capctr3].flatMap
      fun w => leBytes 8 w.toNat) ∧
    ∀ l pte, (s.csr .capstat).getLsbD 63 = true → s.hart.older = false → s.hart.sbuf.length < 64 → s.room (entry l) = true → (∀ dev va, l ≠ .remote dev va) →
      (buf = true → (s.csr .capptr).toNat / 64 ∈ s.hart.cbufLines ∨ s.hart.cbufLines.length < 1024) → s.access s.me (s.csr .capptr) 64 .write = .ok l pte →
      Ends .capstop s fun t => SameMemory s t ∧ ∃ (h : Hart) (ws : List WalkReq), WalkNoted s ws (s.csr .capptr) .write ∧ (h.reg .capstat).getLsbD 63 = false ∧
        (∀ b, b < 63 → (h.reg .capstat).getLsbD b = (s.csr .capstat).getLsbD b) ∧ (∀ r : HReg, r.counter = false → r ≠ .capstat → h.reg r = s.hart.reg r) ∧
        h = { s.hart with regs := h.regs, walks := ws, sbuf := withStore s.hart.sbuf ⟨l, s.csr .capptr, s.capRecord, s.hart.fno, false, buf, false, false⟩ } ∧
        Finishes { s with hart := h } t

/-- R103, R341, R346 and R348: PREEMPT of a running task's hart asks for a cut, which wakes the hart, and sets PEND; of a hart without a task it answers LAST 1, with PEND set while another request written there is in progress; the HARTID of another die is ignored. SOFTINT makes INTPEND.SOFT of the hart pending. That the HARTID of another die is ignored is the model's choice (log entry 41). -/
def Says.PreemptAndSoftint : Prop :=
  ∀ (s : State) (die : BitVec 2) (v : W64),
    let d := die.toNat
    let id := bitsN v 15 0
    let h := s.getHart id
    let r := regBase d + 0x3000018
    (dieOf id ≠ d → exec (.preempt die v) s = .next s) ∧
    (dieOf id = d → h.run ≠ .running ∨ h.task = none → Ends (.preempt die v) s fun t => t.hart = s.hart ∧ t.others = s.others ∧ SameMemory s t ∧
      (bitsN (t.getReg r) 63 63 = 1 ↔ ∃ k ∈ s.allHarts, k.1 ≠ id ∧ dieOf k.1 = d ∧ ∃ q, k.2.pre = some q ∧ q.byReg = true) ∧ bitsN (t.getReg r) 62 61 = 1) ∧
    (dieOf id = d → h.run = .running → h.task ≠ none → Ends (.preempt die v) s fun t => SameMemory s t ∧
      bitsN (t.getReg r) 63 63 = 1 ∧ bitsN (t.getReg r) 62 61 = 0 ∧ (∀ k, k ≠ id → t.getHart k = s.getHart k) ∧
      ∃ p : PreReq, t.getHart id = { h with pre := some p, aStall := none, bStall := none } ∧ p.byReg = true ∧ (h.pre = none → p.st = .requested ∧ p.kind = 1)) ∧
    Ends (.softint die v) s fun t => SameMemory s t ∧ t.regs = s.regs ∧ (∀ k, k ≠ id → t.getHart k = s.getHart k) ∧
      (t.getHart id).reg .intpend = h.reg .intpend ||| 1 ∧ (t.getHart id).pc = h.pc ∧ (t.getHart id).g = h.g ∧ (t.getHart id).aStall = none

/-- R2, R162, R342, R346 and R348: a requested cut that can be made is made: the hart stops at the cut, the request holds where it resumes, and a buffered task is discarded; one that cannot be made yet changes nothing. Once its engines are done, and its stores but those that a stream group holds up, its image goes to the lowest free context slot and its entry to Basin, ready, with its open phase, packet refusals, held stores, measure and MIGREQ, the hart is parked and its units are free, and PREEMPT, if it asked, reads LAST 0; with a full context pool the hart resumes at the cut and LAST is 2. The lowest free slot, and what the entry carries, are the model's choices (log entries 41 and 42). -/
def Says.Preemption : Prop :=
  ∀ (s : State) (id : Nat) (p : PreReq),
    let h := s.getHart id
    (h.pre = none ∨ (h.pre = some p ∧ (p.st ≠ .requested ∨ (s.focus id).cuttable = false ∨ h.goesOn = true)) → exec (.preemptionCut id) s = .next s) ∧
    (h.pre = some p → p.st = .requested → (s.focus id).cuttable = true → h.goesOn = false →
      let c := h.cutAt
      let p1 : PreReq := { p with st := .cut, pc := c.1.1, trb := c.1.2.1, npc := c.1.2.2.1, rep := c.1.2.2.2 }
      let u := (s.withdraw id).setHart id { c.2 with wait := .none, pre := some p1 }
      (h.isBuffered = false → exec (.preemptionCut id) s = .next u) ∧
      (h.isBuffered = true → exec (.preemptionCut id) s = .next (u.discardTask id false))) ∧
    (h.pre = none ∨ h.task = none ∨ (h.pre = some p ∧ (p.st ≠ .cut ∨ (s.focus id).looseStores ≠ [] ∨ h.walks ≠ [] ∨ s.enginesDone id = false)) →
      exec (.contextSaveComplete id) s = .next s) ∧
    ∀ t, h.pre = some p → h.task = some t → p.st = .cut → (s.focus id).looseStores = [] → h.walks = [] → s.enginesDone id = true →
      let r := regBase (dieOf id) + 0x3000018
      let last (u : State) (n : Nat) : Prop := if p.byReg = true then bitsN (u.getReg r) 62 61 = n else u.getReg r = s.getReg r
      (s.ctxFree (dieOf id) = none → Ends (.contextSaveComplete id) s fun u => SameMemory s u ∧ last u 2 ∧
        u.getHart id = { h with pre := none, redo := if p.trb then some (p.pc, p.rep) else none, aStall := none, bStall := none }) ∧
      ∀ k, s.ctxFree (dieOf id) = some k →
        let at_ := s.ctxSlotAt (dieOf id) k
        let bs := s.ctxImage id p.kind p.pc p.trb p.npc p.rep
        Ends (.contextSaveComplete id) s fun u => Parked (u.getHart id) ∧ k ∈ (u.die (dieOf id)).ctx ∧ last u 0 ∧
          (let saved (x : Entry) : Prop := x.ctx = some k ∧ x.image = t.image ∧ x.part = t.part ∧ x.hand = t.hand ∧ x.held = s.heldUnits id ∧ x.phase = h.phase ∧
            x.nacks = h.nacks ∧ x.left = h.sbuf ∧ x.fno = h.fno ∧ x.migreq = h.reg .migreq ∧ x.meas = h.meas ∧
            (∀ q : BitVec 3, x.fnos[q.toNat]? = some ((h.stream q).fno, (h.stream q).told)) ∧ x.ident = t.ident ∧ x.arrivals = imgCount t.image ∧ x.ready = some s.clk
           (∃ cl n x, (u.cluster cl).entry n = some x ∧ saved x) ∨ ∃ x ∈ (u.die (dieOf id)).waiting, saved x) ∧
          (s.badIn at_ bs.length = false → (∀ j (hj : j < bs.length), u.rdB (at_ + j) = bs[j]) ∧ SameMemoryBut s u at_ bs.length) ∧
          ∀ n, n < 64 → kget UnitUse.free (u.core (coreOf id)).units n ≠ .scratch (id % 4) ∧ kget UnitUse.free (u.core (coreOf id)).units n ≠ .backing (id % 4)

/-- R200, R343 and R363: a host write, read or atomic of device memory whose frames are not retired and that holds no uncorrectable word writes exactly its bytes, returns exactly the bytes, and adds, swaps or compares and swaps an aligned word, returning the old value. A read that touches a retired frame or an uncorrectable word answers an error, and so does an atomic there or on a misaligned word; what it found uncorrectable is retired. Beyond the aperture's targets a read gives zeros, a write is dropped and an atomic returns zero. The model's choices (log entry 50): the error at an uncorrectable word, that of an atomic at a retired frame or a misaligned word, and the zero of an atomic outside device memory. -/
def Says.HostMemory : Prop :=
  ∀ (s : State) (off : Nat) (data : List Byte) (n : Nat) (op : HostOp) (wide : Bool) (x e : W64),
    let size := if wide then 8 else 4
    let live (m : Nat) : Prop := off + m ≤ 0xC000000000 ∧ (∀ j, j < m → s.isRetired (off + j) = false) ∧ ∀ k, kget false s.bad k = false
    (live data.length → Ends (.hostWrite off data) s fun t => t.hart = s.hart ∧ t.others = s.others ∧
      (∀ j (h : j < data.length), t.rdB (off + j) = data[j]) ∧ SameMemoryBut s t off data.length) ∧
    (0xC000040000 ≤ off → exec (.hostWrite off data) s = .next s) ∧
    (live n → Ends (.hostRead off n) s fun t => t.hart = s.hart ∧ SameMemory s t ∧ t.dev.hostData = some (s.rdBytes off n)) ∧
    (∀ j, j < n → off + j < 0xC000000000 → s.isRetired (off + j) = true ∨ s.badIn (off + j) 1 = true →
      Ends (.hostRead off n) s fun t => SameMemory s t ∧ t.dev.hostData = none) ∧
    (0xC000040000 ≤ off → Ends (.hostRead off n) s fun t => t = { s with dev := t.dev } ∧ t.dev.hostData = some (List.replicate n 0)) ∧
    (live size → off % size = 0 → Ends (.hostAtomic op off wide x e) s fun t => t.hart = s.hart ∧ SameMemoryBut s t off size ∧
      t.dev.hostData = some (s.rdBytes off size) ∧
      let w := 8 * size
      BitVec.ofNat w (t.rdN off size) = amoValue (match op with | .add => .add | .swap => .swap | .cas => .cas)
        (BitVec.ofNat w (s.rdN off size)) (x.setWidth w) (e.setWidth w)) ∧
    (off < 0xC000000000 → off % size ≠ 0 ∨ s.isRetired off = true ∨ s.badIn off size = true →
      Ends (.hostAtomic op off wide x e) s fun t => SameMemory s t ∧ t.dev.hostData = none) ∧
    (0xC000000000 ≤ off → Ends (.hostAtomic op off wide x e) s fun t => SameMemory s t ∧ t.dev.hostData = some (List.replicate size 0))

/-- R150, R364, R366, R384 and R385: a host write of one register of its page changes the bits that `RegisterTables` makes writable, and starts the command that belongs to it: RING, a migration request, an attestation, and in STATE 2, outside which it is ignored, RGO. RING ORs its bits into DBPEND and raises INTPEND.HOST on the die's control harts. A launch of a rung slot writes its status and clears its bit of DBPEND next: 4, at a physical address, without a cluster of the partition, 5 for a malformed record, and one valid entry goes to the first cluster of the partition. That the control harts take a rung slot by the event LAUNCH is the model's reading (log entry 50). -/
def Says.HostCommands : Prop :=
  ∀ (s : State) (die : BitVec 2) (bits : BitVec 16) (slot : BitVec 4) (o : Nat) (v : W64),
    let d := die.toNat
    let page := hostPage d
    let pend := page + 0x1008
    let ignored := d = 0 ∧ o = 0x2018 ∧ bitsN (s.getReg (page + 0x2000)) 63 60 ≠ 2
    let put := exec (.hostWrite (0xC000000000 + d * 0x10000 + o) (leBytes 8 v.toNat)) s
    (ignored → put = .next s) ∧
    (o % 8 = 0 → o < 0x10000 → ¬ ignored →
      ∃ t, put = .next t ∧ SameMemory s t ∧ t.hart = s.hart ∧
        (∀ b, b < 64 → (t.getReg (page + o)).getLsbD b = if rowBit (hostRows d) (·.rw) o b then v.getLsbD b else (s.getReg (page + o)).getLsbD b) ∧
        (∀ pa, pa / 8 ≠ (page + o) / 8 → t.getReg pa = s.getReg pa) ∧
        (o = 0x1000 → t.agenda = s.agenda ++ [.hostRing die (v.setWidth 16)]) ∧ (o = 0x1010 → t.agenda = s.agenda ++ [.hostMigreq die v]) ∧
        (d = 0 → o = 0x2018 → v.getLsbD 0 = true → t.agenda = s.agenda ++ [.recoveryGo]) ∧
        (d = 0 → o = 0x2060 → v.getLsbD 0 = true → t.agenda = s.agenda ++ [.attestationRequest]) ∧
        (o ≠ 0x1000 → o ≠ 0x1010 → o ≠ 0x2018 → o ≠ 0x2060 → t.agenda = s.agenda)) ∧
    (Ends (.hostRing die bits) s fun t => SameMemory s t ∧ t.getReg pend = s.getReg pend ||| bits.setWidth 64 ∧
      (∀ k, k < 4 → let id := ctlHart d k
        (t.getHart id).reg .intpend = (s.getHart id).reg .intpend ||| 0x10 ∧ (t.getHart id).aStall = none ∧ (t.getHart id).pc = (s.getHart id).pc) ∧
      (∀ id, (∀ k, k < 4 → id ≠ ctlHart d k) → t.getHart id = s.getHart id)) ∧
    (Ends (.dbpendClear die bits) s fun t => t.hart = s.hart ∧ t.others = s.others ∧ SameMemory s t ∧
      t.getReg pend = s.getReg pend &&& ~~~(bits.setWidth 64)) ∧
    ((s.getReg pend).getLsbD slot.toNat = false → exec (.launch die slot) s = .next s) ∧
    ((s.getReg pend).getLsbD slot.toNat = true →
      let w : Vector W64 4 := ⟨#[s.getReg (page + 32 * slot.toNat), s.getReg (page + 32 * slot.toNat + 8), s.getReg (page + 32 * slot.toNat + 16),
        s.getReg (page + 32 * slot.toNat + 24)], rfl⟩
      let part := bitsN w[2] 15 10
      let u := s.launchSeen d part w
      let r := u.launchRun d part w
      let own := if part < 48 then s.clustersOf part [d] else []
      let ptr := (w[3] &&& ~~~7).toNat
      (Ends (.launch die slot) s fun t => t.hart = s.hart ∧ t.others = s.others ∧ t.agenda.head? = some (.dbpendClear die (1 <<< slot.toNat)) ∧
        ((∀ a, r.2.dumpHolds part a = none) → t.clus = r.2.clus) ∧
        (own = [] → populated ptr = true → isRegSpace ptr = false → (∀ k, kget false s.bad k = false) → t.rdN ptr 8 = 4)) ∧
      (own = [] → r = (4, s)) ∧
      (own ≠ [] → bitsN w[2] 9 0 = 0 ∨ bitsN w[0] 5 0 ≠ 0 ∨ bitsN w[1] 5 0 ≠ 0 ∨ bitsN w[2] 63 16 ≠ 0 ∨ bitsN w[3] 2 0 ≠ 0 → r = (5, s)) ∧
      ∀ cl l, own = cl :: l → bitsN w[2] 9 0 = 1 → bitsN w[0] 5 0 = 0 → bitsN w[1] 5 0 = 0 → bitsN w[2] 63 16 = 0 → bitsN w[3] 2 0 = 0 →
        ∀ root img eff k, u.region part w[0] = .ok (some root) → u.superLine part w[1] = .ok img → u.checkImage part img = .ok eff →
          1 ≤ root.clusters → (u.cluster cl).basin.length < 512 → (u.cluster cl).freeIdx = some k →
          r.1 = 0 ∧ ∃ e : Entry, (r.2.cluster cl).entry k = some e ∧ e.image = img ∧ e.part = part ∧ e.eff = eff)

/-- The writable, write-one-to-clear and read-clear bits of every register of register space and of the host pages are those of the spec's tables, `dieRows` and `hostRows`, and no other bit; a debug register reads HALTED when HALTREQ is set and every hart of its core is stopped, and INBOX from the buffer (R377). That INBOX reads 63 for a full buffer of 64 is the model's choice (log entry 20). -/
def Says.RegisterTables : Prop :=
  ∀ (s : State) (d o b core : Nat), d < 4 → o % 8 = 0 → b < 64 →
    (o < 0x40000000 → let r := regSpec (regBase d + o)
      r.rw.getLsbD b = rowBit (dieRows d) (·.rw) o b ∧ r.w1c.getLsbD b = rowBit (dieRows d) (·.w1c) o b ∧ r.rc.getLsbD b = rowBit (dieRows d) (·.rc) o b) ∧
    (o < 0x10000 → let r := regSpec (hostPage d + o)
      r.rw.getLsbD b = rowBit (hostRows d) (·.rw) o b ∧ r.w1c = 0 ∧ r.rc = 0) ∧
    (core < 16384 →
      let v := s.regValue (dbgBase core)
      let h := s.getReg (dbgBase core)
      let still (n : Nat) : Prop := let x := s.getHart (hartOf core n)
        x.run ≠ .running ∨ (x.seq = [] ∧ x.enter = [] ∧ x.flight = [] ∧ x.fr = none)
      (v.getLsbD 62 = true ↔ h.getLsbD 63 = true ∧ ∀ n, n < 4 → still n) ∧ bitsN v 9 4 = min 63 (s.core core).inbox.length ∧
      (b ≠ 62 → ¬ (4 ≤ b ∧ b ≤ 9) → v.getLsbD b = h.getLsbD b))

/-- R5, R200, R209, R367, R374, R375 and R386: a store to register space changes, in the bytes that it covers, the writable bits and the write-one-to-clear bits that it writes one, and no other bit of the register, but for a field that R386 keeps when its value is out of range; a register of GPART keeps its value while its group is in use. A load of a read-clear field clears all of the field that its bytes touch. An ownership tag is stored, unless its controller is dedicated to another partition. -/
def Says.Registers : Prop :=
  ∀ (s : State) (pa n : Nat) (v : W64) (die : BitVec 2) (g : BitVec 5) (c m : BitVec 4) (frame : Nat) (tag : BitVec 6),
    let d := die.toNat
    let old := s.getReg pa
    let o := regOff pa / 8 * 8
    let lane (b : Nat) : Bool := decide (8 * (pa % 8) ≤ b) && decide (b < 8 * (pa % 8 + n))
    let spec := regSpec pa
    (pa % 8 + n ≤ 8 → 0x4000000000000 ≤ pa → pa < 0x4000100000000 → ∃ x : W64,
      (∀ b, b < 64 → x.getLsbD b =
        if spec.rw.getLsbD b && lane b then v.getLsbD (b - 8 * (pa % 8))
        else if spec.w1c.getLsbD b && lane b && v.getLsbD (b - 8 * (pa % 8)) then false else old.getLsbD b) ∧
      let new := keepOld pa old x
      let refused := (0x6000000 ≤ o ∧ o < 0x6000100 ∧ new ≠ old ∧ s.groupIdle (regDie pa) ((o - 0x6000000) / 8) = false) ∨
        (o = 0x2000000 ∧ (s.getReg (pa / 8 * 8 + 16)).getLsbD 63 = true)
      (refused → exec (.registerWrite pa n v) s = .next s) ∧
      (¬ refused → Ends (.registerWrite pa n v) s fun t => SameMemory s t ∧ t.hart = s.hart ∧ t.others = s.others ∧ t.getReg pa = new)) ∧
    (pa % 8 + n ≤ 8 → Ends (.readClear pa n) s fun t => SameMemory s t ∧ t.hart = s.hart ∧ (∀ k, k / 8 ≠ pa / 8 → t.getReg k = s.getReg k) ∧
      ∀ b, b < 64 → (t.getReg pa).getLsbD b = (old.getLsbD b && !(spec.rc.getLsbD b &&
        (List.range 64).any fun j => spec.rc.getLsbD j && lane j && (decide (pa < 2 ^ 52 ∧ o = 0x7000018) == false || j / 32 == b / 32)))) ∧
    (let r := regBase d + 0x6000000 + 8 * g.toNat
      let idle := s.groupIdle d g.toNat = true
      (¬ idle → bitsN v 5 0 ≠ bitsN (s.getReg r) 5 0 → exec (.gpartWrite die g v) s = .next s) ∧
      (idle → Ends (.gpartWrite die g v) s fun t => SameMemory s t ∧ t.hart = s.hart ∧ ∀ k, k < 16 → t.gpart (512 * d + 16 * g.toNat + k) = bitsN v 5 0)) ∧
    (12 ≤ c.toNat → exec (.hotnessControlWrite die c v) s = .next s) ∧
    (c.toNat < 12 → Ends (.hotnessControlWrite die c v) s fun t => SameMemory s t ∧ t.hart = s.hart ∧
      let r := hotReg d c.toNat
      (t.getReg r).getLsbD 63 = v.getLsbD 63 ∧
      bitsN (t.getReg r) 4 0 = (if 16 ≤ bitsN v 4 0 ∧ bitsN v 4 0 ≤ 26 then bitsN v 4 0 else bitsN (s.getReg r) 4 0) ∧
      ((s.getReg r).getLsbD 63 ≠ v.getLsbD 63 → kget ⟨[], [], 0⟩ (t.die d).hot c.toNat = if v.getLsbD 63 then ⟨[], [], s.clk⟩ else ⟨[], [], 0⟩)) ∧
    (Ends (.gridControlWrite die v) s fun t => SameMemory s t ∧ t.hart = s.hart ∧
      (t.getReg (obsBase d)).getLsbD 63 = v.getLsbD 63 ∧
      bitsN (t.getReg (obsBase d)) 4 0 = (if 10 ≤ bitsN v 4 0 ∧ bitsN v 4 0 ≤ 24 then bitsN v 4 0 else bitsN (s.getReg (obsBase d)) 4 0) ∧
      ((s.getReg (obsBase d)).getLsbD 63 = false → v.getLsbD 63 = true → (t.die d).gridSince = s.clk)) ∧
    (Ends (.monitorControlWrite die m v) s fun t => SameMemory s t ∧ t.hart = s.hart ∧
      let r := monBase d m.toNat
      (t.getReg r).getLsbD 63 = v.getLsbD 63 ∧
      ((s.getReg r).getLsbD 63 = false → v.getLsbD 63 = true →
        t.getReg (r + 8) = BitVec.ofNat 64 (0xFFFFFFFF * 2 ^ 32) ∧ ∀ k, k < 9 → t.getReg (r + 0x10 + 8 * k) = 0)) ∧
    let at_ := frame * 65536
    let ded := bitsN (s.getReg (regBase (homeDie at_) + 0x6000100 + 8 * s.homeCtl at_)) 6 0
    (0xC000000000 ≤ at_ ∨ (ded < 48 ∧ tag.toNat < 48 ∧ tag.toNat ≠ ded) → exec (.ownershipTagWrite frame tag) s = .next s) ∧
    (at_ < 0xC000000000 → ¬ (ded < 48 ∧ tag.toNat < 48 ∧ tag.toNat ≠ ded) → Ends (.ownershipTagWrite frame tag) s fun t =>
      t = { s with tags := t.tags } ∧ ∀ k, t.tag k = if k / 65536 = frame then tag.toNat else s.tag k)

/-- R208, R209 and R374 to R376: at the end of an interval a controller that counts writes its 512-byte hot list, counts in HOTSEQ and starts an empty sketch; an enabled grid writes its 64 KiB, zero at a port that leads nowhere and for XCH at one that leads to a bridge, and counts in its SEQ; a hot list or a grid is discarded where the one before is still being written; an enabled monitor counts a sample in COUNT, in MIN and MAX and in its bin. An enabled trigger with no snapshot held latches its die at once, with the clocks, counts and free harts of its clusters, and reaches the others 40 clk later; while one is held a trigger counts in SNAPMISS, wherever it comes from. The model's choices: a count that its field cannot hold shows as the field's largest value and a clock modulo 2^16 (log entry 49), and whether a record is still being written is a free value (log entry 20). -/
def Says.Observability : Prop :=
  ∀ (s : State) (die src : BitVec 2) (c m : BitVec 4) (v : W32),
    let d := die.toNat
    let ctl := obsBase d + 0x2000
    let plain (pa : Nat) : Prop := pa < 0xC000000000 ∧ ∀ k, kget false s.bad k = false
    (let r := hotReg d c.toNat
      let at_ := bitsN (s.getReg (r + 8)) 51 9 * 512
      (12 ≤ c.toNat ∨ (s.getReg r).getLsbD 63 = false → exec (.hotnessIntervalEnd die c) s = .next s) ∧
      let late := s.getReg (r + 16) ≠ 0 ∧ Config.hotWriting s.fv = true
      (c.toNat < 12 → (s.getReg r).getLsbD 63 = true → late → Ends (.hotnessIntervalEnd die c) s fun t => t.hart = s.hart ∧
        SameMemory s t ∧ t.regs = s.regs ∧ kget ⟨[], [], 0⟩ (t.die d).hot c.toNat = ⟨[], [], s.clk⟩) ∧
      (c.toNat < 12 → (s.getReg r).getLsbD 63 = true → ¬ late → Ends (.hotnessIntervalEnd die c) s fun t => t.hart = s.hart ∧
        t.getReg (r + 16) = s.getReg (r + 16) + 1 ∧ kget ⟨[], [], 0⟩ (t.die d).hot c.toNat = ⟨[], [], s.clk⟩ ∧ (SameMemoryBut s t at_ 512 ∨ 512 < (hotRecord (kget ⟨[], [], 0⟩ (s.die d).hot c.toNat).list).length) ∧
        (plain at_ → (hotRecord (kget ⟨[], [], 0⟩ (s.die d).hot c.toNat).list).length = 512 →
          t.rdBytes at_ 512 = hotRecord (kget ⟨[], [], 0⟩ (s.die d).hot c.toNat).list))) ∧
    ((s.getReg (obsBase d)).getLsbD 63 = false → exec (.gridIntervalEnd die) s = .next s) ∧
    (let busy := s.getReg (obsBase d + 16) ≠ 0 ∧ Config.gridWriting s.fv = true
     ((s.getReg (obsBase d)).getLsbD 63 = true → busy → Ends (.gridIntervalEnd die) s fun t =>
      t.hart = s.hart ∧ SameMemory s t ∧ t.regs = s.regs ∧ (t.die d).gridSince = s.clk) ∧
     ((s.getReg (obsBase d)).getLsbD 63 = true → ¬ busy → Ends (.gridIntervalEnd die) s fun t =>
      let at_ := bitsN (s.getReg (obsBase d + 8)) 51 16 * 65536
      t.hart = s.hart ∧ SameMemoryBut s t at_ 65536 ∧ t.getReg (obsBase d + 16) = s.getReg (obsBase d + 16) + 1 ∧ (t.die d).gridSince = s.clk ∧
        (plain at_ → ∀ cl dir j, cl < 512 → dir < 4 → j < 32 → (portLeads d cl dir = false ∨ (portBridge d cl dir = true ∧ j / 8 = 2)) → t.rdB (at_ + 128 * cl + 32 * dir + j) = 0))) ∧
    (let r := monBase d m.toNat
      let base := bitsN (s.getReg r) 31 0
      let bin := if v.toNat < base then 0 else min 15 ((v.toNat - base) / 2 ^ bitsN (s.getReg r) 43 40)
      ((s.getReg r).getLsbD 63 = false → exec (.monitorSample die m v) s = .next s) ∧
      ((s.getReg r).getLsbD 63 = true → Ends (.monitorSample die m v) s fun t => SameMemory s t ∧ t.hart = s.hart ∧
        bitsN (t.getReg (r + 8)) 63 32 = min (bitsN (s.getReg (r + 8)) 63 32) v.toNat ∧ bitsN (t.getReg (r + 8)) 31 0 = max (bitsN (s.getReg (r + 8)) 31 0) v.toNat ∧
        bitsN (t.getReg (r + 0x50)) 31 0 = min (2 ^ 32 - 1) (bitsN (s.getReg (r + 0x50)) 31 0 + 1) ∧
        ∀ k, k < 16 → let f (x : State) : Nat := bitsN (x.getReg (r + 0x10 + k / 2 * 8)) (32 * (k % 2) + 31) (32 * (k % 2))
          f t = if k = bin then min (2 ^ 32 - 1) (f s + 1) else f s)) ∧
    ((s.getReg ctl).getLsbD src.toNat = false → exec (.snaptrig die src) s = .next s) ∧
    ((s.getReg ctl).getLsbD src.toNat = true → (s.getReg ctl).getLsbD 63 = true → Ends (.snaptrig die src) s fun t => SameMemory s t ∧
      t.dies = s.dies ∧ (t.getReg (ctl + 0x10)).toNat = min (2 ^ 64 - 1) ((s.getReg (ctl + 0x10)).toNat + 1)) ∧
    ((s.getReg ctl).getLsbD src.toNat = true → (s.getReg ctl).getLsbD 63 = false → Ends (.snaptrig die src) s fun t => SameMemory s t ∧ t.hart = s.hart ∧
      (t.getReg ctl).getLsbD 63 = true ∧ t.getReg (ctl + 0x18) = s.clk ∧
      (∀ k, k < 512 → let w (n : Nat) := t.getReg (obsBase d + 0x10000 + 32 * k + 8 * n)
        let x := s.cluster (512 * d + k)
        bitsN (w 0) 63 48 = x.clock % 2 ^ 16 ∧ bitsN (w 0) 40 32 = min 511 x.readyCount ∧
        ∀ i, i < 8 → let y := 8 * (512 * d + k) + i
          bitsN (w 0) (4 * i + 3) (4 * i) = min 15 (s.core y).fifo.length ∧ bitsN (w 1) (7 * i + 6) (7 * i) = min 127 (s.core y).infl ∧
          ((w 2).getLsbD (32 + i) = true ↔ ∃ o ∈ x.ops, ∃ m ∈ o.members, m.core = y) ∧
          bitsN (w 3) (2 * i + 1) (2 * i) = min 3 ((List.range 4).filter fun n => (s.getHart (hartOf y n)).run == .parked).length) ∧
      (∀ k, k < 12 → t.getReg (obsBase d + 0x20000 + 32 * k + 8) = s.getReg (hotReg d k + 16)) ∧
      ∀ k, k < 4 → (t.die k).snapAt = if k = d then (s.die k).snapAt else (s.die k).snapAt ++ [s.clk + 40]) ∧
    (∀ p l, (s.die d).snapAt = p :: l →
      (s.clk < p → exec (.snapshotRemoteLatch die) s = .next s) ∧
      (p ≤ s.clk → Ends (.snapshotRemoteLatch die) s fun t => SameMemory s t ∧ t.hart = s.hart ∧ (t.die d).snapAt = l ∧ (t.getReg ctl).getLsbD 63 = true ∧
        ((s.getReg ctl).getLsbD 63 = false → t.getReg (ctl + 0x18) = p) ∧
        ((s.getReg ctl).getLsbD 63 = true → (t.getReg (ctl + 0x10)).toNat = min (2 ^ 64 - 1) ((s.getReg (ctl + 0x10)).toNat + 1)))) ∧
    ((s.die d).snapAt = [] → exec (.snapshotRemoteLatch die) s = .next s) ∧
    Ends (.snapshotValidClear die) s fun t => SameMemory s t ∧ t.hart = s.hart ∧ (t.getReg ctl).getLsbD 63 = false ∧
      ∀ b, b < 63 → (t.getReg ctl).getLsbD b = (s.getReg ctl).getLsbD b

/-- R342, R377 and R378: HALTREQ halts a core: each of its running harts, but one released from a barrier, is cut, so that nothing of it is in flight; clearing it has the inbound buffer performed in its order before anything else; a STEP of a halted core lets each running hart of SMASK issue the one frame that it is at: of a halted core a hart may act only where a STEP names it and that frame, or a word of it, is still to issue, and one that may not act does nothing at its turn. Where the harts of a halted core are cut, and what a STEP may still issue, are the model's choices (log entries 34 and 47). -/
def Says.DebugHalt : Prop :=
  ∀ (s : State) (core : Nat), core < 16384 →
    let r := dbgBase core
    let member (id : Nat) : Prop := id / 4 = core
    (Ends (.haltreqSet core) s fun t => SameMemory s t ∧ t.coreHalted core = true ∧ (∀ id, ¬ member id → t.getHart id = s.getHart id) ∧
      ∀ id, member id → let h := s.getHart id
        (h.run ≠ .running ∨ (∃ p, h.wait = .bar (some p)) → t.getHart id = h) ∧
        (h.run = .running → (∀ p, h.wait ≠ .bar (some p)) → let k := t.getHart id
          k.run = .running ∧ k.flight = [] ∧ k.seq = [] ∧ k.enter = [] ∧ k.fr = none ∧ k.wait = .none ∧ k.v = h.v ∧ k.k = h.k ∧
          (h.seq = [] → h.enter = [] → h.flight = [] → k.pc = h.pc ∧ k.g = h.g ∧ k.loops = h.loops ∧ k.redo = h.redo))) ∧
    (Ends (.haltreqClear core) s fun t => SameMemory s t ∧ t.coreHalted core = false ∧ (t.core core).inbox = [] ∧ (t.core core).steps = [] ∧
      t.agenda = (s.core core).inbox.map .remoteRequestArrival ++ s.agenda ∧ t.hart.pc = s.hart.pc ∧ t.hart.g = s.hart.g) ∧
    ((s.regValue r).getLsbD 62 = false → exec (.debugStep core) s = .next s) ∧
    ((s.regValue r).getLsbD 62 = true → Ends (.debugStep core) s fun t => SameMemory s t ∧
      (∀ n k, (n, k) ∈ (t.core core).steps ↔ n < 4 ∧ (s.regValue r).getLsbD n = true ∧ (s.getHart (4 * core + n)).run = .running ∧ k = (s.getHart (4 * core + n)).fno) ∧
      ∀ id, (t.getHart id).pc = (s.getHart id).pc ∧ (t.getHart id).g = (s.getHart id).g ∧ (member id → (t.getHart id).aStall = none)) ∧
    (∀ id, isControl id = false → s.coreHalted (coreOf id) = true →
      let h := s.getHart id
      s.mayIssue id = true ↔ (∀ p, h.pre = some p → p.st ≠ .cut) ∧
        ∃ k, (id % 4, k) ∈ (s.core (coreOf id)).steps ∧ (h.fno ≤ k ∨ h.seq ≠ [] ∨ h.enter ≠ [])) ∧
    (s.mayIssue s.hid = false → s.turn = none)

/-- R218 and R380: DUMP notes its range, image and counter with the writable units of the range, clears W in their leaves and drops the partition's cached translations, unless a dump runs or the range is empty. The next unit is one that a held write wants, else the first not yet copied; it goes to its place in the image, and with the last protected unit of a leaf W is set again, its cached translations go and its held writes want nothing more; when none is left the counter takes the units, and the dump is over; ABORT sets W again for what is still protected and ends the dump with ERR bit 56. The order of the units, the copy of a unit as one step and the end of an aborted dump are the model's choices (log entry 48). -/
def Says.Dumps : Prop :=
  ∀ (s : State) (die : BitVec 2),
    let d := die.toNat
    let b := obsBase d + 0x3000
    let units := bitsN (s.getReg (b + 16)) 39 16
    ((s.die d).dump ≠ none ∨ units = 0 → exec (.dumpStart die) s = .next s) ∧
    ((s.die d).dump = none → units ≠ 0 → Ends (.dumpStart die) s fun t => t.hart = s.hart ∧ t.others = s.others ∧ t.regs = s.regs ∧
      ∃ p : Dump, (t.die d).dump = some p ∧
        let apart (u j : Nat) : Prop := ∀ a l, s.leafAt p.part (unitVa u) = some (a, l) → j < a ∨ a + 8 ≤ j
        p.part = bitsN (s.getReg b) 5 0 ∧ p.va = bitsN (s.getReg (b + 8)) 55 16 ∧ p.units = units ∧
        p.dst = bitsN (s.getReg (b + 24)) 51 16 * 65536 ∧ p.ctr = bitsN (s.getReg (b + 32)) 51 3 * 8 ∧ p.next = 0 ∧ p.err = false ∧
        (∀ u, u ∈ p.prot ↔ p.va ≤ u ∧ u < p.va + units ∧ ∃ a l, s.leafAt p.part (unitVa u) = some (a, l) ∧ (BitVec.ofNat 64 (s.rdN a 8)).getLsbD 1 = true) ∧
        (∀ u ∈ p.prot, ∀ a l, s.leafAt p.part (unitVa u) = some (a, l) → s.rdN a 8 = t.rdN a 8 + 2) ∧
        (∀ j, (∀ u ∈ p.prot, apart u j) → t.rdB j = s.rdB j) ∧
        (∀ c, ∀ e ∈ (t.core c).tlb, e.part ≠ p.part) ∧ ∀ c, ∀ e ∈ (t.cluster c).ni, e.part ≠ p.part) ∧
    ((s.die d).dump = none → exec (.dumpUnitCopy die) s = .next s ∧ exec (.dumpAbort die) s = .next s) ∧
    ∀ p, (s.die d).dump = some p →
      let image (u : Nat) : Nat := p.dst + 65536 * (u - p.va)
      let w (x : State) (a : Nat) (b : Nat) : Bool := (BitVec.ofNat 64 (x.rdN a 8)).getLsbD b
      let apart (u j : Nat) : Prop := ∀ a l, s.leafAt p.part (unitVa u) = some (a, l) → j < a ∨ a + 8 ≤ j
      let wanted (v u : Nat) : Prop := u ∈ p.prot ∧ s.sameLeaf p.part (unitVa u) (unitVa v) = true
      (∀ v l, p.want = v :: l → (∃ u, wanted v u) → ∃ u, s.dumpNext p = some u ∧ wanted v u) ∧
      ((∀ v ∈ p.want, ∀ u, ¬ wanted v u) → ∀ u, s.dumpNext p = some u ↔
        p.va + p.next ≤ u ∧ u < p.va + p.units ∧ u ∉ p.done ∧ ∀ v, p.va + p.next ≤ v → v < u → v ∈ p.done) ∧
      (∀ u, s.dumpNext p = some u → Ends (.dumpUnitCopy die) s fun t => ∃ q : Dump, (t.die d).dump = some q ∧ u ∈ q.done ∧ q.prot = p.prot.filter (· != u) ∧
        q.part = p.part ∧ q.va = p.va ∧ q.units = p.units ∧ q.dst = p.dst ∧ q.ctr = p.ctr ∧
        let last := u ∈ p.prot ∧ ∀ x ∈ p.prot, x ≠ u → s.sameLeaf p.part (unitVa x) (unitVa u) = false
        (∀ bs, s.unitBytes p.part u = some bs → image u + 65536 ≤ 0xC000000000 → s.badIn (image u) 65536 = false →
          (¬ last → t.rdBytes (image u) 65536 = bs ∧ SameMemoryBut s t (image u) 65536) ∧
          (last → (∀ a ∈ s.walkPath p.part (unitVa u), a + 8 ≤ image u ∨ image u + 65536 ≤ a) → ∀ a l, s.leafAt p.part (unitVa u) = some (a, l) →
            t.rdBytes (image u) 65536 = bs ∧ w t a 1 = true ∧ (∀ b, b < 64 → b ≠ 1 → w t a b = w s a b) ∧
            ∀ j, (j < image u ∨ image u + 65536 ≤ j) → (j < a ∨ a + 8 ≤ j) → t.rdB j = s.rdB j)) ∧
        (last → (∀ c, ∀ e ∈ (t.core c).tlb, ¬ (e.part = p.part ∧ e.hits p.part (unitVa u) = true)) ∧
          ∀ v, v ∈ q.want ↔ v ∈ p.want ∧ s.sameLeaf p.part (unitVa v) (unitVa u) = false) ∧
        (¬ last → q.want = p.want)) ∧
      (s.dumpNext p = none → Ends (.dumpUnitCopy die) s fun t => (t.die d).dump = none ∧
        (p.ctr + 8 ≤ 0xC000000000 → s.badIn p.ctr 8 = false → SameMemoryBut s t p.ctr 8 ∧
          t.rdN p.ctr 8 = (counterAdd (BitVec.ofNat 64 (s.rdN p.ctr 8)) p.units (if p.err then 2 else 0)).toNat)) ∧
      (Ends (.dumpAbort die) s fun t => (t.die d).dump = none ∧
        (∀ u ∈ p.prot, ∀ a l, s.leafAt p.part (unitVa u) = some (a, l) → (a + 8 ≤ p.ctr ∨ p.ctr + 8 ≤ a) → w t a 1 = true) ∧
        (∀ j, (j < p.ctr ∨ p.ctr + 8 ≤ j) → (∀ u ∈ p.prot, apart u j) → t.rdB j = s.rdB j) ∧
        (p.prot = [] → p.ctr + 8 ≤ 0xC000000000 → s.badIn p.ctr 8 = false → SameMemoryBut s t p.ctr 8 ∧
          t.rdN p.ctr 8 = (counterAdd (BitVec.ofNat 64 (s.rdN p.ctr 8)) p.units 1).toNat))

/-- R1, R26, R149 and R381 to R385: device reset gives every register and unit its reset value and keeps memory, flash and fuses; the next wave of 8 clusters a die powers up; a powered array enables its next slice, and one that has been idle for 2^20 clk none. A power average at the limit slows the die's clusters that run tasks, or else all, in inverse proportion to ENERGY (by a free amount) and none below 1,600 MHz, and speeds none up; under the limit every cluster runs at its balanced clock; one in an exchange phase keeps its clock. RGO works in STATE 2: an image that cannot be read is REASON 6, else it is read into device memory (STATE 3) and verified: a rejected one has its reason, an accepted one is written to flash and booted on the control harts. An attestation returns the digest and the signature. The model's choices: device reset keeps memory and the words that ECC cannot correct (log entry 6), a wave and a slice are each one step (log entry 51), and the power average with its free reduction (log entries 8 and 14). -/
def Says.PowerAndBoot : Prop :=
  ∀ (s : State) (cl : Nat) (die : BitVec 2) (w : BitVec 16),
    let d := die.toNat
    let st (t : State) : Nat := bitsN (t.getReg (hostPage 0 + 0x2000)) 63 60
    let reason (t : State) : Nat := bitsN (t.getReg (hostPage 0 + 0x2000)) 7 0
    let c := s.cluster cl
    (Ends .deviceReset s fun t => t.mem = s.mem ∧ t.full = s.full ∧ t.bad = s.bad ∧ t.dev.flash = s.dev.flash ∧ t.dev.fuse = s.dev.fuse ∧
      t.hid = State.reset.hid ∧ t.hart = State.reset.hart ∧ t.others = [] ∧ t.cores = [] ∧ t.clus = [] ∧ t.dies = [] ∧ t.regs = [] ∧ t.parts = [] ∧ t.tags = [] ∧
      t.clk = 0 ∧ t.agenda = [] ∧ t.dev = { Device.reset with flash := s.dev.flash, fuse := s.dev.fuse }) ∧
    (64 ≤ s.dev.waves → exec .clusterWavePowerUp s = .next s) ∧
    (s.dev.waves < 64 → Ends .clusterWavePowerUp s fun t => t.hart = s.hart ∧ SameMemory s t ∧ t.dev.waves = s.dev.waves + 1 ∧
      ∀ k, t.cluster k = if k < 2048 ∧ k % 512 / 8 = s.dev.waves then { s.cluster k with powered := true } else s.cluster k) ∧
    (Ends (.matrixSliceEnable cl) s fun t => t.hart = s.hart ∧ SameMemory s t ∧ (∀ k, k ≠ cl → t.cluster k = s.cluster k) ∧
      t.cluster cl = { c with slices := if c.powered = true ∧ c.slices < 8 then c.slices + 1 else c.slices }) ∧
    (Ends (.matrixArrayIdle cl) s fun t => t.hart = s.hart ∧ SameMemory s t ∧ (∀ k, k ≠ cl → t.cluster k = s.cluster k) ∧
      t.cluster cl = { c with slices := if c.ops = [] ∧ 2 ^ 20 ≤ (s.clk - c.mxBusy).toNat then 0 else c.slices }) ∧
    (Ends (.powerAverageUpdate die w) s fun t => t.hart = s.hart ∧ SameMemory s t ∧
      let r := obsBase d + 0x4000
      let lim := bitsN (s.getReg r) 15 0
      let slows (k : Nat) : Prop := k / 512 = d ∧ (s.cluster k).powered = true ∧ s.inPhase k = false ∧ 1600 < (s.cluster k).clock
      let runs (k : Nat) : Prop := (s.energyOf k).isSome = true
      t.getReg (r + 8) = w.setWidth 64 ∧
      (∀ k, (t.cluster k).mhz = (s.cluster k).mhz ∧ (k / 512 ≠ d ∨ s.inPhase k = true → t.cluster k = s.cluster k)) ∧
      (lim ≤ w.toNat → ∃ f, ∀ k, d * 512 ≤ k → k < d * 512 + 512 →
        let slowed := slows k ∧ (runs k ∨ ∀ j, slows j → ¬ runs j)
        (slowed → (t.cluster k).cut =
          min ((s.cluster k).mhz - 1600) ((s.cluster k).cut + max 1 (128 * (1 + f) / max 1 ((s.energyOf k).getD 128)))) ∧
        (¬ slowed → (t.cluster k).cut = (s.cluster k).cut)) ∧
      (w.toNat < lim → ∀ k, k / 512 = d → s.inPhase k = false → (t.cluster k).cut = 0) ∧
      (∀ x, t.core x = { s.core x with retired := (t.core x).retired } ∧ ∀ u ∈ (t.core x).retired, u ∈ (s.core x).retired) ∧
      ∀ x u, u ∈ (s.core x).retired → kget UnitUse.free (s.core x).units u ≠ .free → u ∈ (t.core x).retired) ∧
    (st s ≠ 2 → st s ≠ 3 → exec .recoveryGo s = .next s) ∧
    (let src := bitsN (s.getReg (hostPage 0 + 0x2008)) 50 0
      let n := bitsN (s.getReg (hostPage 0 + 0x2010)) 31 0
      let key := 0x8000000000000 + src
      (st s = 2 → 2 ^ 51 < src + n ∨ s.badIn key n = true → Ends .recoveryGo s fun t => st t = 2 ∧ reason t = 6 ∧ SameMemory s t ∧ t.dev.flash = s.dev.flash) ∧
      (st s = 2 → src + n ≤ 2 ^ 51 → s.badIn key n = false → Ends .recoveryGo s fun t => st t = 3 ∧ t.dev.staged = n ∧ t.dev.flash = s.dev.flash ∧
        t.agenda = .recoveryGo :: s.agenda ∧ stageKey n + n ≤ 0xC000000000 ∧ SameMemoryBut s t (stageKey n) n ∧
        ((∀ k, kget false s.bad k = false) → t.rdBytes (stageKey n) n = s.rdBytes key n))) ∧
    (st s = 3 →
      let img := s.rdFree s.freeIx (stageKey s.dev.staged) s.dev.staged
      (s.badIn (stageKey s.dev.staged) s.dev.staged = false → img = s.rdBytes (stageKey s.dev.staged) s.dev.staged) ∧
      (∀ m, romRejects img s.dev.fuse 1 = some m → Ends .recoveryGo s fun t => st t = 2 ∧ reason t = m % 256 ∧ SameMemory s t ∧ t.dev.flash = s.dev.flash) ∧
      (romRejects img s.dev.fuse 1 = none → Config.flashWriteOk s.fv = false → Ends .recoveryGo s fun t => st t = 4 ∧ SameMemory s t ∧ t.dev.flash = s.dev.flash) ∧
      (romRejects img s.dev.fuse 1 = none → Config.flashWriteOk s.fv = true → Ends .recoveryGo s fun t => st t = 1 ∧ t.dev.flash = img ∧
        t.dev.digest = Config.sha256 img ∧ SameMemoryBut s t (fwWord img 16) (fwBody img).length ∧
        (∀ j (h : j < (fwBody img).length), t.rdB (fwWord img 16 + j) = (fwBody img)[j]) ∧
        (∀ e, e < 4 → (t.die e).interleave = (Config.interleave e).toNat) ∧
        ∀ e k, e < 4 → k < 4 → ctlHart e k = bootHart ∨ (s.getHart (ctlHart e k)).run = .held → let h := t.getHart (ctlHart e k)
          h.run = .running ∧ h.priv = 3 ∧ h.pc = BitVec.ofNat 64 ((fwWord img 16 + fwWord img 24) / 8 * 8))) ∧
    (st s ≠ 1 → Ends .attestationRequest s fun t => SameMemory s t ∧ t.hart = s.hart ∧ t.getReg (hostPage 0 + 0x2060) = 1) ∧
    (st s = 1 → Ends .attestationRequest s fun t => SameMemory s t ∧ t.hart = s.hart ∧ t.getReg (hostPage 0 + 0x2060) = 0 ∧
      let sig := (List.range 64).map (Config.ecdsaSign (Config.sha256 s.attested))
      ∀ j, j < 12 → t.getReg (hostPage 0 + 0x2080 + 8 * j) =
        BitVec.ofNat 64 (leNat (((leBytes 32 s.dev.digest ++ sig).drop (8 * j)).take 8)))

/-- R203 and R204: a page walk that reaches a local leaf sets A in it, and D for a write or an atomic, in its eight bytes alone, leaves the entry in the core's TLB, and gives a buffered store that noted the walk the place that the leaf names; one that faults changes no byte, and the store's frame has its trap to take. That A and D are set by a walk step of their own is the model's choice (log entry 11). -/
def Says.PageWalk : Prop :=
  ∀ (s : State) (va : W64) (k : AccKind),
    let w := s.walk { s.me with mode := 3 } va k
    let left := removeFirst (fun (x : WalkReq) => x.va == va && x.kind == k) s.hart.walks
    let noted := s.hart.walks.find? (fun x => x.va == va && x.kind == k)
    ((∀ e lvl a, w ≠ .leaf e lvl a) →
      ∃ t, exec (.pageWalk va k) s = .next t ∧ SameMemory s t ∧ t.cores = s.cores ∧ t.others = s.others ∧ t.clus = s.clus ∧
        ((∀ x, noted = some x → x.back = none) → t.hart = { s.hart with walks := left })) ∧
    (∀ x pc y r l, noted = some x → x.back = some (pc, y) → s.walk s.me va k = .fault r l → (∀ e lvl a, w ≠ .leaf e lvl a) →
      ∃ t, exec (.pageWalk va k) s = .next t ∧ t.hart = ({ s.hart with walks := left } : Hart).storeFault x.fno pc y ⟨6, faultVal false k l r, va⟩) ∧
    ∀ e lvl a, w = .leaf e lvl a → ∃ t, exec (.pageWalk va k) s = .next t ∧
      let e1 := e ||| 0x10 ||| (if k = .write ∨ k = .atomic then 0x20 else 0)
      (pteKind e = 3 → SameMemory s t) ∧ SameMemoryBut s t a 8 ∧ (pteKind e ≠ 3 → BitVec.ofNat 64 (t.rdN a 8) = e1) ∧
      t.others = s.others ∧ t.clus = s.clus ∧ t.regs = s.regs ∧ (∀ c, s.ctl = true ∨ c ≠ coreOf s.hid → t.core c = s.core c) ∧
      ((∀ x, noted = some x → x.back = none) → t.hart = { s.hart with walks := left }) ∧
      (∀ x, noted = some x → x.back ≠ none → s.walk s.me va k = .leaf e lvl a → t.hart = { s.hart with
        walks := left, sbuf := s.hart.sbuf.map fun b => if b.fno = x.fno ∧ b.va = va then { b with loc := leafLoc e lvl va } else b }) ∧
      (s.ctl = false → let l := (t.core (coreOf s.hid)).tlb
        (⟨s.part, va.toNat / 2 ^ pageLog lvl, lvl, e1⟩ : TlbEnt) ∈ l ∧
        ∀ x ∈ l, x ∈ (s.core (coreOf s.hid)).tlb ∨ x = ⟨s.part, va.toNat / 2 ^ pageLog lvl, lvl, e1⟩)

/-- R28, R190 to R197, R200, R203, R206 and R380: the checks of an access, as `Load` and `Store` refer to them. In core space: cause 5 for a malformed address, one beyond the pool, a unit outside the hart's share or another partition's core, cause 7 where no window of the other core admits. In virtual space: a place that is granted carries the permission of its leaf for the kind and mode, and its partition's ownership; a refusal has cause 6 with a reason of 1 to 5 and the address, or cause 8; a write to a page that a dump protects waits. The order of the checks is the model's choice (log entry 29). -/
def Says.AccessChecks : Prop :=
  ∀ (s : State) (rq : Req) (a : W64) (n : Nat) (k : AccKind),
    let r := s.access rq a n k
    let ctl := isControl rq.id
    let writes := k = .write ∨ k = .atomic
    let o := bitsN a 17 0
    let c := if a.getLsbD 32 then coreOf rq.id else bitsN a 31 18
    let pool := Res.ok (.mem (2 ^ 52 + c * 2 ^ 18 + o)) 0
    let shape := bitsN a 62 33 = 0 ∧ (a.getLsbD 32 = true → bitsN a 31 18 = 0 ∧ ctl = false) ∧ o + n ≤ 262144
    let here := ctl = false ∧ c = coreOf rq.id
    let h := s.getHart rq.id
    let hands := h.reg .handlen ≠ 0 ∧ (h.reg .handlen).getLsbD 32 = false ∧ (h.reg .handin).toNat % 262144 ≤ o ∧
      o + n ≤ (h.reg .handin).toNat % 262144 + (h.reg .handlen).toNat % 2 ^ 32
    let units (p : UnitUse → Prop) : Prop := ∀ j, o / 4096 ≤ j → j ≤ (o + n - 1) / 4096 → p (kget UnitUse.free (s.core c).units j)
    let admits (w : W64) : Prop := w.getLsbD 63 = true ∧ 0 < bitsN w 14 8 ∧ bitsN w 5 0 + bitsN w 14 8 ≤ 64 ∧ bitsN w 5 0 * 4096 ≤ o ∧
      o + n ≤ (bitsN w 5 0 + bitsN w 14 8) * 4096 ∧ w.getLsbD (match k with | .write => 58 | .atomic => 57 | _ => 59) = true ∧
      bitsN w 55 54 < 3 ∧ srcClass rq.id c ≤ bitsN w 55 54
    (a.getLsbD 63 = true →
      (¬ shape → r = .trap ⟨5, 0, a⟩) ∧
      (shape → here → (r = pool ∨ r = .trap ⟨5, 0, a⟩) ∧ (rq.mode = 3 → r = pool) ∧
        (rq.engine = false → rq.mode = 0 → 0 < n → r = pool → units (· = .scratch (rq.id % 4)) ∨ hands) ∧
        (rq.engine = false → rq.mode = 1 → 0 < n → (r = pool ↔ units fun u => ∀ x, u ≠ .backing x))) ∧
      (shape → ¬ here → s.gpart (c / 8) ≠ rq.part → r = .trap ⟨5, 0, a⟩) ∧
      (shape → ¬ here → s.gpart (c / 8) = rq.part → s.coreHalted c = true → r = .wait) ∧
      (shape → ¬ here → s.gpart (c / 8) = rq.part → s.coreHalted c = false →
        ((∃ w ∈ (s.core c).win.toList, admits w) → s.unitCut c o = false → r = pool) ∧
        ((∀ w ∈ (s.core c).win.toList, ¬ admits w) ∨ s.unitCut c o = true → r = .trap ⟨7, 0, a⟩))) ∧
    (a.getLsbD 63 = false →
      (bitsN a 62 56 ≠ 0 → r = .trap ⟨6, BitVec.ofNat 64 ((if k = .fetch then 512 else 0) + (if writes then 256 else 0) + 4), a⟩) ∧
      (∀ e, r = .trap e → e.addr = a ∧ (e.cause = 8 ∨ (e.cause = 6 ∧ ∃ l m, 1 ≤ m ∧ m ≤ 5 ∧
        e.val = BitVec.ofNat 64 ((if k = .fetch then 512 else 0) + (if writes then 256 else 0) + 16 * l + m)))) ∧
      (r = .wait → writes ∧ s.dumpHolds rq.part a ≠ none) ∧
      ∀ l e, r = .ok l e →
        (bitsN e 63 62 = 3 → l = .remote (bitsN e 25 16) a) ∧
        (bitsN e 63 62 ≠ 3 → ∃ pa, (l = .mem pa ∨ l = .reg pa) ∧ pa % 65536 = a.toNat % 65536 ∧
          e.getLsbD (match k with | .read => 0 | .fetch => 2 | _ => 1) = true ∧ (rq.mode = 0 → e.getLsbD 3 = true) ∧
          (rq.mode = 1 → k = .fetch → e.getLsbD 3 = false) ∧ (pa < 0xC000000000 → s.tag pa = rq.part) ∧
          (l = .reg pa → ctl = true ∧ rq.mode = 3 ∧ rq.engine = false)))

/-- R365 and R366: the answer to a migration request: 3 outside device memory and for a slot that allows none, 1 while the frame is active, 2 against the residence within HOLD, else 0. -/
def Says.migAnswer (s : State) (frame dir : Nat) : Nat :=
  let b := migSlot (frame * 65536)
  let w := s.getReg b
  if ¬ frame * 65536 < 0xC000000000 ∨ w.getLsbD 60 = false then 3
  else if w.getLsbD 63 = true then 1
  else if dir ≠ bitsN w 61 61 ∧ s.clk < s.getReg (b + 8) then 2
  else 0

/-- R365 and R366: a migration request changes its slot, to pending in its direction, and INTPEND.SOFT of control hart 0 of the home die only where its answer is 0. -/
def Says.migMarks (s t : State) (frame dir : Nat) : Prop :=
  let b := migSlot (frame * 65536)
  let c := ctlHart (homeDie (frame * 65536)) 0
  SameMemory s t ∧
  (Says.migAnswer s frame dir ≠ 0 → t.getReg b = s.getReg b ∧ (t.getHart c).reg .intpend = (s.getHart c).reg .intpend) ∧
  (Says.migAnswer s frame dir = 0 →
    (∀ j, j < 62 → (t.getReg b).getLsbD j = (s.getReg b).getLsbD j) ∧ (t.getReg b).getLsbD 63 = true ∧ (t.getReg b).getLsbD 62 = decide (dir = 1) ∧
    (t.getHart c).reg .intpend = (s.getHart c).reg .intpend ||| 1)

/-- R365 and R366: migration. A device-side request is answered with its code, at once or, where it is recorded or joins one, when the migration completes; MIGREQ waits until then and reads with bit 63 set and the code. A host-side request marks the slot; where a device request was recorded in the same clk, the host's takes its place, and every device request of that clk for the frame is lost and waits for the host's migration. A completion moves the 64 KiB page to its host frame or back, unless it is there already, ends the activity, and holds for 460,800 clk. That the host's request wins a tie of the same clk whichever came first, and that a page outside device memory answers 3, are the model's choices (log entry 60). -/
def Says.Migration : Prop :=
  ∀ (s : State) (v : W64) (d : GReg) (c : BitVec 12) (die : BitVec 2) (frame : Nat),
    let f := bitsN v 51 16
    let code := Says.migAnswer s f 0
    let x := s.csr .migreq
    let mreg := hostPage die.toNat + 0x1010
    let readsMig (i : Instr) : Prop := i = .migreqRead d ∨ (i = .csrr d c ∧ c = 0x143 ∧ csrAccess s.ctl s.hart.priv 0x143 ≠ none)
    (Ends (.migreqWrite v) s fun t => Says.migMarks s t f 0 ∧ t.hart.g = s.hart.g ∧ t.hart.pc = s.hart.pc ∧
      bitsN (t.csr .migreq) 63 62 = (if code ≤ 1 then 1 else 2) ∧ bitsN (t.csr .migreq) 51 16 = f ∧ bitsN (t.csr .migreq) 2 0 = code ∧
      (code = 0 ∨ code = 2 → (f, s.clk, s.hid) ∈ t.dev.migs)) ∧
    (∀ i, readsMig i → (x.getLsbD 62 = true → Ends i s (WaitsA s)) ∧
      (x.getLsbD 62 = false → Ends i s fun t => Writes s t d (BitVec.ofNat 64 (bitsN x 63 63 * 2 ^ 63 + bitsN x 2 0)))) ∧
    (let b := migSlot (f * 65536)
      let w := s.getReg b
      let same (id : Nat) : Prop := (f, s.clk, id) ∈ s.dev.migs
      let tie := w.getLsbD 63 = true ∧ w.getLsbD 62 = false ∧ (∃ id, same id) ∧ ¬ (w.getLsbD 61 = false ∧ s.clk < s.getReg (b + 8))
      (¬ tie → Ends (.hostMigreq die v) s fun t => Says.migMarks (s.setReg mreg v) t f 1) ∧
      (tie → Ends (.hostMigreq die v) s fun t => SameMemory s t ∧ ∀ j, j < 64 → (t.getReg b).getLsbD j = if j = 62 then true else w.getLsbD j) ∧
      Ends (.hostMigreq die v) s fun t => t.getReg mreg = v ∧ ∀ id, let q := (s.getHart id).reg .migreq
        let lost := (tie ∨ Says.migAnswer s f 1 = 0) ∧ same id ∧ bitsN q 51 16 = f
        (lost → (t.getHart id).reg .migreq = BitVec.ofNat 64 (2 ^ 62 + f * 65536 + 1)) ∧ (¬ lost → (t.getHart id).reg .migreq = q)) ∧
    let pa := frame * 65536
    let b := migSlot pa
    let w := s.getReg b
    let host := 0x8000000000000 + bitsN w 50 16 * 65536
    let dir := w.getLsbD 62
    (0xC000000000 ≤ pa ∨ w.getLsbD 63 = false → exec (.migrationComplete frame) s = .next s) ∧
    (pa < 0xC000000000 → w.getLsbD 63 = true → Ends (.migrationComplete frame) s fun t =>
      (dir = w.getLsbD 61 → SameMemory s t) ∧
      (dir = true → w.getLsbD 61 = false → SameMemoryBut s t host 65536 ∧ (s.badIn pa 65536 = false → t.rdBytes host 65536 = s.rdBytes pa 65536)) ∧
      (dir = false → w.getLsbD 61 = true → SameMemoryBut s t pa 65536 ∧ (s.badIn host 65536 = false → t.rdBytes pa 65536 = s.rdBytes host 65536)) ∧
      (∀ j, j < 64 → (t.getReg b).getLsbD j = if j = 63 then false else if j = 61 then dir else w.getLsbD j) ∧
      t.getReg (b + 8) = s.clk + 460800 ∧
      ∀ id, let q := (s.getHart id).reg .migreq
        if q.getLsbD 62 = true ∧ bitsN q 51 16 = frame then
          bitsN ((t.getHart id).reg .migreq) 63 62 = 2 ∧ bitsN ((t.getHart id).reg .migreq) 61 0 = bitsN q 61 0 ∧ (t.getHart id).aStall = none
        else t.getHart id = s.getHart id)

/-- R176: a write of BDDATA to a pending entry leaves it; else the selected word of the die's barrier table takes the value. -/
def Says.BarrierTable : Prop :=
  ∀ (s : State) (v : W64),
    let d := dieOf s.hid
    let k := s.hart.bdKey
    (s.bdPending = true → exec (.bddataWrite v) s = .next s) ∧
    (s.bdPending = false → k < 144 → Ends (.bddataWrite v) s fun t => SameMemory s t ∧ t.hart = s.hart ∧ t.others = s.others ∧
      kget 0 (t.die d).bdt k = (if k < 16 then v &&& 0xC00000000000003F else v) ∧ ∀ j, j ≠ k → kget 0 (t.die d).bdt j = kget 0 (s.die d).bdt j)

/-- R181, R195, R196 and R378: a request that reaches a halted core waits in its buffer of 64. One that the windows admit is performed: a write of bytes here, a packet with its granules full and a count in its mailbox, an access of a hart by the hart itself, next of all. Any other one of a hart is refused: cause 7 with its address; a packet's refusal is noted at the task that sent it, on the hart that runs it or in its saved context. A unit's request is made again by the unit. How buffered requests are taken up is the model's choice (log entry 46). -/
def Says.RemoteRequests : Prop :=
  ∀ (s : State) (r : RemoteReq),
    let key := poolKey r.core r.off
    let n := r.data.length
    let free := s.coreHalted r.core = false
    let own := r.by_ = .none ∨ r.by_ = .access
    let ok := s.admits r.core r.kind r.cls.toNat r.off r.len = true
    let stores (id : Nat) : List Instr := if r.kind = .write ∨ r.kind = .fe then List.replicate ((s.getHart id).sbuf.length + 1) .storePerformed else []
    (s.coreHalted r.core = true → ∃ t, exec (.remoteRequestArrival r) s = .next t ∧ SameMemory s t ∧ t.hart = s.hart ∧ t.others = s.others ∧
      (t.core r.core).inbox = if (s.core r.core).inbox.length < 64 then (s.core r.core).inbox ++ [r] else (s.core r.core).inbox) ∧
    (free → own → ok → r.pkt = none → r.hart = none → r.kind = .write → s.badIn key n = false →
      ∃ t, exec (.remoteRequestArrival r) s = .next t ∧ t.hart = s.hart ∧ t.others = s.others ∧
        (∀ j (h : j < n), t.rdB (key + j) = r.data[j]) ∧ SameMemoryBut s t key n ∧ (r.setFull = true → ∀ j, j < n → t.isFull (key + j) = true)) ∧
    (∀ tag slot ident, free → own → ok → r.pkt = some (tag, slot, ident) → s.badIn key n = false →
      ∃ t, exec (.remoteRequestArrival r) s = .next t ∧ t.hart = s.hart ∧ t.others = s.others ∧
        (∀ j (h : j < n), t.rdB (key + j) = r.data[j]) ∧ SameMemoryBut s t key n ∧ (∀ j, j < n → t.isFull (key + j) = true) ∧
        ∀ m, kget 0 (t.core r.core).mbox m = if m = tag then min 65535 (kget 0 (s.core r.core).mbox m + 1) else kget 0 (s.core r.core).mbox m) ∧
    (∀ id, free → ok → r.pkt = none → r.hart = some id →
      (r.by_ = .none → exec (.remoteRequestArrival r) s = .next (s.setHart id (s.getHart id).wake)) ∧
      (r.by_ = .access → exec (.remoteRequestArrival r) s =
        .next { s with dev := { s.dev with urgent := s.dev.urgent ++ [id] }, agenda := stores id ++ s.agenda })) ∧
    (∀ id, free → r.hart = some id →
      (∀ q, r.by_ = .stream q → exec (.remoteRequestArrival r) s = .next { s.focus id with agenda := .streamGroup q :: stores id ++ (s.focus id).agenda }) ∧
      ∀ i, ((∃ k row, r.by_ = .copy k row ∧ i = .copyLine k row) ∨ (∃ k, r.by_ = .copyEnd k ∧ i = .copyComplete k) ∨
          (∃ k, r.by_ = .mma k ∧ i = .mmaComplete k) ∨ (∃ o, r.by_ = .command o ∧ i = .matrixCommandStart o) ∨
          (∃ k, r.by_ = .drain k ∧ i = .drainComplete k) ∨ ∃ cl, r.by_ = .flint cl ∧ i = .flintJobComplete cl) →
        exec (.remoteRequestArrival r) s = .next { s with agenda := i :: s.agenda }) ∧
    (∀ id, free → own → ¬ ok → r.pkt = none → r.hart = some id → ∃ t, exec (.remoteRequestArrival r) s = .next t ∧
      SameMemory s t ∧ t.getHart id = { s.getHart id with trap := some ⟨7, 0, r.addr⟩ } ∧ (∀ k, k ≠ id → t.getHart k = s.getHart k) ∧
      t.agenda = .remoteNack :: s.agenda) ∧
    (∀ tag slot ident, free → own → ¬ ok → r.pkt = some (tag, slot, ident) →
      let runs (p : Nat × Hart) : Prop := ∃ x, p.2.task = some x ∧ x.ident = ident
      (∀ l id h l', s.allHarts = l ++ (id, h) :: l' → runs (id, h) → (∀ p ∈ l, ¬ runs p) →
        exec (.remoteRequestArrival r) s = .next (s.setHart id { h with nacks := h.nacks ++ [⟨r.addr, slot⟩] })) ∧
      ((∀ p ∈ s.allHarts, ¬ runs p) → ∃ t, exec (.remoteRequestArrival r) s = .next t ∧ SameMemory s t ∧ t.hart = s.hart ∧ t.others = s.others ∧
        ∀ c k e, (s.cluster c).entry k = some e →
          (t.cluster c).entry k = some (if e.ctx.isSome = true ∧ e.ident = ident then { e with nacks := e.nacks ++ [⟨r.addr, slot⟩] } else e))) ∧
    (free → own → ¬ ok → r.pkt = none → r.hart = none → exec (.remoteRequestArrival r) s = .next s)

/-- R282 and R357 to R362: StythNet. A request that no admission entry names, or whose kind its entry does not permit, changes nothing, and one whose address does not translate to local memory only what its walk does. An admitted read leaves memory as the walk leaves it; a write is that of an engine at its address; an atomic on an aligned word stores its value; a counter update adds COUNT and joins ERR; a slot query changes the holds of its request only, and a release ends them. An undelivered request of a hart is refused after 1,800,000 clk with REMOTE and reason 5, a fetch with cause 3. PORTUP follows its port. What a request's walk leaves, and a request's holds as requests of their own, are the model's choices (log entry 61). -/
def Says.Fabric : Prop :=
  ∀ (s : State) (r : FabricReq) (p : BitVec 5) (up : Bool),
    let entry := s.admission r.dev.toNat r.part.toNat
    let names (e : W64) : Prop := e.getLsbD 63 = true ∧ bitsN e 59 50 = r.dev.toNat ∧ bitsN e 49 44 = r.part.toNat ∧ bitsN e 43 38 < 48
    (entry = none → (∀ i, i < 256 → ¬ names (s.getReg (regBase 0 + 0x5001000 + 16 * i))) ∧ exec (.stythnetRequestArrival r) s = .next s) ∧
    (∀ e, entry = some e → names e ∧
      let granted := e.getLsbD (match r.kind with | .read => 62 | .atomic _ _ => 60 | _ => 61)
      let rq : Req := ⟨fabricHart, r.mode.toNat, bitsN e 43 38, true⟩
      let k : AccKind := match r.kind with | .read => .read | .write _ => .write | .query _ => .write | .release _ => .write | _ => .atomic
      (granted = false ∨ r.va.getLsbD 63 = true → exec (.stythnetRequestArrival r) s = .next s) ∧
      (granted = true → r.va.getLsbD 63 = false → s.dumpHolds rq.part r.va = none → (∀ key y, s.resolveVirt rq r.va k ≠ .ok (.mem key) y) →
        exec (.stythnetRequestArrival r) s = .next (s.walked rq.part r.va)) ∧
      ∀ key y, granted = true → r.va.getLsbD 63 = false → s.dumpHolds rq.part r.va = none → s.resolveVirt rq r.va k = .ok (.mem key) y →
        let u := s.fabWalk rq r.va k
        let v := leNat (r.data.take 8)
        (∀ f l a, s.walk rq r.va k = .leaf f l a → SameMemoryBut s u a 8) ∧
        (r.kind = .read → ∃ t, exec (.stythnetRequestArrival r) s = .next t ∧ SameMemory u t ∧ t.hart = s.hart ∧ t.others = s.others) ∧
        (∀ t, r.kind = .write 0 → r.data ≠ [] → u.engWrite rq r.va r.data = .ok [] t → exec (.stythnetRequestArrival r) s = .next t) ∧
        (∀ op wide, r.kind = .atomic op wide → let n := if wide then 8 else 4
          (r.va.toNat % n ≠ 0 → exec (.stythnetRequestArrival r) s = .next u) ∧
          (r.va.toNat % n = 0 → u.badIn key n = false → ∃ t, exec (.stythnetRequestArrival r) s = .next t ∧ t.hart = s.hart ∧ SameMemoryBut u t key n ∧
            BitVec.ofNat (8 * n) (t.rdN key n) = amoValue op (BitVec.ofNat (8 * n) (u.rdN key n)) (BitVec.ofNat (8 * n) v) (BitVec.ofNat (8 * n) (leNat (r.data.drop 8))))) ∧
        (r.kind = .counter → r.va.toNat % 8 = 0 → u.badIn key 8 = false → ∃ t, exec (.stythnetRequestArrival r) s = .next t ∧ SameMemoryBut u t key 8 ∧
          let old := BitVec.ofNat 64 (u.rdN key 8)
          let new := BitVec.ofNat 64 (t.rdN key 8)
          bitsN new 55 0 = min (2 ^ 56 - 1) (bitsN old 55 0 + v % 2 ^ 56) ∧ bitsN new 63 56 = bitsN old 63 56 ||| v / 2 ^ 56) ∧
        (∀ x, r.kind = .query x → ∃ t l, exec (.stythnetRequestArrival r) s = .next t ∧ SameMemory u t ∧ t.hart = s.hart ∧
          t.dev = { u.dev with fabHolds := u.dev.fabHolds ++ l } ∧ ∀ z ∈ l, z.dev = r.dev.toNat ∧ z.part = r.part.toNat ∧ z.ref = r.ref) ∧
        ∀ x, r.kind = .release x → ∃ t, exec (.stythnetRequestArrival r) s = .next t ∧ SameMemory u t ∧ t.hart = s.hart ∧
          ∀ z, z ∈ t.dev.fabHolds ↔ z ∈ u.dev.fabHolds ∧ ¬ (z.dev = r.dev.toNat ∧ z.part = r.part.toNat ∧ z.ref = r.ref ∧ z.slot = x.toNat)) ∧
    ((∀ x ∈ s.dev.stuck, (s.clk - x.start).toNat < 1800000) → exec .stythnetDeliveryTimeout s = .next s) ∧
    (∀ x, s.dev.stuck.find? (fun x => 1800000 ≤ (s.clk - x.start).toNat) = some x → ∃ t, exec .stythnetDeliveryTimeout s = .next t ∧ SameMemory s t ∧
      (∀ y, y ∈ t.dev.stuck ↔ y ∈ s.dev.stuck ∧ y ≠ x) ∧
      t.getHart x.hart = { s.getHart x.hart with trap := some ⟨if x.kind = .fetch then 3 else 6, faultVal true x.kind 0 5, x.addr⟩ } ∧
      ∀ k, k ≠ x.hart → t.getHart k = s.getHart k) ∧
    (18 ≤ p.toNat → exec (.stythnetPortTrainingChange p up) s = .next s) ∧
    (p.toNat < 18 → ∃ t, exec (.stythnetPortTrainingChange p up) s = .next t ∧ SameMemory s t ∧ t.hart = s.hart ∧ t.others = s.others ∧
      ∀ pa b, b < 64 → (t.getReg pa).getLsbD b = if pa / 8 = (regBase 0 + 0x5000008) / 8 ∧ b = p.toNat then up else (s.getReg pa).getLsbD b)

/-- R285 and R286: `engpush` of a well-formed selector and command is a release: it waits for every earlier access, and for fewer than 8 outstanding commands, and sends the command to its die as the last one; `engpop` completes with the oldest result of its array, with 0 where nothing is outstanding there, and else waits. -/
def Says.TarnInstrs : Prop :=
  ∀ (s : State) (c : Scope) (a b d : GReg),
    let sel := s.g b
    let w := s.group a
    let bad := bitsN sel 63 62 ≠ 1 ∨ bitsN sel 61 16 ≠ 0 ∨ bitsN sel 13 12 ≠ 0 ∨ bitsN sel 7 0 ≠ 0 ∨ 11 < bitsN sel 11 8
    let checked := tarnBad w (s.ctl && s.hart.priv == 3) (s.hart.priv == 0)
    let die := bitsN sel 15 14
    let moved := c ≠ .hart → s.hart.groupsBefore s.hart.fno = false
    (w[0] = s.g a ∧ w[1] = s.g (a + 1) ∧ w[2] = s.g (a + 2) ∧ w[3] = s.g (a + 3)) ∧
    (bad → exec (.engpush c a b) s = .next (s.trapA ⟨2, sel, 0⟩) ∧ exec (.engpop d b) s = .next (s.trapA ⟨2, sel, 0⟩)) ∧
    (∀ x, ¬ bad → checked = some x → exec (.engpush c a b) s = .next (s.trapA ⟨2, x, 0⟩)) ∧
    (¬ bad → checked = none →
      (¬ moved → WaitsStreams (.engpush c a b) s (s.hart.queuesBefore s.hart.fno)) ∧ (moved → s.hart.quiet = false → Drains (.engpush c a b) s) ∧
      (moved → s.hart.quiet = true → 8 ≤ s.hart.tarnOut + s.hart.tarnRes.length → Ends (.engpush c a b) s (WaitsA s)) ∧
      (moved → s.hart.quiet = true → s.hart.tarnOut + s.hart.tarnRes.length < 8 → Ends (.engpush c a b) s fun t => ∃ u : State,
        Finishes { s with dies := u.dies, hart := { s.hart with tarnOut := s.hart.tarnOut + 1 } } t ∧
        ∀ e, t.die e = if e = die then { s.die e with tarnq := (s.die e).tarnq ++ [⟨sel, w, s.hid, BitVec.ofNat 2 s.hart.priv, s.part, true⟩] } else s.die e)) ∧
    (¬ bad → s.hart.older = true → Ends (.engpop d b) s (WaitsA s)) ∧
    (¬ bad → s.hart.older = false →
      (∀ l v r, s.hart.tarnRes = l ++ (sel, v) :: r → (∀ p ∈ l, p.1 ≠ sel) →
        Ends (.engpop d b) s fun t => Writes { s with hart := { s.hart with tarnRes := l ++ r } } t d v) ∧
      ((∀ p ∈ s.hart.tarnRes, p.1 ≠ sel) →
        ((∃ q ∈ (s.die die).tarnq, q.hart = s.hid ∧ q.owed = true ∧ q.sel = sel) → Ends (.engpop d b) s (WaitsA s)) ∧
        ((∀ q ∈ (s.die die).tarnq, ¬ (q.hart = s.hid ∧ q.owed = true ∧ q.sel = sel)) → Ends (.engpop d b) s fun t => Writes s t d 0)))

/-- R296 to R298: `sel` of a job that passes its checks is a release: it waits for every earlier access, fewer than 4 outstanding jobs and room in its core's queue of 8, and queues the job; `selwait` completes with the oldest result, with 0 where none is outstanding, and else waits. Both are illegal on a control hart. -/
def Says.FlintInstrs : Prop :=
  ∀ (s : State) (c : Scope) (a d : GReg),
    let w := s.group a
    let core := coreOf s.hid
    let x := s.core core
    let moved := c ≠ .hart → s.hart.groupsBefore s.hart.fno = false
    let room := s.hart.flintOut + s.hart.flintRes.length < 4 ∧ x.flintq.length < 8
    (s.ctl = true → exec (.sel c a) s = .next (s.trapA ⟨2, s.hart.word0, 0⟩) ∧ exec (.selwait d) s = .next (s.trapA ⟨2, s.hart.word0, 0⟩)) ∧
    (s.ctl = false →
      (∀ e, s.flintCheck w = some e → exec (.sel c a) s = .next (s.trapA e)) ∧
      (s.flintCheck w = none → ¬ moved → WaitsStreams (.sel c a) s (s.hart.queuesBefore s.hart.fno)) ∧
      (s.flintCheck w = none → moved → s.hart.quiet = false → Drains (.sel c a) s) ∧
      (s.flintCheck w = none → moved → s.hart.quiet = true → ¬ room → Ends (.sel c a) s (WaitsA s)) ∧
      (s.flintCheck w = none → moved → s.hart.quiet = true → room → Ends (.sel c a) s fun t =>
        Finishes ((s.setCore core { x with flintq := x.flintq ++ [⟨w, s.hid, BitVec.ofNat 2 s.hart.priv, s.part, true⟩] }).mapHart fun h =>
          { h with flintOut := h.flintOut + 1 }.capCount 10) t ∧ t.hart.flintOut = s.hart.flintOut + 1) ∧
      (s.hart.older = true → Ends (.selwait d) s (WaitsA s)) ∧
      (∀ v l, s.hart.older = false → s.hart.flintRes = v :: l → Ends (.selwait d) s fun t => Writes { s with hart := { s.hart with flintRes := l } } t d v) ∧
      (s.hart.older = false → s.hart.flintRes = [] → 0 < s.hart.flintOut → Ends (.selwait d) s (WaitsA s)) ∧
      (s.hart.older = false → s.hart.flintRes = [] → s.hart.flintOut = 0 → Ends (.selwait d) s fun t => Writes s t d 0))

/-- R268, R269 and R274: `cpy` and `cpynb` of a request that passes the checks of R269 are releases: they wait for every earlier access and put it last in the core's FIFO of 16, with the units that user mode may reach; where the FIFO is full `cpy` waits and `cpynb` completes with 1, and with 0 once it has pushed. The first field that breaks R268 is named in the trap of cause 0x17. -/
def Says.CopyInstrs : Prop :=
  ∀ (s : State) (c : Scope) (a d : GReg),
    let w := s.group a
    let core := coreIx s.hid
    let x := s.core core
    let full := 16 ≤ x.fifo.length
    let moved := c ≠ .hart → s.hart.groupsBefore s.hart.fno = false
    let pushed := (s.setCore core { x with fifo := x.fifo ++ [⟨w, s.hid, BitVec.ofNat 2 s.hart.priv, s.part, true, s.ownUnits⟩] }).mapHart (·.capCount 8)
    (∀ u, u ∈ s.ownUnits ↔ u < 64 ∧ s.localOk { s.me with mode := 0 } (4096 * u) 4096 = true) ∧
    (bitsN w[2] 63 40 = 0 → s.copyCheck w = some ⟨0x17, w[2], 0⟩) ∧
    (copyBad w = none ↔ bitsN w[2] 63 40 ≠ 0 ∧ (bitsN w[2] 9 6 = 0 ∨ bitsN w[3] 62 61 ≠ 0) ∧ (bitsN w[2] 4 0 = 0 ∨ w[2].getLsbD 5 = true) ∧
      bitsN w[3] 1 0 = 0 ∧ bitsN w[3] 62 61 ≠ 3 ∧ (w[3].getLsbD 63 = false ∨ bitsN w[3] 55 33 = 0) ∧ (w[2].getLsbD 5 = false ∨ w[1].getLsbD 63 = true) ∧
      addrBad w[0] = false ∧ addrBad w[1] = false ∧ addrBad (putBits (putBits w[3] 62 56 0) 2 0 0) = false) ∧
    (∀ e, s.copyCheck w = some e → exec (.cpy c a) s = .next (s.trapA e) ∧ exec (.cpynb c d a) s = .next (s.trapA e)) ∧
    (s.copyCheck w = none →
      (full → Ends (.cpy c a) s (WaitsA s) ∧ Ends (.cpynb c d a) s fun t => Writes s t d 1) ∧
      (¬ full → ∀ i, i = .cpy c a ∨ i = .cpynb c d a →
        (¬ moved → WaitsStreams i s (s.hart.queuesBefore s.hart.fno)) ∧ (moved → s.hart.quiet = false → Drains i s)) ∧
      (¬ full → moved → s.hart.quiet = true → Ends (.cpy c a) s (Finishes pushed) ∧ Ends (.cpynb c d a) s fun t => Writes pushed t d 0))

/-- R193, R203, R270, R271 and R343: an engine's read in memory without an uncorrectable word answers its bytes, and a write leaves its bytes there, in a pool with their granules full; both change nothing else but A and D of the entry that the walk of the address ends at. A refused read is ERR bit 58, a refused write bit 56, and an uncorrectable word, of the data or of a table, bit 57. -/
def Says.EngineAccess : Prop :=
  ∀ (s : State) (rq : Req) (a : W64) (n : Nat) (bs : List Byte),
    let walks (k : AccKind) (u t : State) : Prop :=
      (∀ f l p, u.walk rq a k = .leaf f l p → SameMemoryBut u t p 8) ∧ ((∀ f l p, u.walk rq a k ≠ .leaf f l p) ∨ a.getLsbD 63 = true → SameMemory u t)
    (∀ e, s.access rq a n .read = .trap e → ∃ t, s.engRead rq a n = .fail (if e.cause = 8 then 2 else 4) t ∧ SameMemory s t) ∧
    (∀ e, s.access rq a bs.length .write = .trap e → ∃ t, s.engWrite rq a bs = .fail (if e.cause = 8 then 2 else 1) t ∧ SameMemory s t) ∧
    (∀ k y, s.access rq a n .read = .ok (.mem k) y →
      (s.badIn k n = true → ∃ t, s.engRead rq a n = .fail 2 t ∧ walks .read s t) ∧
      (s.badIn k n = false → ∃ t, s.engRead rq a n = .ok (s.rdBytes k n) t ∧ walks .read s t ∧ t.hart = s.hart ∧ t.others = s.others)) ∧
    ∀ k y, s.access rq a bs.length .write = .ok (.mem k) y →
      (s.badPart k bs.length = true → ∃ t, s.engWrite rq a bs = .fail 2 t ∧ walks .write s t) ∧
      (s.badIn k bs.length = false → ∃ u t, s.engWrite rq a bs = .ok [] t ∧
        (∀ j (h : j < bs.length), u.rdB (k + j) = bs[j]) ∧ SameMemoryBut s u k bs.length ∧ walks .write u t ∧
        t.hart = s.hart ∧ t.others = s.others ∧ (2 ^ 52 ≤ k → ∀ j, k ≤ j → j < k + bs.length → t.isFull j = true))

/-- R218, R267 to R273, R281 and R282: the copy engine. The head of a core's FIFO starts while fewer than 96 requests are in flight and, with SER, none is, and its cluster's rotation goes on behind the core; a graph error makes it an identity copy with ERR bit 59, else it holds its slots. Each piece of a row of an identity copy is read, as it stood before the copy, and written at its place, one after another, rows in any order; one whose access waits stands at the halted core or asks for the copy of its unit, and one outside the share that the push had is refused with bit 56. A copy with no row left takes the maximum of its measure, adds INC and its errors to its counter, or to NCERR without one, gives its slots back and leaves. -/
def Says.CopyEngine : Prop :=
  ∀ (s : State) (core k row : Nat),
    let x := s.core core
    (x.fifo = [] → exec (.copyStart core) s = .next s) ∧
    (∀ q l, x.fifo = q :: l →
      (96 ≤ x.infl ∨ (q.w[3].getLsbD 2 = true ∧ 0 < x.infl) → exec (.copyStart core) s = .next s) ∧
      (x.infl < 96 → q.w[3].getLsbD 2 = false ∨ x.infl = 0 → ∃ t, exec (.copyStart core) s = .next t ∧ SameMemory s t ∧ t.hart = s.hart ∧ t.others = s.others ∧
        t.core core = { x with fifo := l, infl := x.infl + 1 } ∧ (core < 16384 → (t.cluster (core / 8)).rotCopy = (core + 1) % 8) ∧
        ∃ c : CopyFly, t.dev.copies = s.dev.copies ++ [c] ∧ c.core = core ∧ c.req = q ∧ c.todo = List.range (bitsN q.w[2] 39 34 + 1) ∧ c.pos = 0 ∧
          c.row = none ∧ c.old = [] ∧ c.measure = 0 ∧
          (s.copyBind q s.fv = none → c.gsrc = 0 ∧ c.gdst = 0 ∧ c.hsrc = [] ∧ c.hdst = [] ∧ c.del = false ∧ c.err = 8) ∧
          ∀ a b n, s.copyBind q s.fv = some (a, b, n) → c.err = 0 ∧ c.out = n ∧ c.hsrc = a.homes ∧ c.hdst = b.homes)) ∧
    (s.dev.copies.find? (·.id == k) = none → exec (.copyLine k row) s = .next s ∧ exec (.copyComplete k) s = .next s) ∧
    ∀ c, s.dev.copies.find? (·.id == k) = some c →
      let q := c.req
      let begun := 0 < c.pos ∨ c.row ≠ none
      (row ∉ c.todo ∨ (begun ∧ c.todo.head? ≠ some row) → exec (.copyLine k row) s = .next s) ∧
      (c.todo ≠ [] → exec (.copyComplete k) s = .next s) ∧
      (c.gsrc = 0 → c.gdst = 0 → row ∈ c.todo → ¬ begun ∨ c.todo.head? = some row → q.ten = false →
        let src := q.w[0] + BitVec.ofNat 64 (64 * row * bitsN q.w[2] 33 22)
        let dst := q.w[1] + BitVec.ofNat 64 (64 * row * bitsN q.w[2] 21 10)
        let pieces := cutAt dst (bitsN q.w[2] 63 40) 64
        ∀ o n, pieces[c.pos]? = some (o, n) →
          let g := s.gather q.who (src + BitVec.ofNat 64 o) c.old (cutAt (src + BitVec.ofNat 64 o) n 64)
          let allowed := g.st.engAllowed q.hart q.mode.toNat q.share (dst + BitVec.ofNat 64 o) n
          (∀ w, g.waits = some w → exec (.copyLine k row) s = .next (s.holdUp (.copy k row) w) ∧
            SameMemory s (s.holdUp (.copy k row) w) ∧ (s.holdUp (.copy k row) w).dev = s.dev) ∧
          (g.waits = none → allowed = false → g.bytes.length = n → ∃ t c1, exec (.copyLine k row) s = .next t ∧ SameMemory g.st t ∧
            t.dev.copies = replaceFirst (·.id == k) (fun _ => c1) g.st.dev.copies ∧ c1.err = c.err ||| g.err ||| 1) ∧
          ∀ bs u, 0 < n → g.waits = none → allowed = true → g.bytes = bs.map some → bs.length = n → g.st.engWrite q.who (dst + BitVec.ofNat 64 o) bs = .ok [] u →
            ∃ t c1, exec (.copyLine k row) s = .next t ∧ SameMemory u t ∧ t.dev.copies = replaceFirst (·.id == k) (fun _ => c1) u.dev.copies ∧
              c1 = { c with err := c.err ||| g.err, old := c1.old, pos := c1.pos, todo := c1.todo } ∧
              (∀ p ∈ c.old, p ∈ c1.old) ∧
              (c.pos + 1 < pieces.length → c1.pos = c.pos + 1 ∧ c1.todo.head? = some row) ∧
              (c.pos + 1 = pieces.length → c1.pos = 0 ∧ c1.todo = c.todo.filter (· != row))) ∧
      (c.todo = [] →
        let ctr := putBits (putBits q.w[3] 62 56 0) 2 0 0
        (∀ e u, s.copyCounter c = (e, u, none) → ∃ t, exec (.copyComplete k) s = .next t ∧ SameMemory u t ∧
          (t.core c.core).infl = (u.core c.core).infl - 1 ∧ (t.core c.core).fifo = (u.core c.core).fifo ∧ t.dev.copies = removeFirst (·.id == k) u.dev.copies ∧
          ∀ id, (t.getHart id).reg .cpystat = (u.getHart id).reg .cpystat ||| (if id = q.hart ∧ q.owed = true then BitVec.ofNat 64 (e * 2 ^ 20) else 0)) ∧
        (∀ e u w, s.copyCounter c = (e, u, some w) → exec (.copyComplete k) s = .next (s.holdUp (.copyEnd k) w)) ∧
        (ctr = 0 → s.copyCounter c = (c.err, s, none)) ∧
        ∀ p y, ctr ≠ 0 → ctr.getLsbD 63 = true → c.gdst ≠ 17 → ({ s with fv := s.fv + 1 } : State).access q.who ctr 8 .atomic = .ok (.mem p) y → s.badIn p 16 = false →
          (c.del = true → ({ s with fv := s.fv + 1 } : State).access q.who (ctr + 8) 4 .atomic = .ok (.mem (p + 8)) y) →
          ∃ u, s.copyCounter c = (0, u, none) ∧ SameMemoryBut s u p (if c.del then 12 else 8) ∧
            (c.del = true → u.rdN (p + 8) 4 = max (s.rdN (p + 8) 4) c.measure.toNat) ∧
            BitVec.ofNat 64 (u.rdN p 8) = counterAdd (BitVec.ofNat 64 (s.rdN p 8)) (bitsN q.w[3] 60 56) c.err)

/-- R276, R280, R285 to R287: TARN_LOAD, TARN_UNLOAD and TARN_QUERY perform the next command of a hart at an array. The result carries bit 63 and its status: QUERY answers 6 for an empty slot, else 0 with the header and the owner; LOAD and UNLOAD answer 1 for a fixed slot, 2 for another partition's, 3 for a held one; UNLOAD of an empty slot answers 6, of a full one empties it; LOAD answers 4 for an image that cannot be read, 5 for a malformed one, and else loads it. The order of these statuses, and 0 for a QUERY of another partition's slot, are the model's choices (log entry 54). -/
def Says.TarnArray : Prop :=
  ∀ (s : State) (hart op : Nat) (i : Instr), (op = 1 ∧ i = .tarnLoad hart) ∨ (op = 2 ∧ i = .tarnUnload hart) ∨ (op = 3 ∧ i = .tarnQuery hart) →
    (s.tarnNext hart op = none → exec i s = .next s) ∧
    ∀ d c, s.tarnNext hart op = some (d, c) → d = bitsN c.sel 15 14 →
      let slot := bitsN c.w[0] 3 0
      let key := 16 * bitsN c.sel 11 8 + slot
      let cur := s.tarnSlot d key
      let machine := isControl hart = true ∧ c.mode = 3
      let foreign := ∃ x, cur = some x ∧ x.owner ≠ c.part ∧ ¬ machine
      let held := ∃ x, cur = some x ∧ x.holds ≠ 0
      let image := s.readImage c.part c.w[1]
      ∃ (st : Nat) (v : W64) (now : Option TarnSlot), bitsN v 62 60 = st ∧ v.getLsbD 63 = true ∧
        (∃ t, exec i s = .next t ∧ (op ≠ 1 → SameMemory s t) ∧ (op = 1 → SameMemory (s.imageSeen c.part c.w[1]) t) ∧ t.regs = s.regs ∧ (t.die d).tarnq = removeFirst (· == c) (s.die d).tarnq ∧ (∀ e, e ≠ d → (t.die e).tarnq = (s.die e).tarnq ∧ (t.die e).tarn = (s.die e).tarn) ∧
          (4 ≤ slot → t.tarnSlot d key = now) ∧ (∀ j, j ≠ key → t.tarnSlot d j = s.tarnSlot d j) ∧ (slot < 4 → t.tarnSlot d key = cur) ∧
          (c.owed = true → (t.getHart hart).tarnRes = (s.getHart hart).tarnRes ++ [(c.sel, v)] ∧ (t.getHart hart).tarnOut = (s.getHart hart).tarnOut - 1)) ∧
        (st ≠ 0 → now = cur) ∧
        (op = 3 → now = cur ∧ (cur = none → st = 6) ∧ ∀ x, cur = some x → x.owner < 64 → st = 0 ∧ bitsN v 5 0 = x.owner ∧ bitsN v 58 6 = bitsN (imgWord x.image 0) 58 6) ∧
        (op ≠ 3 → slot < 4 → st = 1) ∧
        (op ≠ 3 → 4 ≤ slot → (foreign → st = 2) ∧ (¬ foreign → held → st = 3) ∧
          (¬ foreign → ¬ held → op = 2 → st = (if cur = none then 6 else 0) ∧ now = none) ∧
          (¬ foreign → ¬ held → op = 1 → (image = none → st = 4) ∧ ∀ img, image = some img →
            (imageMalformed img = true → st = 5) ∧
            (imageMalformed img = false → st = 0 ∧ ∃ w, now = some ⟨w, img, 0⟩ ∧ (¬ machine → w = c.part) ∧ (machine → w = bitsN c.w[0] 13 8))))

/-- R290 to R296: Flint. It takes jobs from the cores of its cluster in rotating order. A column with too few elements that are not NaN gives status 1; else the walk of a rank job ends at the key t that the PARAM-th largest element has, with exactly the elements beyond it taken, and that of a weighted one where the mass beyond t is short of PARAM of the total and the mass with t is not. A job whose reads and writes succeed returns word 0 of its record to its hart. -/
def Says.Flint : Prop :=
  ∀ (s : State) (cl : Nat) (j : FlintJob),
    let c := s.cluster cl
    let at_ (i : Nat) : Nat := 8 * cl + (c.rotFlint + i) % 8
    (c.flint ≠ none ∨ (∀ i, i < 8 → (s.core (at_ i)).flintq = []) → exec (.flintJobStart cl) s = .next s) ∧
    (∀ i l, c.flint = none → i < 8 → (∀ m, m < i → (s.core (at_ m)).flintq = []) → (s.core (at_ i)).flintq = j :: l →
      Ends (.flintJobStart cl) s fun t => SameMemory s t ∧ t.hart = s.hart ∧ (t.cluster cl).flint = some j ∧ (t.cluster cl).rotFlint = ((c.rotFlint + i) % 8 + 1) % 8 ∧
        (t.core (at_ i)).flintq = l ∧ ∀ n, n ≠ at_ i → t.core n = s.core n) ∧
    (c.flint = none → exec (.flintJobComplete cl) s = .next s) ∧
    (∀ st col wts u r, r = (if st = 0 then j.record (j.run col wts) else ([BitVec.ofNat 64 (2 ^ 63 + st * 2 ^ 60), 0, 0, 0, 0, 0, 0, 0], [])) → c.flint = some j →
      (∃ cb t, s.flintRead j j.w[0] (cutAt j.w[0] (j.n * j.ty.width / 8) 64) = .ok (st, cb, t) ∧
        ((st ≠ 0 ∧ t.flintWrite j (j.writes r.1 r.2) = .ok (0, u)) ∨
          ∃ wb t', st = 0 ∧ t.flintRead j j.w[1] (if j.w[1] = 0 then [] else cutAt j.w[1] (4 * j.n) 64) = .ok (0, wb, t') ∧
            col = elemsOf j.ty.width j.n (leNat cb) ∧ wts = elemsOf 32 j.n (leNat wb) ∧ t'.flintWrite j (j.writes r.1 r.2) = .ok (0, u))) →
      Ends (.flintJobComplete cl) s fun t => SameMemory u t ∧ (t.cluster cl).flint = none ∧
        (j.owed = true → ∃ v : W64, (t.getHart j.hart).flintRes = (u.getHart j.hart).flintRes ++ [v] ∧ (t.getHart j.hart).flintOut = (u.getHart j.hart).flintOut - 1 ∧
          (j.ty.width < 64 → v.getLsbD 63 = true) ∧ (st ≠ 0 → v = BitVec.ofNat 64 (2 ^ 63 + st * 2 ^ 60)) ∧ (st = 0 → v = (j.record (j.run col wts)).1.headD 0))) ∧
    ∀ col wts : List Nat, (∀ x ∈ col, x < 2 ^ j.ty.width) →
      let r := j.run col wts
      let p := j.param
      (∀ x ∈ r.elig, col[x.i]? = some x.bits ∧ j.ty.isNan x.bits = false) ∧ (∀ i b, col[i]? = some b → j.ty.isNan b = false → ∃ x ∈ r.elig, x.i = i ∧ x.bits = b) ∧
      (r.status = 1 ↔ r.elig = [] ∨ (j.mode' ≠ 2 ∧ r.elig.length < p)) ∧
      (r.status = 0 → (∀ x, x ∈ r.walk.c ↔ x ∈ r.elig ∧ x.key = r.walk.t) ∧ (∀ x, x ∈ r.walk.above ↔ x ∈ r.elig ∧ r.walk.t < x.key) ∧
        (j.mode' ≠ 2 → 0 < p → r.walk.above.length < p ∧ p ≤ r.walk.above.length + r.walk.c.length) ∧
        (j.mode' = 2 → 0 < p → p ≤ 0x3F800000 →
          massMeets p (massOf r.elig) (massOf r.walk.above + massOf r.walk.c) = true ∧ r.walk.c ≠ [] ∧
          (r.walk.above = [] ∨ massMeets p (massOf r.elig) (massOf r.walk.above) = false)))

/-- What a matrix instruction meets before its own checks (R248, R256, R257): it is illegal on a control hart; a pending fault is raised with its cause, TRAPVAL and TRAPADDR, and SCF and OPF clear; in a trap handler that has not saved the array it is cause 0x13. -/
def Says.MatrixGuards (s : State) (i : Instr) : Prop :=
  let st := s.csr .mstat
  let f := bitsN st 17 16
  (s.ctl = true → exec i s = .next (s.trapA ⟨2, s.hart.word0, 0⟩)) ∧
  (s.ctl = false → f ≠ 0 → ¬ TrapReady s → Ends i s (WaitsA s)) ∧
  (s.ctl = false → f ≠ 0 → TrapReady s → CanTrap s (s.csr .mxcause).toNat → ∃ h : Hart,
    h = s.hart.setReg .mstat (putBits st 17 16 0) ∧
    Ends i s fun t => TrapTaken s h t.hart ⟨(s.csr .mxcause).toNat, s.csr .mxval, s.csr .mxaddr⟩ false s.hart.pc (s.hart.pc + 8) 1) ∧
  (s.ctl = false → f = 0 → 0 < s.hart.td → st.getLsbD 15 = false → exec i s = .next (s.trapA ⟨0x13, s.hart.word0, 0⟩))

/-- Nothing of `MatrixGuards` stops the instruction. -/
def Says.MatrixFree (s : State) : Prop :=
  s.ctl = false ∧ bitsN (s.csr .mstat) 17 16 = 0 ∧ (s.hart.td = 0 ∨ (s.csr .mstat).getLsbD 15 = true)

/-- A matrix command is queued (R217, R232, R234): one that releases waits, above the scope hart, for the stream groups of older frames, and for a quiet hart; each waits for a place among 8, and then stands last, with the control registers as they are now, the sender's mode and partition and the units that user mode may reach. -/
def Says.Queues (s : State) (i : Instr) (releases : Bool) (kind : MKind) (n scope : Nat) (more : MCmd → Prop) : Prop :=
  let moved := releases = true → scope ≠ 0 → s.hart.groupsBefore s.hart.fno = false
  let ready := moved ∧ (releases = true → s.hart.quiet = true)
  (¬ moved → WaitsStreams i s (s.hart.queuesBefore s.hart.fno)) ∧
  (moved → releases = true → s.hart.quiet = false → Drains i s) ∧
  (ready → 8 ≤ s.hart.mq.length → Ends i s (WaitsA s)) ∧
  (ready → s.hart.mq.length < 8 → Ends i s fun t => ∃ (c : MCmd) (u : State),
    u = { s with hart := { s.hart with mq := s.hart.mq ++ [c] }.capCount 9, dev := { s.dev with stamp := s.dev.stamp + 1 } } ∧ Finishes u t ∧
    c.kind = kind ∧ c.acc = n ∧ c.scope = scope ∧ c.age = s.dev.stamp ∧ c.hart = s.hid ∧ c.fno = s.hart.fno ∧ c.mode.toNat = s.hart.priv % 4 ∧ c.part = s.part ∧
    (∀ u, u ∈ c.share ↔ u < 64 ∧ s.localOk { s.me with mode := 0 } (4096 * u) 4096 = true) ∧
    c.mxfmt = s.csr .mxfmt ∧ c.scaleA = s.csr .mxscalea ∧ c.scaleB = s.csr .mxscaleb ∧ c.smeta = s.csr .mxmeta ∧ c.tscale = s.csr .mxtscale ∧
    c.gang = (let m := bitsN (s.csr .mstat) 11 4; if m = 0 then 2 ^ (coreOf s.hid % 8) else m) ∧ more c)

/-- R231 to R234, R238, R248 to R253 and R256: what the instructions of the matrix array do. Each first meets a pending fault or the matrix-context fault of a handler, `mzero`, `mpre`, `mma` and `mdrain` then that of an accumulator the task does not hold. The format of both descriptors of an `mma` is checked before any address, and of a core that does not lead its gang A's addresses and scales are not checked. `mgang` sets MSTAT.GANG at once, waits for nothing, and must name the issuing core; the others are queued, an `mma` with copies of the v registers that a KIND 1 operand names, an `mdrain` with its rounding, once their own checks pass. -/
def Says.MatrixPushes : Prop :=
  ∀ (s : State) (sc : Scope) (a b : GReg) (n : BitVec 2),
    let w0 := s.hart.word0
    let free := Says.MatrixFree s
    let held := n.toNat < s.hart.accUnits
    (∀ i, i = .mgang a ∨ i = .mma sc a b n ∨ i = .mzero n ∨ i = .mpre sc a n ∨ i = .mswap ∨ i = .mdrain sc a b n → Says.MatrixGuards s i) ∧
    (∀ i, i = .mma sc a b n ∨ i = .mzero n ∨ i = .mpre sc a n ∨ i = .mdrain sc a b n → free → ¬ held → exec i s = .next (s.trapA ⟨0x13, w0, 0⟩)) ∧
    (let m := bitsN (s.g a) 7 0
      let names := m = 0 ∨ m.testBit (coreOf s.hid % 8) = true
      (free → ¬ names → exec (.mgang a) s = .next (s.trapA ⟨0x14, s.g a, 0⟩)) ∧
      (free → names → Ends (.mgang a) s fun t => ∃ u : State, Finishes u t ∧
        u = { s with hart := s.hart.setReg .mstat (u.csr .mstat) } ∧ bitsN (u.csr .mstat) 11 4 = m ∧
        ∀ j, j < 64 → j < 4 ∨ 11 < j → (u.csr .mstat).getLsbD j = (s.csr .mstat).getLsbD j)) ∧
    (free → held → Says.Queues s (.mzero n) false .mzero n.toNat 0 fun _ => True) ∧
    (free → Says.Queues s .mswap false .mswap 0 0 fun _ => True) ∧
    (free → held → ((s.g a).toNat % 64 ≠ 0 → exec (.mpre sc a n) s = .next (s.trapA ⟨4, 0, s.g a⟩)) ∧
      ((s.g a).toNat % 64 = 0 → Says.Queues s (.mpre sc a n) true .mpre n.toNat sc.code fun c => c.w[0] = s.g a)) ∧
    (free → held → let c0 := s.mxCmd .mma n.toNat sc.code ⟨#[s.g a, s.g (a + 1), s.g b, s.g (b + 1)], rfl⟩
      (mxForm (s.csr .mxfmt) n.toNat = none → exec (.mma sc a b n) s = .next (s.trapA ⟨0x14, s.csr .mxfmt, 0⟩)) ∧
      (∀ e, s.mmaCheck c0 = some e → exec (.mma sc a b n) s = .next (s.trapA e) ∧ (mxDescBad c0.w[0] c0.w[1] ≠ none ∨ mxDescBad c0.w[2] c0.w[3] ≠ none → e.cause = 0x14)) ∧
      (c0.leads = true ↔ c0.gang.testBit (coreOf s.hid % 8) = true ∧ ∀ j, j < coreOf s.hid % 8 → c0.gang.testBit j = false) ∧
      (c0.leads = false → mxDescBad c0.w[0] c0.w[1] = none → ∀ base d x, mxDescBad base d = none → dK d = dK c0.w[1] →
        s.mmaCheck { c0 with w := ⟨#[base, d, c0.w[2], c0.w[3]], rfl⟩, scaleA := x } = none ↔ s.mmaCheck c0 = none) ∧
      (s.mmaCheck c0 = none → Says.Queues s (.mma sc a b n) true .mma n.toNat sc.code fun c => c.w = c0.w ∧
        (bitsN c0.w[1] 63 62 = 1 → c.va = (List.range 16).map fun i => s.hart.rv (BitVec.ofNat 5 (c0.w[0].toNat + i))) ∧
        (bitsN c0.w[3] 63 62 = 1 → c.vb = (List.range 4).map fun i => s.hart.rv (BitVec.ofNat 5 (c0.w[2].toNat + i))))) ∧
    (free → held → let ctl := s.g b
      let c0 := s.mxCmd .mdrain n.toNat sc.code ⟨#[s.g a, 0, ctl, s.g (b + 1)], rfl⟩
      (drainBad ctl (s.g (b + 1)) (mxMode (s.csr .mxfmt) n.toNat) = true → exec (.mdrain sc a b n) s = .next (s.trapA ⟨0x14, ctl, 0⟩)) ∧
      (∀ e, mdrainCheck c0 = some e → exec (.mdrain sc a b n) s = .next (s.trapA e)) ∧
      (mdrainCheck c0 = none → Says.Queues s (.mdrain sc a b n) true .mdrain n.toNat sc.code fun c => c.w = c0.w ∧
        c.rnd = if bitsN ctl 43 41 = 0 then bitsN (s.csr .fmode) 1 0 + 1 else bitsN ctl 43 41))

/-- R240 to R242, R251, R252 and R255: what queued matrix commands do. A command not the oldest of its core, or of a busy slice, does not start; `mzero` clears a working bank, `mpre` loads it from 32 lines, an unreadable one as zeros with a pending fault, `mswap` exchanges the banks; each leaves its queue. Of the gangs that can form the one with the oldest command forms, once its slices are enabled: its commands leave their queues. An operation whose members disagree is a fault of each; else it accumulates once every link word is there. A drain in an integer mode whose record R192 refuses writes no element; a drain's counter counts one with its errors, and an update that R192 refuses is lost. That loss, and a drain as one step at its start, are the model's choices (log entry 56). -/
def Says.MatrixCommands : Prop :=
  ∀ (s : State) (own cl k : Nat), own < 2 ^ 16 →
    let h := s.getHart own
    let core := coreOf own
    let start (c : MCmd) : Prop := c.kind ≠ .mma ∧ s.sliceFree core = true ∧ s.mxFirst core c = true ∧ s.mxMoves own c = true
    (h.mq = [] → exec (.matrixCommandStart own) s = .next s) ∧
    (∀ c l, h.mq = c :: l →
      (¬ start c → exec (.matrixCommandStart own) s = .next s) ∧
      (start c → c.kind = .mzero → Ends (.matrixCommandStart own) s fun t => SameMemory s t ∧ (t.getHart own).mq = l ∧
        ∀ key, kget 0 (t.getHart own).acc key = if 512 * c.acc ≤ key ∧ key < 512 * c.acc + 256 then 0 else kget 0 h.acc key) ∧
      (start c → c.kind = .mswap → (h.acc.map Prod.fst).Nodup → Ends (.matrixCommandStart own) s fun t => SameMemory s t ∧ (t.getHart own).mq = l ∧
        ∀ key, kget 0 (t.getHart own).acc key = kget 0 h.acc (if key / 256 % 2 = 0 then key + 256 else key - 256)) ∧
      (start c → c.kind = .mpre → ∀ w, (s.mpreLines own c 0 32).waits = some w → exec (.matrixCommandStart own) s = .next (s.holdUp (.command own) w)) ∧
      (start c → c.kind = .mpre → (s.mpreLines own c 0 32).waits = none → Ends (.matrixCommandStart own) s fun t => SameMemory (s.mpreLines own c 0 32).st t ∧ (t.getHart own).mq = l ∧
          ((s.mpreLines own c 0 32).faults ≠ [] → ((t.getHart own).reg .mstat).getLsbD 16 = true) ∧
          ∀ key, kget 0 (t.getHart own).acc key = if 512 * c.acc ≤ key ∧ key < 512 * c.acc + 256
            then BitVec.ofNat 56 (elem 64 (leNat (s.mpreLines own c 0 32).bytes) (key % 256)) else kget 0 h.acc key) ∧
      (∀ u, start c → c.kind = .mdrain → s.drainRun core own c h.acc = .ok u → Ends (.matrixCommandStart own) s fun t => (t.getHart own).mq = l ∧
        (t.getHart own).acc = h.acc ∧ ∃ d : MDrain, t.dev.drains = s.dev.drains ++ [d] ∧ d.own = own ∧ d.cmd = c ∧
          (c.w[3] ≠ 0 → s.engAllowed c.hart c.mode.toNat c.share c.w[3] 64 = false → 2 ≤ mxMode c.mxfmt c.acc → SameMemory s t ∧ d.ctr = 0 ∧ ((t.getHart own).reg .mstat).getLsbD 16 = true)) ∧
      (∀ w, start c → c.kind = .mdrain → s.drainRun core own c h.acc = .error w → exec (.matrixCommandStart own) s = .next (s.holdUp (.command own) w))) ∧
    (∀ mask l, s.gang cl mask = some l → (∀ q ∈ l, s.mxFirst q.1 q.2.2 = true) →
      (s.nextGang cl = none → l = []) ∧ ∀ b, s.nextGang cl = some b → ∀ q ∈ l, q.2.2.age < 2 ^ 64 → ∃ p ∈ b, p.2.2.age ≤ q.2.2.age) ∧
    (s.nextGang cl = none → exec (.gangForm cl) s = .next s) ∧
    (∀ l, s.nextGang cl = some l → (∀ x ∈ (s.cluster cl).tails, 2 ^ 20 ≤ x.key) →
      ((∃ p ∈ l, (s.cluster cl).slices ≤ p.1 % 8) → exec (.gangForm cl) s = .next s) ∧
      ((∀ p ∈ l, p.1 % 8 < (s.cluster cl).slices) → Ends (.gangForm cl) s fun t => SameMemory s t ∧
        (∃ o : MatOp, (t.cluster cl).ops = (s.cluster cl).ops ++ [o] ∧ o.members.map (fun m => (m.core, m.own, m.cmd)) = l) ∧
        ∀ p ∈ l, p.2.1 < 2 ^ 16 → (t.getHart p.2.1).mq = (s.getHart p.2.1).mq.drop 1)) ∧
    (s.findOp k = none → exec (.mmaComplete k) s = .next s) ∧
    (∀ c o, s.findOp k = some (c, o) →
      (o.mismatch = true → Ends (.mmaComplete k) s fun t => SameMemory s t ∧ (∀ x ∈ (t.cluster c).ops, x.id ≠ k) ∧
        ∀ m ∈ o.members, m.own < 2 ^ 16 → (t.getHart m.own).acc = (s.getHart m.own).acc ∧ ((t.getHart m.own).reg .mstat).getLsbD 16 = true ∧
          (bitsN ((s.getHart m.own).reg .mstat) 17 16 = 0 → (t.getHart m.own).reg .mxcause = 0x16 ∧ (t.getHart m.own).reg .mxval = 1)) ∧
      (∀ u f, o.mismatch = false → (∀ m ∈ o.members, m.na = 0 ∧ m.nb = 0) → s.mxRun c o = .ok (u, f) → Ends (.mmaComplete k) s fun t => SameMemory u t ∧
        (∀ x ∈ (t.cluster c).ops, x.id ≠ k) ∧ ∀ m ∈ o.members, m.own < 2 ^ 16 → (t.getHart m.own).acc = (u.getHart m.own).acc)) ∧
    (s.dev.drains.find? (·.id == k) = none → exec (.drainComplete k) s = .next s) ∧
    ∀ d, s.dev.drains.find? (·.id == k) = some d →
      (d.ctr = 0 → Ends (.drainComplete k) s fun t => SameMemory s t ∧ t.hart = s.hart ∧ t.others = s.others ∧ ∀ x, x ∈ t.dev.drains ↔ x ∈ s.dev.drains ∧ x.id ≠ k) ∧
      (d.ctr ≠ 0 → s.engAllowed d.cmd.hart d.cmd.mode.toNat d.cmd.share d.ctr 8 = false → Ends (.drainComplete k) s fun t => SameMemory s t ∧ t.hart = s.hart ∧ t.others = s.others ∧ ∀ x, x ∈ t.dev.drains ↔ x ∈ s.dev.drains ∧ x.id ≠ k) ∧
      (∀ p y, d.ctr ≠ 0 → d.ctr.getLsbD 63 = true → s.engAllowed d.cmd.hart d.cmd.mode.toNat d.cmd.share d.ctr 8 = true → s.access d.cmd.who d.ctr 8 .atomic = .ok (.mem p) y → s.badIn p 8 = false →
        Ends (.drainComplete k) s fun t => SameMemoryBut s t p 8 ∧ t.hart = s.hart ∧ t.others = s.others ∧ (∀ x, x ∈ t.dev.drains ↔ x ∈ s.dev.drains ∧ x.id ≠ k) ∧
          BitVec.ofNat 64 (t.rdN p 8) = counterAdd (BitVec.ofNat 64 (s.rdN p 8)) 1 d.err)

/-- R231, R243 to R245: an element of a dense integer operation whose partial sums stay in range is its old value plus the K products of its row of A and its column of B. -/
def Says.MatrixProduct : Prop :=
  ∀ (d : MxData) (m c acc k : Nat) (a b : List Nat), 2 ≤ d.form.mode → 0 < d.form.g → d.k = k * d.form.g → d.a[m]? = some a → d.b[c]? = some b →
    d.idx.getD c none = none → a.length = d.k → b.length = d.k → acc < 2 ^ 56 →
    let p (i : Nat) : Int := d.form.a.ival (a.getD i 0) * d.form.b.ival (b.getD i 0)
    let lim : Int := if d.form.mode = 3 then 2 ^ 31 else 2 ^ 55
    ((toSigned 56 acc).natAbs : Int) + ((List.range d.k).map fun i => ((p i).natAbs : Int)).sum < lim →
    let r := d.elem m c acc
    toSigned 56 r.v = toSigned 56 acc + ((List.range d.k).map p).sum ∧ r.sat = false ∧ r.inv = false ∧ r.ovf = false ∧ r.bad = []

/-- R257 to R259: `mxsave` is illegal on a control hart, cause 0x13 where the array is saved, and misaligned off a 64 B boundary; it waits for a quiet hart, for started operations, for the older stream groups that meet its bytes and for what its lines wait on, stores the area, withdraws the queued commands and sets SAVED. `mxrest` waits for the same and until the queue is empty, refuses a bad area with cause 0x14, and goes on with the banks, the pending fault and the commands of the area, in the mode that pushed them (in a handler PPRIV's: the model's choice, log entry 56), and SAVED clear. -/
def Says.MatrixSave : Prop :=
  ∀ (s : State) (a : GReg),
    let addr := s.g a
    let st := s.csr .mstat
    let n := s.hart.mxArea.length
    let rn := 11264 + 4096 * s.hart.accUnits
    let ls := rangeLines addr n
    let rl := rangeLines addr rn
    let ahead (n : Nat) : Bool := s.groupAhead s.hart.fno addr n
    let aligned := addr.toNat % 64 = 0
    (s.ctl = true → exec (.mxsave a) s = .next (s.trapA ⟨2, s.hart.word0, 0⟩) ∧ exec (.mxrest a) s = .next (s.trapA ⟨2, s.hart.word0, 0⟩)) ∧
    (s.ctl = false →
      (st.getLsbD 15 = true → exec (.mxsave a) s = .next (s.trapA ⟨0x13, s.hart.word0, 0⟩)) ∧
      (st.getLsbD 15 = false → ¬ aligned → exec (.mxsave a) s = .next (s.trapA ⟨4, 0, addr⟩)) ∧
      (st.getLsbD 15 = false → aligned → s.hart.quiet = false → Drains (.mxsave a) s) ∧
      (st.getLsbD 15 = false → aligned → s.hart.quiet = true → s.mxRunning s.hid = true → Ends (.mxsave a) s (WaitsA s)) ∧
      (st.getLsbD 15 = false → aligned → s.hart.quiet = true → s.mxRunning s.hid = false →
        (s.hart.overflows ls = true → exec (.mxsave a) s = .next (s.discardTask s.hid true)) ∧
        (s.hart.overflows ls = false → ahead n = true → WaitsStreams (.mxsave a) s (s.queuesAhead s.hart.fno addr n)) ∧
        (∀ e u, s.hart.overflows ls = false → ahead n = false → s.storeLines s.hart.mxArea ls = .trap e u → exec (.mxsave a) s = .next (u.trapA e)) ∧
        (∀ u, s.hart.overflows ls = false → ahead n = false → s.storeLines s.hart.mxArea ls = .wait u → Ends (.mxsave a) s (WaitsA u)) ∧
        ∀ cs u, s.hart.overflows ls = false → ahead n = false → s.storeLines s.hart.mxArea ls = .ok cs u → Ends (.mxsave a) s fun t =>
          Finishes { u with hart := ({ u.hart with mq := [] } : Hart).setReg .mstat (t.csr .mstat) } t ∧ (t.csr .mstat).getLsbD 15 = true ∧
          ∀ j, j < 64 → j ≠ 15 → (t.csr .mstat).getLsbD j = (u.csr .mstat).getLsbD j) ∧
      (¬ aligned → exec (.mxrest a) s = .next (s.trapA ⟨4, 0, addr⟩)) ∧
      (aligned → s.hart.quiet = false → Drains (.mxrest a) s) ∧
      (aligned → s.hart.quiet = true → s.hart.mq ≠ [] ∨ s.mxRunning s.hid = true → Ends (.mxrest a) s (WaitsA s)) ∧
      (aligned → s.hart.quiet = true → s.hart.mq = [] → s.mxRunning s.hid = false → ahead rn = true → WaitsStreams (.mxrest a) s (s.queuesAhead s.hart.fno addr rn)) ∧
      (aligned → s.hart.quiet = true → s.hart.mq = [] → s.mxRunning s.hid = false → ahead rn = false →
        (∀ e u, s.loadLines rl = .trap e u → exec (.mxrest a) s = .next (u.trapA e)) ∧
        (∀ u, s.loadLines rl = .wait u → Ends (.mxrest a) s (WaitsA u)) ∧
        ∀ bs u, s.loadLines rl = .ok bs u →
          (∀ x, mxAreaBad bs = some x → exec (.mxrest a) s = .next (u.trapA ⟨0x14, x, 0⟩)) ∧
          (mxAreaBad bs = none → Ends (.mxrest a) s (Finishes (u.loadArea bs (if 0 < u.hart.td then bitsN (u.csr .status) 8 7 else u.hart.priv)))))) ∧
    (∀ mode, s.hart.mq.length ≤ 8 → s.hart.accUnits ≤ 4 → let t := s.loadArea s.hart.mxArea mode
      s.hart.mxArea.length = 11264 + 4096 * s.hart.accUnits ∧ t = { s with hart := t.hart, dev := { s.dev with stamp := s.dev.stamp + s.hart.mq.length } } ∧
      (∀ key, key < 512 * s.hart.accUnits → kget 0 t.hart.acc key = kget 0 s.hart.acc key) ∧
      t.hart.mq.length = s.hart.mq.length ∧ (∀ c ∈ t.hart.mq, c.mode = BitVec.ofNat 2 mode) ∧ bitsN (t.csr .mstat) 11 4 = bitsN st 11 4 ∧ (t.csr .mstat).getLsbD 15 = false ∧
      bitsN (t.csr .mstat) 31 16 = bitsN st 31 16)

/-- R243 and R244: the sum of a group of floating products. A NaN operand gives NaN; infinity times zero, or infinite products of both signs, give NaN and INV; of one sign that infinity. Finite products of the 8-bit formats and l4 are summed exactly; those of the 16-bit formats after truncation towards zero to a multiple of 2^(E - 63), for E the floor of log2 of the largest, and to zero where every product is zero. -/
def Says.MatrixGroupSum : Prop :=
  ∀ (half : Bool) (ps : List (FV × FV)),
    let S := groupSum half ps
    let nan := ∃ p ∈ ps, p.1 = .nan ∨ p.2 = .nan
    let void := ∃ p ∈ ps, (p.1.isInf = true ∧ p.2.zero) ∨ (p.1.zero ∧ p.2.isInf = true)
    let inf (b : Bool) := ∃ p ∈ ps, (p.1.isInf = true ∨ p.2.isInf = true) ∧ (p.1.neg? != p.2.neg?) = b
    let v (p : FV × FV) : Rat := p.1.rat * p.2.rat
    (nan → S = (.nan, false)) ∧
    (¬ nan → void ∨ (inf false ∧ inf true) → S = (.nan, true)) ∧
    (∀ b, ¬ nan → ¬ void → inf b → ¬ inf (!b) → S = (.inf b, false)) ∧
    (¬ nan → ¬ inf false → ¬ inf true → S.2 = false ∧ S.1.isNan = false ∧ S.1.isInf = false ∧
      (half = false → S.1.rat = (ps.map v).sum) ∧
      (half = true → (∀ p ∈ ps, v p = 0) → S.1.rat = 0) ∧
      ∀ E : Int, half = true → (∃ p ∈ ps, (2 : Rat) ^ E ≤ (v p).abs) → (∀ p ∈ ps, (v p).abs < (2 : Rat) ^ (E + 1)) →
        S.1.rat = (ps.map fun p => towardsZero ((2 : Rat) ^ (E - 63)) (v p)).sum)

/-- R231, R243 to R247: element (m, c) of an operation from its old value, group after group. Group j takes the products of its positions of A's row and B's column, or under sparsity of its stored values, each with the element of A at its index in its block of 16. In an integer mode the sum of the products is added and clamped, with SAT. In a float mode block j of the scale arrays gives the scales, 1.0 without an array: one that is no positive normal number is reported and its group contributes nothing; else the group sum times the rounded product of the scales is added with one rounding to A56, with the special cases of R245. -/
def Says.MatrixElement : Prop :=
  ∀ (d : MxData) (m c acc n : Nat) (a b : List Nat), 0 < d.form.g → d.k = n * d.form.g → d.a[m]? = some a → d.b[c]? = some b → acc < 2 ^ 56 →
    a.length = d.k → (d.idx.getD c none = none → b.length = d.k) →
    ∃ x : Nat → MxElem, x 0 = ⟨acc, false, false, false, []⟩ ∧ d.elem m c acc = x n ∧ ∀ j, j < n →
      let G := d.form.g
      let per := G * d.n / 16
      let ps : List (Nat × Nat) := match d.idx.getD c none with
        | none => (List.range G).map fun i => (a.getD (G * j + i) 0, b.getD (G * j + i) 0)
        | some l => (List.range per).map fun i => (a.getD (16 * ((per * j + i) / d.n) + l.getD (per * j + i) 0) 0, b.getD (per * j + i) 0)
      let o := x j
      let r := x (j + 1)
      let t := toSigned 56 o.v + (ps.map fun p => d.form.a.ival p.1 * d.form.b.ival p.2).sum
      let top : Int := if d.form.mode = 3 then 2 ^ 31 else 2 ^ 55
      let S := groupSum (mxHalf d.form.a) (ps.map fun p => (d.form.a.value p.1, d.form.b.value p.2))
      let ia := m * (d.k / 32) + j
      let ib := c * (d.k / 32) + j
      let scale (l : Option (List Nat)) (i : Nat) : Nat := match l with | some l => l.getD i 0 | none => 0x3F800000
      let ok (w : Nat) : Prop := w / 2 ^ 31 = 0 ∧ w / 2 ^ 23 % 256 ≠ 0 ∧ w / 2 ^ 23 % 256 ≠ 255
      let sa := scale d.sa ia
      let sb := scale d.sb ib
      let s := fF32.dec (fF32.op .mul 0 0 sa sb).1
      let A := fA56.dec o.v
      (2 ≤ d.form.mode → r = { o with v := ofSigned 56 (max (-top) (min (top - 1) t)), sat := o.sat || decide (t < -top ∨ top ≤ t) }) ∧
      (d.form.mode < 2 →
        (¬ (ok sa ∧ ok sb) → ∃ l, r = { o with bad := o.bad ++ l } ∧ ((true, ia) ∈ l ↔ ¬ ok sa) ∧ ((false, ib) ∈ l ↔ ¬ ok sb) ∧ ∀ p ∈ l, p = (true, ia) ∨ p = (false, ib)) ∧
        (ok sa → ok sb → r.bad = o.bad ∧ r.sat = o.sat ∧
          (S.1 = .nan → r.v = fA56.nan ∧ r.inv = (o.inv || S.2 && A != .nan) ∧ r.ovf = o.ovf) ∧
          (S.1 ≠ .nan → A = .nan → r.v = fA56.nan ∧ r.inv = o.inv ∧ r.ovf = o.ovf) ∧
          (S.1 ≠ .nan → A ≠ .nan → (S.1.isInf = true ∧ s.zero) ∨ (S.1.zero ∧ s.isInf = true) → r.v = fA56.nan ∧ r.inv = true ∧ r.ovf = o.ovf) ∧
          (∀ p e, S.1 ≠ .nan → fvMul S.1 s = (.inf p, 0) → A = .inf e → p ≠ e → r.v = fA56.nan ∧ r.inv = true ∧ r.ovf = o.ovf) ∧
          (∀ p e, S.1 ≠ .nan → fvMul S.1 s = (.inf p, 0) → A = .inf e → p = e → r.v = fA56.inf e ∧ r.inv = o.inv ∧ r.ovf = o.ovf) ∧
          (∀ p, S.1 ≠ .nan → fvMul S.1 s = (.inf p, 0) → A ≠ .nan → A.isInf = false → r.v = fA56.inf p ∧ r.inv = o.inv ∧ r.ovf = (o.ovf || !S.1.isInf)) ∧
          (∀ e, S.1.finite → s.finite → A = .inf e → r.v = fA56.inf e ∧ r.inv = o.inv ∧ r.ovf = o.ovf) ∧
          (S.1.finite → s.finite → A.finite → let y := A.rat + S.1.rat * s.rat
            r.inv = o.inv ∧ (y = 0 → r.v = 0 ∧ r.ovf = o.ovf) ∧
            (y ≠ 0 → ∃ g k e, (FV.num g k e).rat = y ∧ r.v = (fA56.round 0 false ⟨g, k, e, false⟩).1 ∧ r.ovf = (o.ovf || (fA56.round 0 false ⟨g, k, e, false⟩).2 &&& fOF != 0)))))

/-- u is s with another list of waiting reads in session n (R308). -/
def Says.Turns (s u : State) (n : Nat) (ws : List (Nat × Nat)) : Prop :=
  u = { s with dies := u.dies } ∧ (∀ d, kget Die.reset u.dies d = { kget Die.reset s.dies d with sessions := (kget Die.reset u.dies d).sessions }) ∧
    u.ses? n = (s.ses? n).map (fun x => { x with waits := ws }) ∧ ∀ m, m / 1024 % 4 ≠ n / 1024 % 4 ∨ m % 1024 ≠ n % 1024 → u.ses? m = s.ses? m

/-- The waiting reads of a session once the hart waits too, behind k edits; one that waits already keeps its place. -/
def Says.joined (s : State) (x : Session) (k : Nat) : List (Nat × Nat) := if x.waits.any (·.1 == s.hid) then x.waits else x.waits ++ [(s.hid, k)]
/-- The waiting reads of a session without the hart's. -/
def Says.left (s : State) (x : Session) : List (Nat × Nat) := x.waits.filter (·.1 != s.hid)

/-- The turn of the hart's read has come in session order (R308): no edit that was enqueued before it is unfinished. -/
def Says.AtTurn (s : State) (x : Session) : Prop := match x.waits.find? (·.1 == s.hid) with | some (_, k) => k = 0 | none => x.edits = []

/-- R308: a read whose turn has not come waits, behind the edits enqueued before it. -/
def Says.Turn (s : State) (i : Instr) (n : Nat) (x : Session) : Prop := ¬ Says.AtTurn s x → Ends i s fun t => ∃ u, Says.Turns s u n (Says.joined s x x.edits.length) ∧ WaitsA u t

/-- R305, R318, R319 and R322: what a read through a handle meets first: code 1 for a session that is not open or of another partition; a wait for its turn in session order; code 2 for a layer and code 3 for a block that the session does not have. -/
def Says.HandleGuards (s : State) (i : Instr) (h : W64) (waits : Bool) : Prop :=
  let fault (n : Nat) : Prop := exec i s = .next (s.trapA ⟨0x19, BitVec.ofNat 64 n, 0⟩)
  (s.ses? (bitsN h 63 52) = none → fault 1) ∧
  ∀ x, s.ses? (bitsN h 63 52) = some x →
    (x.part ≠ s.part → fault 1) ∧
    (x.part = s.part →
      (waits = true → Says.Turn s i (bitsN h 63 52) x) ∧
      ((waits = true → Says.AtTurn s x) →
        (bitsN x.w[0] 57 50 + 1 ≤ bitsN h 51 44 → fault 2) ∧
        (bitsN h 51 44 < bitsN x.w[0] 57 50 + 1 → x.nblk ≤ bitsN h 43 31 → fault 3)))

/-- Nothing of `HandleGuards` stops a read: its session, layer and block. -/
def Says.Names (s : State) (h : W64) (waits : Bool) (x : Session) : Prop :=
  s.ses? (bitsN h 63 52) = some x ∧ x.part = s.part ∧ (waits = true → Says.AtTurn s x) ∧
    bitsN h 51 44 < bitsN x.w[0] 57 50 + 1 ∧ bitsN h 43 31 < x.nblk

/-- What one read by the tracker leaves (R203, R207, R343): A of the entry that its walk ends at, no hart and no session changed. -/
def Says.Peek (part : Nat) (a : W64) (u t : State) : Prop :=
  t.hart = u.hart ∧ t.others = u.others ∧ (∀ n, t.ses? n = u.ses? n) ∧
    (∀ f l p, u.walk (bookReq part) a .read = .leaf f l p → SameMemoryBut u t p 8) ∧ ((∀ f l p, u.walk (bookReq part) a .read ≠ .leaf f l p) → SameMemory u t)

/-- R314 and R315: an edit instruction refuses a misaligned record, waits for a quiet hart and for older stream groups, reads the record, refuses a malformed one with code 6 and a foreign session with code 1, and completes with the edit last in the session's order. -/
def Says.EditInstrs : Prop :=
  ∀ (s : State) (a : GReg) (cb : Bool) (i : Instr) (kind : Nat),
    (i = .editChg a ∧ kind = 0 ∧ cb = false) ∨ (i = .editIns a ∧ kind = 1 ∧ cb = false) ∨ (i = .editDel a ∧ kind = 2 ∧ cb = false) ∨ (i = .editApp a cb ∧ kind = 3) →
    let rec_ := s.g a
    (rec_.toNat % 64 ≠ 0 → exec i s = .next (s.trapA ⟨4, 0, rec_⟩)) ∧
    (rec_.toNat % 64 = 0 → s.hart.groupsBefore s.hart.fno = true → WaitsStreams i s (s.hart.queuesBefore s.hart.fno)) ∧
    (rec_.toNat % 64 = 0 → s.hart.groupsBefore s.hart.fno = false → s.hart.quiet = false → Drains i s) ∧
    (∀ t, rec_.toNat % 64 = 0 → s.hart.settled = true → s.readA rec_ 32 = .wait t → Ends i s (WaitsA t)) ∧
    (∀ e t, rec_.toNat % 64 = 0 → s.hart.settled = true → s.readA rec_ 32 = .trap e t → exec i s = .next (t.trapA e)) ∧
    ∀ bs t, rec_.toNat % 64 = 0 → s.hart.settled = true → s.readA rec_ 32 = .ok bs t →
      ∀ w : Vector W64 4, (∀ j (h : j < 4), w[j] = BitVec.ofNat 64 (leNat ((bs.drop (8 * j)).take 8))) →
        let bad := bitsN w[0] 51 21 ≠ 0 ∨ bitsN w[1] 63 21 ≠ 0 ∨ bitsN w[2] 1 0 ≠ 0 ∨ bitsN w[3] 58 56 ≠ 0 ∨ bitsN w[1] 20 0 = 0 ∨
          (kind = 3 ∧ bitsN w[0] 20 0 ≠ 0) ∨ (kind = 2 ∧ w[2] ≠ 0)
        let n := bitsN w[0] 63 52
        (bad → exec i s = .next (t.trapA ⟨0x19, 6, rec_⟩)) ∧
        (¬ bad → (∀ x, t.ses? n = some x → x.part ≠ t.part) → exec i s = .next (t.trapA ⟨0x19, 1, rec_⟩)) ∧
        ∀ x, ¬ bad → t.ses? n = some x → x.part = t.part → Ends i s fun u => ∃ ds, Finishes { t with dies := ds } u ∧
          u.ses? n = some { x with edits := x.edits ++ [⟨kind, rec_, w, cb, x.part⟩] } ∧ ∀ m, m / 1024 % 4 ≠ n / 1024 % 4 ∨ m % 1024 ≠ n % 1024 → u.ses? m = t.ses? m

/-- R305, R308 to R310 and R318 to R322: reads and tracked accesses of Mere. A read takes its turn in session order and leaves the list of waiting reads as it completes; the block's words are read from the slot map and the state array. `dmap` gives the states of 32 blocks from the handle's on, two bits each, and zero beyond the last; `tvers` the state and version of the block. A tracked access of an address off 64 B is misaligned and one beyond the block's stride is code 4. `ldt` waits for a DIRTY or RECOMPUTING block, code 7 where it is held, and for a commit step still to come, and else is a queue load; `ldt.nb` waits for the last only and gives state and version; `stt` is code 5 unless the tag of the hart's task names the block, and else buffers the head of its queue. `settle` completes once no selected block is unsettled. The order of the checks and of the waiting reads is the model's choice (log entry 58). -/
def Says.MereReads : Prop :=
  ∀ (s : State) (d a b : GReg) (q : BitVec 3) (im : BitVec 10),
    let h := s.g a
    let n := bitsN h 63 52
    let l := bitsN h 51 44
    let blk := bitsN h 43 31
    let off := BitVec.ofNat 64 (bitsN h 30 0) + im.signExtend 64 * 64
    let r := s.hart.rq q
    let full := s.hart.streamBusy q = true ∨ 16 ≤ r.ents.length
    (∀ (x : Session) c e, ∃ m, Says.Peek x.part (x.w[2] + BitVec.ofNat 64 (2 * e)) s m ∧
      Says.Peek x.part (x.stAddr (s.blkNum x c e)) m (s.blockRead x c e)) ∧
    (∀ i, i = .dmap d a ∨ i = .tvers d a ∨ (i = .ldt q a im ∧ ¬ full) ∨ i = .ldtNb d q a im → Says.HandleGuards s i h true) ∧ Says.HandleGuards s (.stt q a im) h false ∧
    (∀ x, Says.Names s h true x →
      (Ends (.dmap d a) s fun t => ∃ u v, Says.Turns ((List.range 32).foldl (fun w j => if blk + j < x.nblk then w.blockRead x l (blk + j) else w) s) u n (Says.left s x) ∧
        Writes u t d v ∧ ∀ j, j < 32 → bitsN v (2 * j + 1) (2 * j) = if blk + j < x.nblk then (s.blkGet x (s.blkNum x l (blk + j))).1 else 0) ∧
      (Ends (.tvers d a) s fun t => ∃ u v, Says.Turns (s.blockRead x l blk) u n (Says.left s x) ∧ Writes u t d v ∧ bitsN v 63 62 = (s.blkGet x (s.blkNum x l blk)).1 ∧
        bitsN v 61 32 = 0 ∧ bitsN v 31 0 = (s.blkGet x (s.blkNum x l blk)).2)) ∧
    (∀ x i, ((i = .ldt q a im ∧ ¬ full) ∨ i = .ldtNb d q a im) ∧ Says.Names s h true x ∨ i = .stt q a im ∧ Says.Names s h false x →
      let va := s.handleVa x l blk off
      (off.toNat % 64 ≠ 0 → exec i s = .next (s.trapA ⟨4, 0, va⟩)) ∧
      (off.toNat % 64 = 0 → 2 ^ bitsN (x.layer l)[1] 4 0 ≤ off.toNat → exec i s = .next (s.trapA ⟨0x19, 4, va⟩))) ∧
    (full → Ends (.ldt q a im) s (WaitsA s)) ∧
    (∀ x, Says.Names s h true x → off.toNat % 64 = 0 → off.toNat < 2 ^ bitsN (x.layer l)[1] 4 0 →
      let va := s.handleVa x l blk off
      let z := s.blockRead x l blk
      let k := z.blkNum x l blk
      let st := (z.blkGet x k).1
      let settled := st ≠ 1 ∧ st ≠ 2
      let own := ∃ t m, s.hart.task = some t ∧ t.exclusive = true ∧ t.mere = some m ∧ m.ses = n
      let slot := z.slotOf x blk
      let coming := (∃ c ∈ x.commits, c.layer = l ∧ c.slot = slot) ∨ ∃ c, (.commit c ∈ x.queue ∨ .commit c ∈ x.deferred) ∧ c.layer = l ∧ c.slot = slot
      let late := coming ∧ ¬ own
      let enlists (i : Instr) : Prop := Ends i s fun t => ∃ u, Says.Turns z u n (Says.joined s x 0) ∧ WaitsA u t
      let meets := z.groupAhead z.hart.fno va 64 = true
      (¬ full → ¬ settled → k ∈ x.held → exec (.ldt q a im) s = .next (z.trapA ⟨0x19, 7, va⟩)) ∧
      (¬ full → (¬ settled ∧ k ∉ x.held) ∨ (settled ∧ late) → enlists (.ldt q a im)) ∧
      (full → Ends (.ldtNb d q a im) s (WaitsA z)) ∧
      (¬ full → late → enlists (.ldtNb d q a im)) ∧
      (∀ i, (i = .ldt q a im ∧ settled) ∨ i = .ldtNb d q a im → ¬ full → ¬ late → meets → WaitsStreamsAt i s z (z.queuesAhead z.hart.fno va 64)) ∧
      ∀ m pte, ¬ full → ¬ late → ¬ meets → s.hart.sbuf = [] → s.hart.cbuf = [] → z.access s.me va 64 .read = .ok (.mem m) pte → z.badIn m 64 = false →
        let from_ (ws : List WalkReq) (ds : List (Nat × Die)) : State := { z with dies := ds, regs := (z.niSample va).regs, hart := { s.hart with
          walks := ws, q := s.hart.q.set q.toNat (r.reserved s.hart.fno), flight := s.hart.flight ++ [⟨q, r.tail, s.hart.fno, BitVec.ofNat 512 (z.rdN m 64)⟩] } }
        let goes (u : State) : Prop := ∃ ws ds, WalkNoted s ws va .read ∧ HotOnly z.dies ds ∧ Says.Turns (from_ ws ds) u n (Says.left s x)
        (settled → Ends (.ldt q a im) s fun t => ∃ u, goes u ∧ Finishes u t) ∧
        (Ends (.ldtNb d q a im) s fun t => ∃ u v, goes u ∧ Writes u t d v ∧ bitsN v 63 62 = st ∧ bitsN v 31 0 = (z.blkGet x k).2)) ∧
    (∀ x, Says.Names s h false x → off.toNat % 64 = 0 → off.toNat < 2 ^ bitsN (x.layer l)[1] 4 0 →
      let va := s.handleVa x l blk off
      let z := s.blockRead x l blk
      let own := ∃ t, s.hart.task = some t ∧ (imgTag t.image).toNat = mereTag n l blk
      let buf := !va.getLsbD 63 && s.hart.isBuffered
      let ready := own ∧ s.hart.sstFault q = false ∧ s.hart.streamBusy q = false ∧ r.headFull = true
      let entry (p : Loc) : StoreEnt := ⟨p, va, leBytes 64 (r.slots[r.head.toNat]).toNat, s.hart.fno, false, buf, true, false⟩
      (¬ own → exec (.stt q a im) s = .next (z.trapA ⟨0x19, 5, va⟩)) ∧
      (own → s.hart.sstFault q = true → exec (.stt q a im) s = .next (z.trapA (streamExn s.hart q.toNat))) ∧
      (own → s.hart.sstFault q = false → s.hart.streamBusy q = true ∨ r.headFull = false → Ends (.stt q a im) s (WaitsA z)) ∧
      (ready → 64 ≤ s.hart.sbuf.length → BufferFullAt (.stt q a im) s z) ∧
      (∀ e, ready → s.hart.sbuf.length < 64 → z.access s.me va 64 .write = .trap e → exec (.stt q a im) s = .next ((z.walked s.part va).trapA e)) ∧
      ∀ p pte, ready → s.hart.sbuf.length < 64 → (∀ dev y, p ≠ .remote dev y) → z.access s.me va 64 .write = .ok p pte →
        (z.room (entry p) = false → BufferFullAt (.stt q a im) s z) ∧
        (z.room (entry p) = true → (buf = true → va.toNat / 64 ∈ s.hart.cbufLines ∨ s.hart.cbufLines.length < 1024) →
          Ends (.stt q a im) s fun u => SameMemory z u ∧ ∃ ws, WalkNoted s ws va .write ∧
            Finishes { z with hart := { s.hart with
              walks := ws, q := s.hart.q.set q.toNat r.popped
              undo := if ({ s.hart with walks := ws } : Hart).discardable (s.hart.fno + 1) then .qPop s.hart.fno q r.slots[r.head.toNat] :: s.hart.undo else s.hart.undo
              sbuf := withStore s.hart.sbuf (entry p) } } u)) ∧
    let m := s.g b
    let i : Instr := .settle a b
    (s.ses? n = none → exec i s = .next (s.trapA ⟨0x19, 1, 0⟩)) ∧
    ∀ x, s.ses? n = some x →
      let picked (c : Nat) : Prop := ∃ j, j < 48 ∧ m.getLsbD j = true ∧ c = bitsN m 55 48 + j
      let ls := ((List.range 48).filter fun j => m.getLsbD j).map (bitsN m 55 48 + ·)
      let z := ls.foldl (fun t c => (List.range x.nblk).foldl (fun t e => t.blockRead x c e) t) s
      let open_ (c e : Nat) : Prop := picked c ∧ e < x.nblk ∧ let st := (z.blkGet x (z.blkNum x c e)).1; st = 1 ∨ st = 2 ∨ (st = 3 ∧ m.getLsbD 63 = true)
      (x.part ≠ s.part → exec i s = .next (s.trapA ⟨0x19, 1, 0⟩)) ∧
      (x.part = s.part → Says.Turn s i n x) ∧
      (x.part = s.part → Says.AtTurn s x →
        (bitsN m 62 56 ≠ 0 → exec i s = .next (s.trapA ⟨0x19, 6, 0⟩)) ∧
        (bitsN m 62 56 = 0 → (∃ c, picked c ∧ x.nl ≤ c) → exec i s = .next (s.trapA ⟨0x19, 2, 0⟩)) ∧
        (bitsN m 62 56 = 0 → (∀ c, picked c → c < x.nl) →
          ((∃ c e, open_ c e ∧ z.blkNum x c e ∈ x.held) → exec i s = .next (z.trapA ⟨0x19, 7, 0⟩)) ∧
          ((∀ c e, open_ c e → z.blkNum x c e ∉ x.held) → (∃ c e, open_ c e) → Ends i s fun t => ∃ u, Says.Turns z u n (Says.joined s x 0) ∧ WaitsA u t) ∧
          ((∀ c e, ¬ open_ c e) → Ends i s fun t => ∃ u, Says.Turns z u n (Says.left s x) ∧ Finishes u t)))

/-- R306, R307 and R312: block b of a layer has j among its inputs exactly where b is among the dependents of j; and what an event makes of a block, whose words are read once. A DIRTY block, and a VALID one whose input became DIRTY, stays. Else, where a task in exclusive mode locks the block, the event is deferred; where the block's commit step is still to come, one that dirties it follows that step. Else a dirtied block becomes DIRTY, with its task aborted, and so does a RECOMPUTING one whose input became DIRTY; an AUDITING one is VALID again then. -/
def Says.MereBlocks : Prop :=
  (∀ pat win j b nblk, 0 < win → b < nblk → (j ∈ inputs pat win b ↔ b ∈ dependents pat win j nblk)) ∧
  ∀ (s : State) (n l b : Nat) (own : Bool) (x : Session), s.ses? n = some x →
    let z := s.blockRead x l b
    let k := z.slotOf x b
    let i := l * x.nslot + k
    let st := (z.blkGet x i).1
    let ver := (z.blkGet x i).2
    let ans := s.blkEvent n l b own
    let idle := st = 1 ∨ (st = 0 ∧ own = false)
    let coming := (∃ c ∈ x.commits, c.layer = l ∧ c.slot = k) ∨ ∃ c, (.commit c ∈ x.queue ∨ .commit c ∈ x.deferred) ∧ c.layer = l ∧ c.slot = k
    let again (c : MereCommit) : MereCommit := if c.layer = l ∧ c.slot = k then { c with redirty := true } else c
    let againD (d : MereDefer) : MereDefer := match d with | .commit c => .commit (again c) | d => d
    (idle → ans = (z, false)) ∧
    (¬ idle → z.locked n x l b = true → ans = (z.setSes n (some { x with deferred := x.deferred ++ [.event i own] }), false)) ∧
    (¬ idle → z.locked n x l b = false → coming → (st = 3 ∧ own = false → ans = (z, false)) ∧ (¬ (st = 3 ∧ own = false) →
      ans = (z.setSes n (some { x with commits := x.commits.map again, queue := x.queue.map againD, deferred := x.deferred.map againD }), false))) ∧
    (z.locked n x l b = false → ¬ coming →
      (st = 0 → own = true → ans = (z.blkSet n x i 1 ver, true)) ∧
      (st = 2 ∨ (st = 3 ∧ own = true) → ans = ((z.mereAbort n l k).blkSet n x i 1 ver, true)) ∧
      (st = 3 → own = false → ans = ((z.mereAbort n l k).blkSet n x i 0 ver, false)))

/-- R302, R304, R309, R311 and R315 to R317: the tracker. OPEN and OPEND refuse with RES 1, 3 and 2, in that order, and else open the session with no edit, no commit and no fault; CLOSE waits for exclusive tasks and the predicate and leaves the session closed, its insertions no longer called for and its waiting reads to look; CLEAR clears FAULT, ENDED and the held blocks. An edit at its turn is checked, applied and finished, with the outcome of the check that it fails; one that the predicate judges hands its first token to the lowest free control hart, in user mode at PRED with the token, session, position and argument. An event step takes the event that comes next in session order, else the oldest commit: a commit counts the version and, above the threshold, dirties the dependents, a fault holds its block, each put off where a task in exclusive mode locks what it dirties; the deferred events come next. An insertion takes a block that is wanted, unless an edit's tokens are judged. The order of OPEN's codes and the lowest free control hart are the model's choices (log entries 57 and 59). -/
def Says.MereEvents : Prop :=
  ∀ (s : State) (die : BitVec 2) (ses : BitVec 12) (l b st : Nat) (i : Instr),
    let d := die.toNat
    let cmd := regBase d + 0x2000010
    let m := bitsN (s.getReg (regBase d + 0x2000000)) 11 0
    let part := bitsN (s.getReg cmd) 5 0
    let desc := s.readDesc part (putBits (s.getReg (regBase d + 0x2000008)) 5 0 0)
    let res (n : Nat) : Prop := exec i s = .next (s.setReg cmd (BitVec.ofNat 64 (n * 2 ^ 60)))
    let no (c : Nat) : Prop := Ends i s fun t => t.getReg cmd = BitVec.ofNat 64 (c * 2 ^ 60) ∧ t.ses? m = none ∧ t.hart = s.hart ∧ t.others = s.others
    let n := ses.toNat
    ((i = .mereOpen die ∧ st = 0) ∨ (i = .mereOpend die ∧ st = 1) →
      (m / 1024 ≠ d → res 1) ∧ (m / 1024 = d → s.ses? m ≠ none → res 3) ∧ (m / 1024 = d → s.ses? m = none → desc = none → no 2) ∧
      ∀ w, m / 1024 = d → s.ses? m = none → desc = some w →
        let x := newSession part (putBits (s.getReg (regBase d + 0x2000008)) 5 0 0) w
        let ls := (s.spanSeen part (putBits (s.getReg (regBase d + 0x2000008)) 5 0 0) 72).readLayers x
        (descBad part w = true ∨ ls = none → no 2) ∧
        ∀ es, descBad part w = false → ls = some es → Ends i s fun t => t.getReg cmd = 0 ∧ t.hart = s.hart ∧ t.others = s.others ∧
          ∃ y : Session, t.ses? m = some y ∧ y.part = part ∧ y.ntok = bitsN w[0] 31 10 ∧ y.layers = es ∧ y.edits = [] ∧ y.commits = [] ∧ y.queue = [] ∧ y.deferred = [] ∧ y.held = [] ∧ y.waits = [] ∧ y.fault = false ∧ y.ended = false) ∧
    (i = .mereClose die ∨ i = .mereClear die → (m / 1024 ≠ d → res 1) ∧ (m / 1024 = d → s.ses? m = none → res 4)) ∧
    (∀ x, m / 1024 = d → s.ses? m = some x →
      let busy := (∃ p ∈ s.sesWork m, p.2 = true) ∨ x.pred ≠ none ∨ x.accepted ≠ 0 ∨ x.queue ≠ [] ∨ x.commits ≠ []
      (busy → exec (.mereClose die) s = .next s) ∧
      (¬ busy → Ends (.mereClose die) s fun t => t.ses? m = none ∧ t.getReg cmd = 0 ∧ (∀ p ∈ (t.die d).want, p.1 ≠ m) ∧ t.dev.urgent = s.dev.urgent ++ x.waits.map Prod.fst) ∧
      (Ends (.mereClear die) s fun t => t.getReg cmd = 0 ∧ t.hart = s.hart ∧
        ∃ y : Session, t.ses? m = some y ∧ y.fault = false ∧ y.ended = false ∧ y.held = [] ∧ y.edits = x.edits ∧ y.ntok = x.ntok)) ∧
    (s.ses? n = none → ∀ j, j = .editApply ses ∨ j = .predicateRun ses ∨ j = .predicateTimeout ses ∨ j = .commitStep ses ∨ j = .recomputeInsert ses l b → exec j s = .next s) ∧
    ∀ x, s.ses? n = some x →
      let seen (e : EditReq) : State := (s.mapRead x).tokensSeen x e
      (x.edits = [] → exec (.editApply ses) s = .next s) ∧
      (x.pred ≠ none ∨ x.accepted ≠ 0 ∨ x.queue ≠ [] → exec (.editApply ses) s = .next s) ∧
      (∀ e es, x.edits = e :: es → x.pred = none → x.accepted = 0 → x.queue = [] →
        (∀ c, s.editCheck x e = .error c → exec (.editApply ses) s = .next ((if c = 6 then s.tokensSeen x e else s).editFinish n e c 0 0 0)) ∧
        (x.ntok < e.pos → e.kind = 1 → s.editCheck x e = .error 3) ∧ (x.ntok < e.pos + e.len → e.kind = 0 ∨ e.kind = 2 → s.editCheck x e = .error 3) ∧
        (x.ended = true → 3 ≤ e.kind → s.editCheck x e = .error 5) ∧
        (∀ ts, s.editCheck x e = .ok ts → e.judged x = true → exec (.editApply ses) s = .next { seen e with agenda := .predicateRun ses :: (seen e).agenda }) ∧
        ∀ ts, s.editCheck x e = .ok ts → e.judged x = false → let s0 := seen e; ∃ u, exec (.editApply ses) s = .next (u.editFinish n e 0 e.len 0 0) ∧
          (e.kind = 0 → u = s0.editChg n x e.pos ts) ∧ (e.kind = 1 → u = s0.editIns n x e.pos ts) ∧ (e.kind = 2 → u = s0.editDel n x e.pos e.len) ∧
          (3 ≤ e.kind → u = s0.editApp n x ts)) ∧
      (∀ e es k, x.edits = e :: es → x.pred = none → e.judged x = true → (k < 4 ∧ s.predFree (ctlHart (n / 1024 % 4) k) = true ∧ ∀ j, j < k → s.predFree (ctlHart (n / 1024 % 4) j) = false) →
        Ends (.predicateRun ses) s fun t => let h := t.getHart (ctlHart (n / 1024 % 4) k)
          SameMemory (s.superSeen x.part (e.src + BitVec.ofNat 64 (4 * x.accepted)) 4) t ∧ h.run = .running ∧ h.priv = 0 ∧ h.pc = putBits x.w[6] 2 0 0 ∧ h.reg .partid = BitVec.ofNat 64 x.part ∧
          h.rg 1 = BitVec.ofNat 64 (s.superWord x.part (e.src + BitVec.ofNat 64 (4 * x.accepted)) 4) ∧ h.rg 2 = BitVec.ofNat 64 n ∧ h.rg 3 = BitVec.ofNat 64 x.ntok ∧
          h.rg 4 = x.w[7] ∧ t.ses? n = some { x with pred := some ⟨ctlHart (n / 1024 % 4) k, s.clk, s.getHart (ctlHart (n / 1024 % 4) k), x.accepted⟩ }) ∧
      (∀ p, x.pred = some p → (36000 < (s.clk - p.start).toNat → exec (.predicateTimeout ses) s = .next (s.predEnd n none)) ∧
        ((s.clk - p.start).toNat ≤ 36000 → exec (.predicateTimeout ses) s = .next s)) ∧
      (x.queue = [] → x.commits = [] → exec (.commitStep ses) s = .next s) ∧
      (∀ e es, x.queue = e :: es → exec (.commitStep ses) s = .next ((s.setSes n (some { x with queue := es })).mereEvent n e)) ∧
      (∀ c cs, x.queue = [] → x.commits = c :: cs → exec (.commitStep ses) s = .next ((s.setSes n (some { x with commits := cs })).mereEvent n (.commit c))) ∧
      (∀ e, s.mereEvent n e = ((match e with
        | .commit c => s.commitEvent n c | .fault l k => s.faultEvent n l k | .event i own => s.dirtyEvent n i own).mereNext n).sesLook n) ∧
      ((s.mereFree n).ses? n = some { x with queue := x.deferred ++ x.queue, deferred := [] } ∧ s.mereFree n = { s with dies := (s.mereFree n).dies }) ∧
      (∀ c : MereCommit,
        let k := c.layer * x.nslot + c.slot
        let v := s.blkSet n x k 0 ((s.blkGet x k).2 + 1)
        let above := c.layer + 1 < x.nl ∧ c.thr ≠ 0x7F800000 ∧ c.thr.toNat < c.m.toNat % 2 ^ 31
        (c.audit = false → c.redirty = false → x.nl ≤ c.layer + 1 → s.commitEvent n c = v.mereFree n) ∧
        ∀ b, above → s.logical x c.slot = some b →
          ((∃ e ∈ x.depsOf c.layer b, s.locked n x (c.layer + 1) e = true) → s.commitEvent n c = s.setSes n (some { x with deferred := x.deferred ++ [.commit c] })) ∧
          ((∀ e ∈ x.depsOf c.layer b, s.locked n x (c.layer + 1) e = false) → c.audit = false → v.logical x c.slot = some b →
            let u := (x.depsOf c.layer b).foldl (fun t e => t.mereHit n (c.layer + 1) e) v
            s.commitEvent n c = (if c.redirty then u.mereFirst n [.event k true] else u).mereFree n)) ∧
      (∀ k b, s.logical x k = some b → let i := l * x.nslot + k
        (s.locked n x l b = true → s.faultEvent n l k = s.setSes n (some { x with deferred := x.deferred ++ [.fault l k] })) ∧
        (s.locked n x l b = false → s.faultEvent n l k = (((s.blkSet n x i 1 (s.blkGet x i).2).setSes n
          (some { x with fault := true, held := if x.held.contains i then x.held else i :: x.held })).mereSpread n 256 l [b]).mereFree n)) ∧
      let k := s.blkNum x l b
      let wanted := (n, k) ∈ (s.die (n / 1024 % 4)).want
      (¬ wanted ∨ x.nl ≤ l ∨ x.nblk ≤ b ∨ x.pred ≠ none ∨ x.accepted ≠ 0 → exec (.recomputeInsert ses l b) s = .next s) ∧
      (wanted → l < x.nl → b < x.nblk → x.pred = none → x.accepted = 0 →
        (s.insertable x l b = false → exec (.recomputeInsert ses l b) s = .next (s.unwant n (· == k))) ∧
        (s.insertable x l b = true →
          let z := s.insertRead x l b
          (z.mereInsert n x l b false = .full → exec (.recomputeInsert ses l b) s = .next s) ∧
          (∀ u, z.mereInsert n x l b false = .refused u → exec (.recomputeInsert ses l b) s = .next ((u.unwant n (· == k)).mereEvent n (.fault l (s.slotOf x b)))) ∧
          ∀ u, z.mereInsert n x l b false = .made u → exec (.recomputeInsert ses l b) s = .next ((u.unwant n (· == k)).mereNext n) ∧
            ∃ cl j e, (u.cluster cl).entry j = some e ∧ cl / 512 = n / 1024 ∧ e.part = x.part ∧ e.eff.buffered = true ∧
              (l < 256 → b < 8192 → (imgTag e.image).toNat = 2 ^ 31 + n % 1024 * 2 ^ 21 + l * 2 ^ 13 + b)))

/-- R18, R33, R64, R93, R105 to R108: what operands of B words are. vs1 and vs2 of a v register are its value, vs2 after its lane pattern: rotations within blocks of 32 elements or of all if fewer, a reversal, LPERM within eight, the first or second element of the block, or its neighbour; a queue slot is its value once filled; a constant and the literal are 32-bit scalars. A destination slot of q6 or q7 has room while the queue, with it, fills at most 16. Element 0 of all masks but the first reads v1 to v3. -/
def Says.Operands : Prop :=
  ∀ (h : Hart) (r : VReg) (q : BitVec 3) (n : BitVec 4) (w : Nat) (i : BitVec 6) (x : W32) (hi : Bool) (p : Pat),
    let u := h.rq q
    let o := h.rq (if hi then 7 else 6)
    h.src1 (.v r) = .val (h.rv r) ∧ h.src2 w (.v r .none) = .val (.vec (h.rv r)) ∧
    h.src2 w (.k i) = .val (.scalar (h.rk i)) ∧ h.src2 w (.lit x) = .val (.scalar x) ∧ h.dst (.v r) = .val (h.rv r) ∧
    (∀ f, u.ents[n.toNat]? = some (.fault f) → h.src1 (.q q n) = .fault q ∧ h.src2 w (.q q n) = .fault q) ∧
    ((∀ f, u.ents[n.toNat]? ≠ some (.fault f)) → u.filled ≤ n.toNat → h.src1 (.q q n) = .wait ∧ h.src2 w (.q q n) = .wait) ∧
    ((∀ f, u.ents[n.toNat]? ≠ some (.fault f)) → n.toNat < u.filled →
      h.src1 (.q q n) = .val u.slots[(u.head + n).toNat] ∧ h.src2 w (.q q n) = .val (.vec u.slots[(u.head + n).toNat])) ∧
    (o.ents.length + n.toNat < 16 → h.dst (.q hi n) = .val o.slots[(o.head + BitVec.ofNat 4 o.ents.length + n).toNat]) ∧
    (16 ≤ o.ents.length + n.toNat → h.dst (.q hi n) = .wait) ∧
    (w = 4 ∨ w = 8 ∨ w = 16 ∨ w = 32 ∨ w = 64 → ∃ y, h.src2 w (.v r p) = .val (.vec y) ∧ ∀ k, k < 512 / w →
      let b := min 32 (512 / w)
      let base := k / b * b
      let j := k % b
      V512.at w y k = V512.at w (h.rv r) (match p with
        | .none => k
        | .rot1 => base + (j + 1) % b
        | .rot4 => base + (j + 4) % b
        | .rev => base + (b - 1 - j)
        | .perm8 => base + j / 8 * 8 + bitsN h.bLperm (3 * (j % 8) + 2) (3 * (j % 8))
        | .bc0 => base
        | .bc1 => base + 1
        | .swp => if k % 2 = 0 then k + 1 else k - 1)) ∧
    ∀ (m : BMask) (k : Nat), h.active m k = (m.sel == 0 || (h.rv (m.sel.setWidth 5)).getLsbD k)

/-- R46, R48 to R50: a number that a format holds is written as itself, with no flag, whatever the rounding. -/
def Says.ExactValues : Prop :=
  ∀ f ∈ [fF32, fF16, fBf16, fA56, fL8e4, fL8e5, fL4], ∀ (c rm : Nat) (nanm s : Bool) (m : Nat) (e : Int),
    c < 2 ^ (1 + f.eb + f.mb) → f.dec c = .num s m e → f.round rm nanm ⟨s, m, e, false⟩ = (c, 0)

/-- R47 to R51: a number that is not zero is written into a format rounded once, in the four modes, with overflow (the largest value or infinity, or by `.nan` the NaN code of a narrow format), subnormals and OF, UF and NX as there; a zero is +0 in a narrow format; an infinity written into one is the largest value with OF and NX, or by `.nan` the NaN code with NV; NaN is the canonical one. -/
def Says.Rounding : Prop :=
  ∀ f ∈ [fF32, fF16, fBf16, fA56, fL8e4, fL8e5, fL4], ∀ (rm : Nat) (nanm : Bool) (fl : FFl), rm < 4 →
    (∀ (s : Bool) (m : Nat) (e : Int),
      (m ≠ 0 → Rounded f (f.mb + 1) rm nanm (.of (FV.num s m e).rat) (f.round rm nanm ⟨s, m, e, false⟩)) ∧
      (m = 0 → f.round rm nanm ⟨s, m, e, false⟩ = (if f.ieee then f.sign s else 0, 0)) ∧
      f.put rm nanm (.num s m e, fl) = ((f.round rm nanm ⟨s, m, e, false⟩).1, (f.round rm nanm ⟨s, m, e, false⟩).2 ||| fl)) ∧
    f.put rm nanm (.nan, fl) = (f.nan, fl) ∧
    (f.ieee = true → ∀ s, f.put rm nanm (.inf s, fl) = (f.inf s, fl)) ∧
    (f.ieee = false → ∀ s, f.put rm nanm (.inf s, fl) = if nanm then (f.nan, fl ||| fNV) else (f.largest s, fl ||| fOF ||| fNX))

/-- R47, R112 to R114: floating addition, subtraction, multiplication and the fused forms retire with the exact results of their elements rounded once, under FMODE.RM as the frame's A word saw it, and OR the flags of the active elements into FFLAGS. Zero times infinity gives the canonical NaN with NV whatever the addend; another NaN operand gives it with no flag; opposite infinities give it with NV. A zero sum of opposite signs is +0, under RDN -0; the negated forms negate the exact value before it is rounded. -/
def Says.VectorFloat : Prop :=
  (∀ (s : State) (m : BMask) (d : VDst) (r : VReg) (a : VSrc) (b : VSrc2) (i : Instr) (t : ETy) (f : FFmt) (op : FOp) (z : VDst),
    (z = d ∧ (i, t, f, op) ∈ [(.vaddF32 m d a b, .f32, fF32, .add), (.vaddF16 m d a b, .f16, fF16, .add), (.vaddBf16 m d a b, .bf16, fBf16, .add),
      (.vsubF32 m d a b, .f32, fF32, .sub), (.vsubF16 m d a b, .f16, fF16, .sub), (.vsubBf16 m d a b, .bf16, fBf16, .sub),
      (.vmulF32 m d a b, .f32, fF32, .mul), (.vmulF16 m d a b, .f16, fF16, .mul), (.vmulBf16 m d a b, .bf16, fBf16, .mul)]) ∨
    (z = .v r ∧ (i, t, f, op) ∈ [(.vfmaF32 m r a b, .f32, fF32, .fma), (.vfmaF16 m r a b, .f16, fF16, .fma), (.vfmaBf16 m r a b, .bf16, fBf16, .fma),
      (.vfmsF32 m r a b, .f32, fF32, .fms), (.vfmsF16 m r a b, .f16, fF16, .fms), (.vfmsBf16 m r a b, .bf16, fBf16, .fms),
      (.vfnmaF32 m r a b, .f32, fF32, .fnma), (.vfnmaF16 m r a b, .f16, fF16, .fnma), (.vfnmaBf16 m r a b, .bf16, fBf16, .fnma),
      (.vfnmsF32 m r a b, .f32, fF32, .fnms), (.vfnmsF16 m r a b, .f16, fF16, .fnms), (.vfnmsBf16 m r a b, .bf16, fBf16, .fnms)]) →
    StepsBr s i t m z a b fun o x y k => f.op op s.hart.bRm (V512.at t.width o k) (x k) (y k)) ∧
  ∀ f ∈ [fF32, fF16, fBf16], ∀ (rm d x y : Nat), rm < 4 →
    let D := f.dec d
    let X := f.dec x
    let Y := f.dec y
    let invalid (a b : FV) : Prop := (a.zero ∧ ∃ p, b = .inf p) ∨ (b.zero ∧ ∃ p, a = .inf p)
    IsSum f rm X Y false (f.op .add rm d x y) ∧ IsSum f rm X Y.neg false (f.op .sub rm d x y) ∧
    (invalid X Y → f.op .mul rm d x y = (f.nan, fNV)) ∧
    (¬ invalid X Y → ∀ P, IsProduct X Y P →
      (P = .nan → f.op .mul rm d x y = (f.nan, 0)) ∧ (∀ p, P = .inf p → f.op .mul rm d x y = (f.inf p, 0)) ∧
      (P.finite → P.rat = 0 → f.op .mul rm d x y = (f.zero P.neg?, 0)) ∧
      (P.finite → P.rat ≠ 0 → Rounded f (f.mb + 1) rm false (.of P.rat) (f.op .mul rm d x y))) ∧
    ∀ op B neg, (op, B, neg) ∈ [(FOp.fma, Y, false), (.fms, Y.neg, false), (.fnma, Y, true), (.fnms, Y.neg, true)] →
      (invalid D X → f.op op rm d x y = (f.nan, fNV)) ∧
      (¬ invalid D X → ∀ P, IsProduct D X P → IsSum f rm P B neg (f.op op rm d x y))

/-- R45, R112, R115, R121 to R123: integer arithmetic works modulo 2^w, raises no flag, and reads its operands signed or not by type; shift counts are taken modulo w; `vmulh` gives the high half of the product; `vmix` the Mix of R139. -/
def Says.VectorInteger : Prop :=
  (∀ (c k x y z u : Nat), x = (c + k * 0x9B4D61C3) % 2 ^ 32 → y = (x ^^^ x / 2 ^ 16) * 0x8F3A2C6D % 2 ^ 32 → z = (y ^^^ y / 2 ^ 13) * 0xD1B54A37 % 2 ^ 32 →
    u = (z ^^^ z / 2 ^ 15) * 0xE35A7B1F % 2 ^ 32 → mix c k = u ^^^ u / 2 ^ 16) ∧
  ∀ (s : State) (m : BMask) (d : VDst) (a : VSrc) (b : VSrc2) (i : Instr) (t : ETy) (f : Nat → Nat → Nat),
    let sg (w x : Nat) : Int := (BitVec.ofNat w x).toInt
    (i, t) = (.vaddI32 m d a b, .i32) ∧ f = (fun x y => (x + y) % 2 ^ 32) ∨
    (i, t) = (.vsubI32 m d a b, .i32) ∧ f = (fun x y => (x + 2 ^ 32 - y) % 2 ^ 32) ∨
    (i, t) = (.vmulI32 m d a b, .i32) ∧ f = (fun x y => x * y % 2 ^ 32) ∨
    (i, t) = (.vminI32 m d a b, .i32) ∧ f = (fun x y => if sg 32 x < sg 32 y then x else y) ∨
    (i, t) = (.vminN32 m d a b, .n32) ∧ f = (fun x y => min x y) ∨
    (i, t) = (.vmaxI32 m d a b, .i32) ∧ f = (fun x y => if sg 32 x < sg 32 y then y else x) ∨
    (i, t) = (.vmaxN32 m d a b, .n32) ∧ f = (fun x y => max x y) ∨
    (i, t) = (.vand m d a b, .i32) ∧ f = (fun x y => x &&& y) ∨
    (i, t) = (.vor m d a b, .i32) ∧ f = (fun x y => x ||| y) ∨
    (i, t) = (.vxor m d a b, .i32) ∧ f = (fun x y => x ^^^ y) ∨
    (i, t) = (.vshlI32 m d a b, .i32) ∧ f = (fun x y => (BitVec.ofNat 32 x <<< (y % 32)).toNat) ∨
    (i, t) = (.vshlI64 m d a b, .i64) ∧ f = (fun x y => (BitVec.ofNat 64 x <<< (y % 64)).toNat) ∨
    (i, t) = (.vshrI32 m d a b, .i32) ∧ f = (fun x y => x / 2 ^ (y % 32)) ∨
    (i, t) = (.vshrI64 m d a b, .i64) ∧ f = (fun x y => x / 2 ^ (y % 64)) ∨
    (i, t) = (.vsraI32 m d a b, .i32) ∧ f = (fun x y => ((BitVec.ofNat 32 x).sshiftRight (y % 32)).toNat) ∨
    (i, t) = (.vsraI64 m d a b, .i64) ∧ f = (fun x y => ((BitVec.ofNat 64 x).sshiftRight (y % 64)).toNat) ∨
    (i, t) = (.vmulhI32 m d a b, .i32) ∧ f = (fun x y => (BitVec.ofInt 32 (sg 32 x * sg 32 y / 2 ^ 32)).toNat) ∨
    (i, t) = (.vmulhN32 m d a b, .n32) ∧ f = (fun x y => x * y / 2 ^ 32) ∨
    (i, t) = (.vmulhI16 m d a b, .i16) ∧ f = (fun x y => (BitVec.ofInt 16 (sg 16 x * sg 16 y / 2 ^ 16)).toNat) ∨
    (i, t) = (.vmulhN16 m d a b, .n16) ∧ f = (fun x y => x * y / 2 ^ 16) ∨
    (i, t) = (.vmix m d a b, .n32) ∧ f = mix →
    StepsBr s i t m d a b fun _ x y k => (f (x k) (y k), 0)

/-- R115, R118 and R119: floating minimum and maximum take the operand that is not NaN, with -0 below +0, and raise no flag; the order key is that of R56; a compare writes one mask bit for each element, is false where an operand is NaN (but `vcmpun`), and `vcmplt` and `vcmple` then raise NV; `vsel` takes vs1 where its old destination's mask bit is 1, else vs2. That the flags of a converted scalar operand of a minimum or maximum count (R64), where R115 says none, is the model's choice (log entry 35). -/
def Says.VectorCompare : Prop :=
  ∀ (s : State) (m : BMask) (d : VDst) (r : VReg) (a : VSrc) (b : VSrc2) (i : Instr) (t : ETy),
    ((i, t) ∈ [(.vminF32 m d a b, .f32), (.vminF16 m d a b, .f16), (.vminBf16 m d a b, .bf16)] → StepsBr s i t m d a b fun _ x y k =>
      (if t.isNan (x k) && t.isNan (y k) then t.nan else if t.isNan (x k) then y k else if t.isNan (y k) then x k
        else if orderKey t (x k) < orderKey t (y k) then x k else y k, 0)) ∧
    ((i, t) ∈ [(.vmaxF32 m d a b, .f32), (.vmaxF16 m d a b, .f16), (.vmaxBf16 m d a b, .bf16)] → StepsBr s i t m d a b fun _ x y k =>
      (if t.isNan (x k) && t.isNan (y k) then t.nan else if t.isNan (x k) then y k else if t.isNan (y k) then x k
        else if orderKey t (x k) < orderKey t (y k) then y k else x k, 0)) ∧
    (let un (x y : Nat) : Bool := t.isNan x || t.isNan y
      let same (x y : Nat) : Bool := x == y || ((t.value x).isZero && (t.value y).isZero)
      let less (x y : Nat) : Bool := decide (orderKey t x < orderKey t y) && !same x y
      let nv (x y : Nat) : FFl := if un x y then 1 else 0
      ((i, t) ∈ [(.vcmpeqF32 m d a b, .f32), (.vcmpeqF16 m d a b, .f16), (.vcmpeqBf16 m d a b, .bf16), (.vcmpeqI32 m d a b, .i32), (.vcmpeqN32 m d a b, .n32)] →
        StepsCmp s i t m d a b fun x y => (!un x y && same x y, 0)) ∧
      ((i, t) ∈ [(.vcmpltF32 m d a b, .f32), (.vcmpltF16 m d a b, .f16), (.vcmpltBf16 m d a b, .bf16), (.vcmpltI32 m d a b, .i32), (.vcmpltN32 m d a b, .n32)] →
        StepsCmp s i t m d a b fun x y => (!un x y && less x y, nv x y)) ∧
      ((i, t) ∈ [(.vcmpleF32 m d a b, .f32), (.vcmpleF16 m d a b, .f16), (.vcmpleBf16 m d a b, .bf16), (.vcmpleI32 m d a b, .i32), (.vcmpleN32 m d a b, .n32)] →
        StepsCmp s i t m d a b fun x y => (!un x y && (less x y || same x y), nv x y)) ∧
      ((i, t) ∈ [(.vcmpunF32 m d a b, .f32), (.vcmpunF16 m d a b, .f16), (.vcmpunBf16 m d a b, .bf16)] → StepsCmp s i t m d a b fun x y => (un x y, 0))) ∧
    ((i, t) ∈ [(.vselI8 m r a b, .i8), (.vselI16 m r a b, .i16), (.vselI32 m r a b, .i32), (.vselI64 m r a b, .i64)] →
      StepsBr s i t m (.v r) a b fun o x y k => (if o.getLsbD k then x k else y k, 0)) ∧
    (∀ x y, (BitVec.ofNat 32 x).toInt < (BitVec.ofNat 32 y).toInt → x < 2 ^ 32 → y < 2 ^ 32 → orderKey .i32 x < orderKey .i32 y) ∧
    ∀ x : Nat,
      (∀ f, t.float? = some f → x < 2 ^ t.width → (f.dec x = .nan → orderKey t x = 0) ∧
        (f.dec x ≠ .nan → orderKey t x = if x < 2 ^ (t.width - 1) then x + 2 ^ (t.width - 1) else 2 ^ t.width - 1 - x)) ∧
      (t ∈ [.i8, .i16, .i32, .i64] → orderKey t x = x ^^^ 2 ^ (t.width - 1)) ∧ (t ∈ [.n8, .n16, .n32] → orderKey t x = x)

/-- R124: packed 8-bit arithmetic works on four sub-elements of each of 16 lanes, which the mask selects as one; sums and products are rounded into the narrow format, or clamped to the integer type. -/
def Says.VectorPacked : Prop :=
  ∀ (s : State) (m : BMask) (d : VDst) (a : VSrc) (b : VSrc2) (i : Instr) (t : ETy) (f : FFmt) (mul nanm : Bool),
    let rm := s.hart.bRm
    let run (g : Nat → Nat → Rl) : Prop :=
      Stops s i (s.hart.src1 a) ∧ ∀ x, s.hart.src1 a = .val x → Stops s i (s.hart.src2 32 b) ∧ ∀ y, s.hart.src2 32 b = .val y → Stops s i (s.hart.dst d) ∧
        ∀ o, s.hart.dst d = .val o →
          let r (j : Nat) := g (V512.at 8 x j) (y.at t rm nanm j)
          RetiresLanes s i m 32 d o (fun k => packElems 8 [(r (4 * k)).1, (r (4 * k + 1)).1, (r (4 * k + 2)).1, (r (4 * k + 3)).1])
            (laneFlags s.hart m 16 (fun k => (r (4 * k)).2 ||| (r (4 * k + 1)).2 ||| (r (4 * k + 2)).2 ||| (r (4 * k + 3)).2) ||| y.flags s.hart m 16 t rm nanm)
    ((i, t, f, mul, nanm) ∈ [(.vpaddL8e4 m d a b, .l8e4, fL8e4, false, false), (.vpaddL8e5 m d a b, .l8e5, fL8e5, false, false),
      (.vpaddL8e4Nan m d a b, .l8e4, fL8e4, false, true), (.vpaddL8e5Nan m d a b, .l8e5, fL8e5, false, true),
      (.vpmulL8e4 m d a b, .l8e4, fL8e4, true, false), (.vpmulL8e5 m d a b, .l8e5, fL8e5, true, false),
      (.vpmulL8e4Nan m d a b, .l8e4, fL8e4, true, true), (.vpmulL8e5Nan m d a b, .l8e5, fL8e5, true, true)] →
      run fun x y => f.put rm nanm (if mul then fvMul (f.dec x) (f.dec y) else fvAdd rm (f.dec x) (f.dec y))) ∧
    (nanm = false → (i, t, mul) ∈ [(.vpaddI8 m d a b, .i8, false), (.vpmulI8 m d a b, .i8, true)] → run fun x y =>
      let p := (BitVec.ofNat 8 x).toInt
      let q := (BitVec.ofNat 8 y).toInt
      ((BitVec.ofInt 8 (max (-128) (min 127 (if mul then p * q else p + q)))).toNat, 0)) ∧
    (nanm = false → (i, t, mul) ∈ [(.vpaddN8 m d a b, .n8, false), (.vpmulN8 m d a b, .n8, true)] → run fun x y => (min 255 (if mul then x * y else x + y), 0))

/-- R116, R128 to R132: absolute value and negation act on the sign and give the canonical NaN for a NaN; order keys; the estimates, logarithm and exponential of R129, rounded to nearest whatever FMODE holds; the refinements of R131; temperature scaling, whose T is element 0 of vs2. The model's choice: the flags of a converted scalar operand count (R64), where R116 and R128 say none (log entry 35); how special functions are rounded (log entry 22). -/
def Says.VectorSpecial : Prop :=
  ∀ (s : State) (m : BMask) (d : VDst) (a : VSrc) (b : VSrc2) (t : ETy),
    let rm := s.hart.bRm
    (∀ f, t.float? = some f →
      (StepsB2 s (.vabs m d t b) t rm m d b fun x => (if f.dec x = .nan then f.nan else x % 2 ^ (t.width - 1), 0)) ∧
      (StepsB2 s (.vneg m d t b) t rm m d b fun x => (if f.dec x = .nan then f.nan else x ^^^ 2 ^ (t.width - 1), 0)) ∧
      (∀ i g, (i, g) ∈ [(Instr.vrcpa m d t b, SFn.rcp), (.vrsqa m d t b, .rsq), (.vlog2 m d t b, .log2), (.vexp2 m d t b, .exp2)] →
        StepsB2 s i t 0 m d b (g.apply f))) ∧
    (t.float? = none →
      (StepsB2 s (.vabs m d t b) t rm m d b fun x => ((t.ival x).natAbs % 2 ^ t.width, 0)) ∧
      (StepsB2 s (.vneg m d t b) t rm m d b fun x => ((2 ^ t.width - x % 2 ^ t.width) % 2 ^ t.width, 0)) ∧
      (∀ i, i = .vrcpa m d t b ∨ i = .vrsqa m d t b ∨ i = .vlog2 m d t b ∨ i = .vexp2 m d t b → StepsB2 s i t 0 m d b fun _ => (0, 0))) ∧
    (t ≠ .l4 → StepsB2 s (.vordkey m d t b) t rm m d b fun x => (orderKey t x, 0)) ∧
    (Stops s (.vordkey m d .l4 b) (s.hart.src2 4 b) ∧ ∀ y, s.hart.src2 4 b = .val y → Stops s (.vordkey m d .l4 b) (s.hart.dst d) ∧ ∀ o, s.hart.dst d = .val o →
      RetiresLanes s (.vordkey m d .l4 b) m 8 d o (fun k => orderKey .l4 (y.at .l4 rm false k)) (y.flags s.hart m 64 .l4 rm false)) ∧
    (StepsBr s (.vrcpr m d a b) .f32 m d a b fun _ x y k => refineElem false (x k) (y k)) ∧
    (StepsBr s (.vrsqr m d a b) .f32 m d a b fun _ x y k => refineElem true (x k) (y k)) ∧
    (∀ i u f, (i, u, f) ∈ [(Instr.vtempF32 m d a b, ETy.f32, fF32), (.vtempF16 m d a b, .f16, fF16), (.vtempBf16 m d a b, .bf16, fBf16)] →
      StepsBr s i u m d a b fun _ x y k => tempElem u f rm (greedy u (s.hart.active m) ((List.range (512 / u.width)).map x)) (y 0) (x k) k) ∧
    StepsB2 s (.vmov m d b) .i32 0 m d b fun x => (x, 0)

/-- R129 to R132: what the special functions, the refinements and `vtemp` give. 1/x and 1/√x of FP32 are rounded to nearest at 12 bits, of FP16 and BF16 in the format; the special inputs are those of R130. A refinement gives the exact y + y(1 - xy), or the half of R131, rounded to nearest, beside its special rows. `vtemp` divides by a normal T; the greedy element is the lowest that holds the maximum. That a guarded value is rounded once is the model's reading (log entry 22). -/
def Says.SpecialInputs : Prop :=
  (∀ f ∈ [fF32, fF16, fBf16], ∀ x : Nat,
    let p := if f = fF32 then 12 else f.mb + 1
    let rcp := SFn.rcp.apply f x
    let rsq := SFn.rsq.apply f x
    let log := SFn.log2.apply f x
    let exp := SFn.exp2.apply f x
    let bad : Rl := (f.nan, fNV)
    let v := (f.dec x).rat
    (f.dec x = .nan → rcp = (f.nan, 0) ∧ rsq = (f.nan, 0) ∧ log = (f.nan, 0) ∧ exp = (f.nan, 0)) ∧
    (f.dec x = .inf false → rcp = (0, 0) ∧ rsq = (0, 0) ∧ log = (f.inf false, 0) ∧ exp = (f.inf false, 0)) ∧
    (f.dec x = .inf true → rcp = (f.sign true, 0) ∧ rsq = bad ∧ log = bad ∧ exp = (0, 0)) ∧
    (∀ s e, f.dec x = .num s 0 e → rcp = (f.inf s, fDZ) ∧ rsq = (f.inf s, fDZ) ∧ log = (f.inf true, fDZ) ∧ (f.dec exp.1).rat = 1 ∧ exp.2 = 0) ∧
    ∀ s m e, f.dec x = .num s m e → m ≠ 0 → Rounded f p 0 false (.of (1 / v)) rcp ∧
      (s = true → rsq = bad ∧ log = bad) ∧ (s = false → Rounded f p 0 false (.rsqrt v) rsq)) ∧
  (∀ (root : Bool) (x y : Nat),
    let X := fF32.dec x
    let Y := fF32.dec y
    let r := refineElem root x y
    let z := if root then Y.rat + Y.rat * (1 - X.rat * Y.rat * Y.rat) / 2 else Y.rat + Y.rat * (1 - X.rat * Y.rat)
    (X = .nan ∨ Y = .nan → r = (fF32.nan, 0)) ∧
    (X ≠ .nan → Y.zero ∨ (∃ p, Y = .inf p) → r = (y, 0)) ∧
    (X ≠ .nan → Y.finite → ¬ Y.zero →
      (root = true → X = .inf true ∨ X.rat < 0 → r = (fF32.nan, fNV)) ∧ (root = false → X = .inf true → r = (fF32.inf false, 0)) ∧
      (X.zero ∨ X = .inf false → r = (if root then SFn.rsq else SFn.rcp).apply fF32 x) ∧
      (X.finite → X.rat ≠ 0 → (root = true → 0 < X.rat) → (z ≠ 0 → Rounded fF32 24 0 false (.of z) r) ∧ (z = 0 → r = (0, 0))))) ∧
  ∀ (t : ETy) (f : FFmt), (t, f) ∈ [(.f32, fF32), (.f16, fF16), (.bf16, fBf16)] →
    (∀ (rm : Nat) (best : Option Nat) (tv x i : Nat), rm < 4 →
      let T := f.dec tv
      let X := f.dec x
      let r := tempElem t f rm best tv x i
      (T = .nan ∨ T = .inf true ∨ (∃ m e, T = .num true m e) → r = (f.nan, fNV)) ∧
      (T = .inf false → r = match X with | .nan => (f.nan, 0) | .inf _ => (x, 0) | .num _ _ _ => (0, 0)) ∧
      ∀ m e, T = .num false m e →
        (m < 2 ^ f.mb → r = (f.inf (decide (best ≠ some i)), 0)) ∧
        (2 ^ f.mb ≤ m → (X = .nan → r = (f.nan, 0)) ∧ (∀ p, X = .inf p → r = (f.inf p, 0)) ∧
          (X.finite → (X.rat = 0 → r = (f.zero X.neg?, 0)) ∧ (X.rat ≠ 0 → Rounded f (f.mb + 1) rm false (.of (X.rat / T.rat)) r)))) ∧
    ∀ (act : Nat → Bool) (x : Nat → Nat) (n : Nat),
      let ok (k : Nat) : Prop := k < n ∧ act k = true ∧ t.isNan (x k) = false
      let best := greedy t act ((List.range n).map x)
      ((∀ k, ¬ ok k) → best = none) ∧
      ∀ k, ok k → (∀ j, ok j → orderKey t (x j) ≤ orderKey t (x k) ∧ (j < k → orderKey t (x j) < orderKey t (x k))) → best = some k

/-- R129 and R130: logarithm and exponential, rounded to nearest at 16 bits in FP32, else in the format. The logarithm of a power of 2 and the exponential of an integer are exact; another result is the rounding of a number within 2^-90 of the logarithm, or within a 2^28th part of the exponential, whose overflow and underflow are those of R129. How near the number is to the true value is the model's choice (log entry 22). -/
def Says.LogExp : Prop :=
  ∀ f ∈ [fF32, fF16, fBf16], ∀ (x m : Nat) (s : Bool) (e : Int), f.dec x = .num s m e → m ≠ 0 →
    let p := if f = fF32 then 16 else f.mb + 1
    let v := (f.dec x).rat
    let log := SFn.log2.apply f x
    let exp := SFn.exp2.apply f x
    (s = false →
      (∀ j : Int, v = 2 ^ j → (j = 0 → log = (0, 0)) ∧ (j ≠ 0 → Rounded f p 0 false (.of j) log)) ∧
      ((∀ j : Int, v ≠ 2 ^ j) → ∃ u : Rat, (Cut.log2 v).le (u - 2 ^ (-90 : Int)) ∧ (Cut.log2 v).ge (u + 2 ^ (-90 : Int)) ∧ Rounded f p 0 false (.of u) log)) ∧
    (2001 ≤ v → exp = (f.inf false, fOF ||| fNX)) ∧ (v < -2000 → exp = (0, fUF ||| fNX)) ∧
    (-2000 ≤ v → v < 2001 →
      (∀ j : Int, v = j → Rounded f p 0 false (.of (2 ^ j)) exp) ∧
      ((∀ j : Int, v ≠ j) → ∃ u : Rat, (Cut.exp2 v).le (u * (1 - 2 ^ (-28 : Int))) ∧ (Cut.exp2 v).ge (u * (1 + 2 ^ (-28 : Int))) ∧
        Rounded f p 0 false (.of u) exp))

/-- R135 and R136: `vperm` takes the element of vs1 that vs2 names, `vmerge` alternates vs1 and vs2, `vslide` takes the elements above and zero beyond the end, `vbcast` one element; `vcompress` moves the active elements to the bottom, in order, with zero above. -/
def Says.VectorPermute : Prop :=
  ∀ (s : State) (m : BMask) (d : VDst) (a : VSrc) (b : VSrc2) (i : Instr) (t : ETy) (w : MW) (n : BitVec 7),
    ((i, t) ∈ [(.vpermI8 m d a b, .i8), (.vpermI16 m d a b, .i16), (.vpermI32 m d a b, .i32), (.vpermI64 m d a b, .i64)] →
      StepsBr s i t m d a b fun _ x y k => (x (y k % (512 / t.width)), 0)) ∧
    ((i, t) ∈ [(.vmergeI32 m d a b, .i32), (.vmergeI64 m d a b, .i64)] → StepsBr s i t m d a b fun _ x y k => (if k % 2 = 0 then x (k / 2) else y (k / 2), 0)) ∧
    (let e := 512 / widthOf w
      ∀ j f, (j = .vslide m d w n a ∧ f = fun (x : Nat → Nat) k => if k + n.toNat < e then x (k + n.toNat) else 0) ∨
        (j = .vbcast m d w n a ∧ f = fun (x : Nat → Nat) _ => if n.toNat < e then x n.toNat else 0) →
        Stops s j (s.hart.src1 a) ∧ ∀ x, s.hart.src1 a = .val x → Stops s j (s.hart.dst d) ∧ ∀ o, s.hart.dst d = .val o →
          RetiresLanes s j m (widthOf w) d o (f (V512.at (widthOf w) x)) 0) ∧
    StepsWhole s (.vcompress m d t b) t s.hart.bRm m d b fun x v fl => fl = 0 ∧
      let l := (List.range (512 / t.width)).filter (s.hart.active m)
      ∀ k, k < 512 / t.width → V512.at t.width v k = match l[k]? with | some j => x j | none => 0

/-- R133 and R134: a reduction leaves its result in element 0 and zero above: the sum of the active elements modulo 2^w for an integer type, the greatest or least of them, with the type's other end where none is active; for a floating type the root of the tree of R133, whose nodes join two neighbours or pass on the one that is there, with the flags of its additions; the empty sum is +0, the empty extreme the canonical NaN. `vargmax` and `vargmin` give the value and the index of the lowest active element that holds the extreme, FFFFFFFF where there is none. The model's choice: the flags of a converted scalar operand count (R64), where R134 says none, and a lone NaN gives the canonical NaN (log entry 35). -/
def Says.VectorReduce : Prop :=
  ∀ (s : State) (m : BMask) (d : VDst) (b : VSrc2) (t : ETy) (r : Rnd),
    let n := 512 / t.width
    let rm := s.hart.bRm
    let act := s.hart.active m
    let srm := match r with | .dyn => rm | .rne => 0 | .rtz => 1 | .rup => 2 | .rdn => 3
    (t.float? = none →
      (StepsWhole s (.vredsum m d t r b) t srm m d b fun x v fl => fl = 0 ∧
        v.toNat = (((List.range n).filter act).map x).sum % 2 ^ t.width) ∧
      (StepsWhole s (.vredmax m d t b) t rm m d b fun x v fl => fl = 0 ∧ v.toNat < 2 ^ t.width ∧
        (∀ k, k < n → act k = true → t.ival (x k) ≤ t.ival v.toNat) ∧ ((∃ k, k < n ∧ act k = true ∧ x k = v.toNat) ∨ ((∀ k, k < n → act k = false) ∧ t.ival v.toNat = t.range.1))) ∧
      (StepsWhole s (.vredmin m d t b) t rm m d b fun x v fl => fl = 0 ∧ v.toNat < 2 ^ t.width ∧
        (∀ k, k < n → act k = true → t.ival v.toNat ≤ t.ival (x k)) ∧ ((∃ k, k < n ∧ act k = true ∧ x k = v.toNat) ∨ ((∀ k, k < n → act k = false) ∧ t.ival v.toNat = t.range.2)))) ∧
    (∀ f, t.float? = some f →
      let leaf (keep : Nat → Bool) (x : Nat → Nat) (k : Nat) : Option Nat := if act k && keep (x k) then some (x k) else none
      let pick (max : Bool) (p q : Nat) : Rl := (if decide (orderKey t p < orderKey t q) == max then q else p, 0)
      let gives (op : Nat → Nat → Rl) (keep : Nat → Bool) (empty : Nat) (x : Nat → Nat) (v : V512) (fl : FFl) : Prop :=
        let z := treeNode op (leaf keep x) (Nat.log2 n) 0
        fl = z.2 ∧ v = BitVec.ofNat 512 (match z.1 with | some y => if t.isNan y then t.nan else y | none => empty)
      (StepsWhole s (.vredsum m d t r b) t srm m d b (gives (f.op .add srm 0) (fun _ => true) 0)) ∧
      (StepsWhole s (.vredmax m d t b) t rm m d b (gives (pick true) (fun p => !t.isNan p) t.nan)) ∧
      (StepsWhole s (.vredmin m d t b) t rm m d b (gives (pick false) (fun p => !t.isNan p) t.nan))) ∧
    ∀ i max, (i = .vargmax m d t b ∧ max = true) ∨ (i = .vargmin m d t b ∧ max = false) →
      let ok (x : Nat → Nat) (k : Nat) : Prop := k < n ∧ act k = true ∧ t.isNan (x k) = false
      let before (p q : Nat) : Prop := if max then orderKey t q < orderKey t p else orderKey t p < orderKey t q
      StepsWhole s i t rm m d b fun x v fl => fl = 0 ∧
        ((∀ k, ¬ ok x k) → v.toNat = (if t.float?.isSome then fF32.nan else 0) + 0xFFFFFFFF * 2 ^ 32) ∧
        ∀ k, ok x k → (∀ j, ok x j → ¬ before (x j) (x k)) → (∀ j, j < k → ok x j → before (x k) (x j)) →
          v.toNat = ((if t.float?.isSome then (convert t .f32 0 false (x k)).1 else x k) + k * 2 ^ 32) % 2 ^ 512

/-- R52, R120, R125 to R127: conversions and masks. `vcvt` converts the bottom group, `vpack` moves the old elements down and puts the converted ones above, `vunpack` converts the top group. Mask logic works on the bits of the elements; `mpop` counts the active ones, `mfirst` finds the lowest, FFFFFFFF where there is none. Between f16 and bf16 the model rounds (its choice, log entry 35). -/
def Says.VectorConvert : Prop :=
  ∀ (s : State) (m : BMask) (d a b : VReg) (t u : ETy) (r : Rnd) (nanm : Bool) (w : MW),
    let rm := s.hart.bRm
    let srm := match r with | .dyn => rm | .rne => 0 | .rtz => 1 | .rup => 2 | .rdn => 3
    let n := 512 / t.width
    let e := 512 / u.width
    let x := V512.at u.width (s.hart.rv a)
    let o := V512.at t.width (s.hart.rv d)
    let run (i : Instr) (f : Nat → Rl) : Prop := RetiresLanes s i m t.width (.v d) (s.hart.rv d) (fun k => (f k).1) (laneFlags s.hart m n fun k => (f k).2)
    (run (.vcvt m d t u r nanm a) fun k => if k < 512 / max t.width u.width then convert u t srm nanm (x k) else (0, 0)) ∧
    (t.width ≤ u.width → run (.vpack m d t u r nanm a) fun k => if k < n - e then (o (k + e), 0) else convert u t srm nanm (x (k - (n - e)))) ∧
    (u.width ≤ t.width → run (.vunpack m d t u a) fun k => convert u t rm false (x (e - n + k))) ∧
    let c := 512 / widthOf w
    let p (k : Nat) : Bool := (s.hart.rv a).getLsbD k
    let q (k : Nat) : Bool := (s.hart.rv b).getLsbD k
    (∀ i f, (i = .mand m d a b w ∧ f = fun k => p k && q k) ∨ (i = .mor m d a b w ∧ f = fun k => p k || q k) ∨ (i = .mxor m d a b w ∧ f = fun k => p k != q k) ∨
      (i = .mnot m d b w ∧ f = fun k => !q k) → RetiresBits s i m c (.v d) (s.hart.rv d) f 0) ∧
    let ones := (List.range c).filter fun k => s.hart.active m k && q k
    RetiresWhole s (.mpop m d b w) (.v d) (BitVec.ofNat 512 ones.length) 0 ∧
    (∀ k l, ones = k :: l → RetiresWhole s (.mfirst m d b w) (.v d) (BitVec.ofNat 512 k) 0) ∧
    (ones = [] → RetiresWhole s (.mfirst m d b w) (.v d) 0xFFFFFFFF 0)

/-- R18, R20, R59, R117, R137 and R138: constants, queue advance and the branch queue. `vaddi`, `vmuli` and `vsplat` work on FP32 elements of v0 to v7 with the constant of their 20 bits; `qadv` leaves filled slots of q0 to q5, or hands slots of q6 and q7 on, and waits until it can; `bqput` puts a bit of vs2 into the branch queue unless that holds 16; `nop` retires. The model's choice: `bqput` takes lanes of 32 bits (log entry 23) and tests for a full branch queue before its operand (log entry 25); `vsplat` of a NaN constant gives the canonical NaN (log entry 35). -/
def Says.VectorConstants : Prop :=
  ∀ (s : State) (m : BMask) (lo : BitVec 2) (c : BitVec 20) (q : BitVec 3) (n e : BitVec 5) (b : VSrc2),
    let k := imm20Const c
    let rm := s.hart.bRm
    let run (i : Instr) (d : VReg) (f : Nat → Rl) : Prop :=
      let x := V512.at 32 (s.hart.rv d)
      RetiresLanes s i m 32 (.v d) (s.hart.rv d) (fun j => (f (x j)).1) (laneFlags s.hart m 16 fun j => (f (x j)).2)
    (∀ i (hi : Bool) f, (i = .vaddiLow m lo c ∧ hi = false ∧ f = fun x => fF32.op .add rm 0 x k) ∨ (i = .vaddiHigh m lo c ∧ hi = true ∧ f = fun x => fF32.op .add rm 0 x k) ∨
      (i = .vmuliLow m lo c ∧ hi = false ∧ f = fun x => fF32.op .mul rm 0 x k) ∨ (i = .vmuliHigh m lo c ∧ hi = true ∧ f = fun x => fF32.op .mul rm 0 x k) ∨
      (i = .vsplatLow m lo c ∧ hi = false ∧ f = fun _ => (k, 0)) ∨ (i = .vsplatHigh m lo c ∧ hi = true ∧ f = fun _ => (k, 0)) →
      run i (BitVec.ofNat 5 (lo.toNat + if hi then 4 else 0)) f) ∧
    (fF32.dec (c.toNat * 4096) ≠ .nan → k = c.toNat * 4096) ∧ (fF32.dec (c.toNat * 4096) = .nan → k = 0x7FC00000) ∧
    (let x := s.hart.rq q
      let i : Instr := .qadv q n
      (q.toNat < 6 → (∃ f, .fault f ∈ x.ents.take n.toNat) →
        exec i s = .next (s.trapB ⟨14, streamVal q (s.hart.stream q).next, (s.hart.stream q).groupAddr (s.hart.stream q).next⟩)) ∧
      (q.toNat < 6 → (∀ f, .fault f ∉ x.ents.take n.toNat) → x.filled < n.toNat → Ends i s (WaitsB s)) ∧
      (q.toNat < 6 → (∀ f, .fault f ∉ x.ents.take n.toNat) → n.toNat ≤ x.filled → Ends i s fun t => RetiresB s t 0 ∧ t.hart.v = s.hart.v ∧ t.hart.bq = s.hart.bq ∧
        ∀ p, t.hart.rq p = if p = q then { x with head := x.head + BitVec.ofNat 4 n.toNat, ents := x.ents.drop n.toNat } else s.hart.rq p) ∧
      (6 ≤ q.toNat → 16 < x.ents.length + n.toNat → Ends i s (WaitsB s)) ∧
      (6 ≤ q.toNat → x.ents.length + n.toNat ≤ 16 → Ends i s fun t => RetiresB s t 0 ∧ t.hart.v = s.hart.v ∧ t.hart.bq = s.hart.bq ∧
        ∃ f, ∀ p, t.hart.rq p = if p = q then { x with ents := x.ents ++ List.replicate n.toNat (.full f) } else s.hart.rq p)) ∧
    (16 ≤ s.hart.bq.length → Ends (.bqput e b) s (WaitsB s)) ∧
    (s.hart.bq.length < 16 → Stops s (.bqput e b) (s.hart.src2 32 b) ∧ ∀ y, s.hart.src2 32 b = .val y → Ends (.bqput e b) s fun t => RetiresB s t 0 ∧
      t.hart.v = s.hart.v ∧ t.hart.q = s.hart.q ∧ t.hart.bq = s.hart.bq ++ [match y with | .vec z => z.getLsbD e.toNat | .scalar z => z.getLsbD e.toNat]) ∧
    Ends .nopB s fun t => RetiresB s t 0 ∧ t.hart.v = s.hart.v ∧ t.hart.q = s.hart.q ∧ t.hart.bq = s.hart.bq

/-- R159 (spill): a range handed to a waiting entry that has stayed resident for 90,000 clk is moved into the lowest free run of the spill area of its region, and its pool units are freed; one that finds no area or no run, or whose writes fault, stays resident and is not tried again; one already spilled or tried and one bound more recently stay as they are. That a failed spill is never tried again is the model's choice (log entry 38). -/
def Says.HandSpill : Prop :=
  ∀ (s : State) (k : Nat),
    let cl := k / 512
    let i := Instr.handSpill k
    ((s.cluster cl).entry (k % 512) = none → exec i s = .next s) ∧
    ∀ e, (s.cluster cl).entry (k % 512) = some e →
      (e.hand = none → exec i s = .next s) ∧
      ∀ r, e.hand = some r →
        let n := r.len / 4096
        let run (b : Nat) : Prop := b + n ≤ r.spunits ∧ ∀ p ∈ s.spillUsed r.part r.spill, b + n ≤ p.1 ∨ p.1 + p.2 ≤ b
        let due := e.ctx = none ∧ r.spilled = false ∧ r.tried = false ∧ 90000 ≤ (s.clk - r.bound).toNat
        let bound (t : State) (q : HandRange) : Prop := (t.cluster cl).entry (k % 512) = some { e with hand := some q } ∧
          (∀ j, t.cluster j = { s.cluster j with basin := (t.cluster j).basin, ni := (t.cluster j).ni }) ∧ ∀ j m, ¬ (j = cl ∧ m = k % 512) → (t.cluster j).entry m = (s.cluster j).entry m
        (¬ due → exec i s = .next s) ∧
        (due → r.spunits = 0 ∨ (∀ b, ¬ run b) → Ends i s fun t => t = { s with clus := t.clus } ∧ bound t { r with tried := true }) ∧
        (due → ∀ b, r.spunits ≠ 0 → run b → (∀ c, c < b → ¬ run c) → Ends i s fun t => t.hart = s.hart ∧ t.others = s.others ∧ ∃ q, bound t q ∧
          (∀ c, c ≠ r.core → (t.core c).units = (s.core c).units) ∧
          (q = { r with tried := true } ∧ (t.core r.core).units = (s.core r.core).units ∨
            q = { r with addr := r.spill + BitVec.ofNat 64 (4096 * b), spilled := true, units := [] } ∧
              ∀ m, kget UnitUse.free (t.core r.core).units m = if m ∈ r.units then .free else kget UnitUse.free (s.core r.core).units m))

/-- R164 and R354: one clk of the arbiter of a core, before which every head not tried yet that would wait for a queue is noted as waiting, and no other hart changes. With no ready head no group is granted, and every credit and wait is 0. In any clk a hart without a ready head ends with credit 0, one that is not granted keeps the lesser of 79 and its credit plus VSHARE, and its wait grows by one; at most four groups are granted, each to a ready head, whose hart counts it and notes event 12; the one head with a share that has waited 64 clk gets all that it needs; and no byte of memory and no other core changes. Which corners the arbiter settles how is the model's choice (log entries 62 and 68). -/
def Says.LaneGrant : Prop :=
  ∀ (s : State) (c : Nat),
    let rs := s.laneReqs c
    let g := laneClk (s.core c).credit (s.core c).lwait rs
    (∃ u : State, s.laneClk c = exec (.laneGrant c) u ∧ u = { s with hart := u.hart, others := u.others } ∧ ∀ id, u.getHart id = s.getHart id ∨
      (id ∈ (List.range 4).map (hartOf c) ∧ (s.getHart id).run = .running ∧ (s.getHart id).bStall = none ∧ ∃ w, u.getHart id = (s.getHart id).stallB w)) ∧
    g.2.length ≤ 4 ∧ (∀ n ∈ g.2, ∃ r ∈ rs, r.n = n) ∧
    (∀ r ∈ rs, ∀ n : Fin 4, r.n = n.val → 0 < r.share → 0 < r.need → 64 ≤ (s.core c).lwait[n] → (∀ x ∈ rs, ∀ m : Fin 4, x.n = m.val → x = r ∨ (s.core c).lwait[m] < 64) →
      g.2.count r.n = r.need) ∧
    Ends (.laneGrant c) s fun t =>
      SameMemory s t ∧ (∀ d, d ≠ c → t.core d = s.core d) ∧
      (t.core c).credit = g.1 ∧
      (∀ n, n < 4 → (t.getHart (hartOf c n)).lanes = (s.getHart (hartOf c n)).lanes + g.2.count n ∧
        t.getHart (hartOf c n) = { s.getHart (hartOf c n) with lanes := (t.getHart (hartOf c n)).lanes, regs := (t.getHart (hartOf c n)).regs } ∧
        ∀ r : HReg, r.counter = false → (t.getHart (hartOf c n)).reg r = (s.getHart (hartOf c n)).reg r) ∧
      (∀ n : Fin 4, n.val ∉ rs.map (·.n) → (t.core c).credit[n] = 0 ∧ (t.core c).lwait[n] = 0) ∧
      ∀ r ∈ rs, ∀ n : Fin 4, r.n = n.val → n.val ∉ g.2 →
        (t.core c).credit[n] = min ((s.core c).credit[n] + r.share) 79 ∧ (t.core c).lwait[n] = (s.core c).lwait[n] + 1

/-- R153: the winner of a slice is a selectable entry of it, none has a greater effective priority, and of equals it has the lowest index; the effective priority of a ready entry rises by one every 65,536 clk, by the clock alone. -/
def Says.PriorityPromotion : Prop :=
  (∀ (s : State) (cl i : Nat), exec (.priorityPromotion cl i) s = .next s) ∧
  (∀ (s : State) (cl n : Nat) (e : Entry), kwf none (s.cluster cl).basin = true → s.winner cl = some (n, e) →
    (s.cluster cl).entry n = some e ∧ s.selectable cl e = true ∧
    ∀ m f, (s.cluster cl).entry m = some f → s.selectable cl f = true → f.rank s.clk ≤ e.rank s.clk ∧ (f.rank s.clk = e.rank s.clk → n ≤ m)) ∧
  ∀ (e : Entry) (now r : W64), e.ready = some r → (now - r).toNat < 2 ^ 63 →
    e.rank now = e.eff.prio + (now - r).toNat / 65536 ∧ e.rank (now + 65536) = e.rank now + 1

/-- R26 with the reset columns of R9, R10, R87 and R341: after reset control hart 0 of die 0 alone runs, in machine mode; every other control hart is held, every other hart parked; every g, v and k register is zero, every queue and bq empty with its head at slot 0, the loop stack empty, and every control register at its reset value. Reset memory has its canonical form, and no time has passed. (That memory then reads as zero and that the boot ROM entry is 0 are this model's choices, log entries 6 and 4, and no part of this.) -/
def Says.ResetState : Prop :=
  let s := State.reset
  s.hid = bootHart ∧ s.agenda = [] ∧ s.clk = 0 ∧ Safe s ∧
  (∀ id, (s.getHart id).run = if id = bootHart then .running else if isControl id then .held else .parked) ∧
  (∀ id, (s.getHart id).priv = if isControl id then 3 else 0) ∧
  (∀ id, (s.getHart id).ie = false ∧ (s.getHart id).td = 0) ∧
  ∀ id,
    let h := s.getHart id
    (∀ r, h.rg r = 0) ∧ (∀ r, h.rv r = 0) ∧ (∀ i, h.rk i = 0) ∧ (∀ q, (h.rq q).head = 0 ∧ (h.rq q).ents = []) ∧ h.bq = [] ∧ h.loops = [] ∧
    h.seq = [] ∧ h.sbuf = [] ∧ h.flight = [] ∧
    ∀ r : HReg, r ≠ .status → h.reg r =
      if r = .lperm then 0x00FAC688 else if r = .vshare then 4 else if r = .srep ∨ r = .mrep then 1 else if r = .timecmp then 0xFFFFFFFFFFFFFFFF else 0

/-- The machine never stops: every instruction, event and external action of the table answers a next state, in every state, and so does every step. Every trap is taken (R25), every wait is a next state (R104). -/
def Says.NeverStops : Prop :=
  (∀ (i : Instr) (s : State), ∃ t, exec i s = .next t) ∧ ∀ s : State, ∃ t, step s = .next t

/-- Every step keeps the canonical form of memory, whichever hart, engine or unit acts. -/
def Says.StepCanonical : Prop :=
  ∀ s t : State, Safe s → step s = .next t → Safe t

/-- The current hart is the one that acts: no event is due first, it is an issuing turn, the hart runs and is not halted, no interrupt is pending and enabled, and no pre-emption is asked for. Which hart has the turn is this model's choice (log entry 1). -/
def Says.Acts (s : State) : Prop :=
  s.dev.urgent = [] ∧ s.agenda = [] ∧ s.tick % 4 ≠ 3 ∧ s.hart.run = .running ∧ s.mayIssue s.hid = true ∧ ¬(s.hid = bootHart ∧ s.inRom = true) ∧
    s.irq s.hid = none ∧ s.hart.preAsked = false

/-- The core's access pipeline serves the current hart, and v is s with that noted (R16): no hart in between, from the one served last on, has a frame to issue. A control hart shares its pipeline with none. -/
def Says.Served (s v : State) : Prop :=
  let c := coreOf s.hid
  let x := s.core c
  if s.ctl then v = s else
    v = s.setCore c { x with last := s.hid % 4 } ∧ s.hid < 65536 ∧
      ∃ k, k < 4 ∧ (x.last + 1 + k) % 4 = s.hid % 4 ∧ ∀ j, j < k → s.issues (hartOf c ((x.last + 1 + j) % 4)) = false

/-- A step issues a B word in state u: it completes where its four lane groups are granted, or on a control hart, or waits; else a clk of the arbiter passes (R164). -/
def Says.Issues (s u : State) (j : Instr) : Prop :=
  (u.ctl = true ∨ 4 ≤ u.hart.lanes → step s = advanceOut (exec j u)) ∧
    ∀ t, u.ctl = false → u.hart.lanes < 4 → exec j u = .next t → step s = advanceOut (if t.hart.bStall = none then u.laneClk (coreOf u.hid) else .next t)

/-- What a step adds to what an instruction does: the trace records that nothing can discard any more are written (R379), CYCLE moves on by a number of clk that is free (R9; log entry 3), an open capture counts it (R354, R355), the step is counted; nothing else changes. -/
def Says.TimePasses : Prop :=
  ∀ s : State,
    let u := s.traceDue
    (s.hart.traces = [] → u = s) ∧ u.tick = s.tick ∧ u.clk = s.clk ∧
    s.advance = { u with clk := s.advance.clk, tick := s.tick + 1, hart := s.advance.hart, others := s.advance.others } ∧
    (∃ n, n < 2 ^ 32 ∧ s.advance.clk = s.clk + BitVec.ofNat 64 n) ∧
    ∀ id, s.advance.getHart id = { u.getHart id with regs := (s.advance.getHart id).regs } ∧
      ∀ r : HReg, r.counter = false → r ≠ .capclk → (s.advance.getHart id).reg r = (u.getHart id).reg r

/-- R14 to R16, R57, R69, R70, R81, R155 and R164: a step of the acting hart issues the word at the head of its sequencer, or else runs the instruction that the words at PC decode to, where its core's pipeline serves it; an access or an event that is due comes first. -/
def Says.StepRunsDecoded : Prop :=
  (∀ (s : State) (i : Instr) (rest : List Instr), s.dev.urgent = [] → s.agenda = i :: rest → step s = advanceOut (exec i { s with agenda := rest })) ∧
  (∀ (s : State) (id : Nat) (l : List Nat) (w0 w1 : W32) (i : Instr), s.dev.urgent = id :: l →
    let t := ({ s with dev := { s.dev with urgent := l } } : State).focus id
    let f := decodeFrame w0 w1
    t.hart.fr = some (w0, w1) → t.hart.run = .running → t.hart.trap = none → t.mayIssue id = true → f.a = .op i → i ≠ .nopA →
      (f.b = .absent ∨ t.hart.seq.length < 16) → (needsV i && t.hart.nov) = false → step s = advanceOut (exec i (t.mapHart Hart.wake))) ∧
  (∀ (s : State) (k : Nat) (a : W64), s.hart.pc.getLsbD 63 = false → s.resolveVirt s.me s.hart.pc .fetch = .ok (.mem k) a → s.badIn k 8 = false →
    ∃ ws ds, WalkNoted s ws s.hart.pc .fetch ∧ HotOnly s.dies ds ∧
      s.fetch s.hart.pc = .ok (BitVec.ofNat 32 (s.rdN k 4)) (BitVec.ofNat 32 (s.rdN (k + 4) 4)) { s with dies := ds, hart := { s.hart with walks := ws } }) ∧
  ∀ s v : State, Says.Acts s →
    (∀ e, s.hart.enter = [] → s.hart.seq.head? = some e → s.hart.bStall = none → s.hart.walkUpTo e.fno = false →
      (∀ j, e.slot = .op j → s.hart.nov = false → Says.Issues s s j) ∧
      (∀ j, e.slot = .op j → s.hart.nov = true → step s = .next (s.trapB ⟨2, e.word.setWidth 64, 0⟩).advance) ∧
      ∀ why v, e.slot = .bad why v → step s = .next (s.trapB ⟨2, v.setWidth 64, 0⟩).advance) ∧
    (s.hart.enter = [] → s.hart.seq = [] → s.hart.trap ≠ none → s.hart.flight = [] → step s = advanceOut (exec .trapEntry s)) ∧
    (Says.Served s v → s.hart.enter = [] → (∀ e, s.hart.seq.head? = some e → s.hart.bStall ≠ none ∨ s.hart.walkUpTo e.fno = true) →
      s.hart.trap = none → s.hart.aStall = none → s.hart.redo = none →
      (∀ e t, s.hart.fr = none → v.fetch v.hart.pc = .fault e t → step s = .next ({ t with hart := { t.hart with trap := some e } } : State).advance) ∧
      (∀ t, s.hart.fr = none → v.fetch v.hart.pc = .wait t → step s = .next (t.waitA .other).advance) ∧
      ∀ w0 w1 u0, (s.hart.fr = some (w0, w1) ∧ u0 = v ∨ s.hart.fr = none ∧ v.fetch v.hart.pc = .ok w0 w1 u0) →
        let f := decodeFrame w0 w1
        let u := { u0 with hart := { u0.hart with fr := some (w0, w1) } }
        let alone (word : W32) (lit : Option W32) : Prop :=
          (∀ j, f.b = .op j → s.hart.seq = [] → u.hart.walkUpTo u.hart.fno = false → s.hart.nov = false → Says.Issues s (u.mapHart fun h => h.forward word lit none) j) ∧
          (∀ j, f.b = .op j → s.hart.seq ≠ [] ∨ u.hart.walkUpTo u.hart.fno = true → s.hart.seq.length < 16 → step s = .next (u.mapHart fun h => h.forward word lit none).advance)
        (∀ i, f.a = .op i → (i ≠ .nopA ∨ f.b = .absent) → (f.b = .absent ∨ s.hart.seq.length < 16) → (needsV i && s.hart.nov) = false →
          step s = advanceOut (exec i u)) ∧
        (∀ i, f.a = .op i → i ≠ .nopA → (f.b = .absent ∨ s.hart.seq.length < 16) → (needsV i && s.hart.nov) = true →
          step s = .next ({ u with hart := { u.hart with trap := some ⟨2, w0.setWidth 64, 0⟩ } } : State).advance) ∧
        (∀ why v, f.a = .bad why v → step s = .next ({ u with hart := { u.hart with trap := some ⟨2, v.setWidth 64, 0⟩ } } : State).advance) ∧
        (f.a = .op .nopA → alone w1 none) ∧ (f.a = .absent → alone (w0 &&& 0x3FFFFFFF) (some w1)))

/-- Words that the encoding examples of spec/04 to spec/19 write out, each with the instructions it stands for, and the two illegal frames of spec/04. -/
def Says.WordsDecode : Prop :=
  decodeFrame 0x1908C000 0x03444161 = ⟨.op (.ldq 1 3 (.weak 0)), .op (.vfmaF32 ⟨0, false⟩ 4 (.q 0 0) (.k 1))⟩ ∧
  decodeFrame 0x21114000 0x00480822 = ⟨.op (.rep 4 1 1 0), .op (.vaddF32 ⟨0, false⟩ (.v 8) (.v 4) (.v 2 .rot1))⟩ ∧
  decodeFrame 0x00000000 0x62600804 = ⟨.op .nopA, .op (.vmulF32 ⟨1, true⟩ (.q false 0) (.v 4) (.v 4 .none))⟩ ∧
  decodeFrame 0xDF93FA00 0x00000000 = ⟨.absent, .op (.vsplatHigh ⟨0, false⟩ 1 0x3FA00)⟩ ∧
  decodeFrame 0x97388581 0x00000000 = ⟨.op (.ld 7 2 .i64 (.strong 1 .dev 1)), .absent⟩ ∧
  decodeFrame 0xC34641A0 0x40200000 = ⟨.absent, .op (.vfmaF32 ⟨0, false⟩ 6 (.q 0 0) (.lit 0x40200000))⟩ ∧
  decodeFrame 0x93024004 0x00000000 = ⟨.op (.jalr 0 9 4), .absent⟩ ∧
  decodeFrame 0x81190A14 0x00000000 = ⟨.op (.maxu 3 4 5), .absent⟩ ∧
  decodeFrame 0x88192007 0x00000000 = ⟨.op (.srai 3 4 7), .absent⟩ ∧
  decodeFrame 0x8BB80004 0x000C8003 = ⟨.op (.lihLiteral 23 0x000C8003), .absent⟩ ∧
  decodeFrame 0x96002802 0x00000000 = ⟨.op (.loopi 10 2), .absent⟩ ∧
  decodeFrame 0xA205D150 0x00000000 = ⟨.op (.csrw 23 0x150), .absent⟩ ∧
  decodeFrame 0xA5350A4C 0x00000000 = ⟨.op (.amocasI64 6 20 5 1 .dev), .absent⟩ ∧
  decodeFrame 0xA901C007 0x00000000 = ⟨.op (.sstep 7), .absent⟩ ∧
  decodeFrame 0xABCE8850 0x00000000 = ⟨.op (.mbwait 25 26 4 5), .absent⟩ ∧
  decodeFrame 0xAC245805 0x00000000 = ⟨.op (.mdrain .dev 17 12 0), .absent⟩ ∧
  decodeFrame 0xAD1A0801 0x00000000 = ⟨.op (.cpynb .dev 3 8), .absent⟩ ∧
  decodeFrame 0xAE029805 0x00000000 = ⟨.op (.settle 10 12), .absent⟩ ∧
  decodeFrame 0xAF195400 0x00000000 = ⟨.op (.ldtNb 3 2 5 0), .absent⟩ ∧
  decodeFrame 0xDB086065 0x00000000 = ⟨.absent, .op (.vcvt ⟨0, false⟩ 4 .l8e4 .f32 .rne true 5)⟩ ∧
  decodeFrame 0xDC4221C0 0x00000000 = ⟨.absent, .op (.mand ⟨0, false⟩ 1 2 3 .i32)⟩ ∧
  decodeFrame 0xDC02C383 0x00000000 = ⟨.absent, .op (.vbcast ⟨0, false⟩ (.v 2) .i64 7 (.v 3))⟩ ∧
  decodeFrame 0x00000000 0x034641A0 = ⟨.op .nopA, .bad .literalInPair 0x034641A0⟩ ∧
  decodeFrame 0x8B188000 0xFFFFFFFF = ⟨.bad .allOnes 0xFFFFFFFF, .absent⟩

/-- R57 to R68: every well-formed instruction is what its words decode to, with every operand at every value that its encoding admits; and the decoder answers no instruction that is not well-formed, and no event. -/
def Says.EncodeDecode : Prop :=
  (∀ i : Instr, i.wf = true → i.side ≠ .event → decode (encode i).1 (encode i).2 = some i) ∧
  ∀ w0 w1 i, decode w0 w1 = some i → i.wf = true ∧ i.side ≠ .event

/-- Register arithmetic: every form of major 0x01, its result, its frame and its FUNC. -/
def Obligations.AluRegister : Prop := Says.AluRegister

/-- Immediate and literal arithmetic: results, frame and encodings of majors 0x02 to 0x0A. -/
def Obligations.AluImmediate : Prop := Says.AluImmediate

/-- Branches, jumps and bqb go where the spec says, and write only the link. -/
def Obligations.ControlTransfers : Prop := Says.Branches ∧ Says.JumpsAndBqb ∧ Says.TransferTrace ∧ Says.TakenLoops

/-- Hardware loops and rep: starts, passes and repetitions. -/
def Obligations.HardwareLoops : Prop := Says.LoopStarts ∧ Says.LoopRuns ∧ Says.LoopsNested ∧ Says.RepeatPrefix ∧ Says.RepeatSteps

/-- ld: alignment, value, and no byte of memory changed. -/
def Obligations.Load : Prop := Says.Load

/-- st: alignment, the store buffer, the commit buffer of a buffered task. -/
def Obligations.Store : Prop := Says.Store

/-- What a buffered store does when it is performed, and what its own hart sees before. -/
def Obligations.StoreBuffer : Prop := Says.StorePerformed ∧ Says.StoreCommitted ∧ Says.StoreSeen ∧ Says.StoreOrder

/-- ldq, stq and the landing of a queue load. -/
def Obligations.QueueLoadStore : Prop := Says.QueueLoadStore ∧ Says.LoadLands

/-- Full-empty accesses ldfe, stfe, feclr. -/
def Obligations.FullEmpty : Prop := Says.FullEmpty

/-- Stream instructions and the groups that their units move. -/
def Obligations.Streams : Prop := Says.Streams ∧ Says.StreamGroups

/-- csrr: which registers a mode can read, and what they read. -/
def Obligations.ControlRegisterRead : Prop := Says.ControlRegisterRead

/-- csrw, csrs and csrc bit by bit, and the die barrier table behind BDDATA. -/
def Obligations.ControlRegisterWrite : Prop := Says.ControlRegisterWrite ∧ Says.BarrierTable

/-- ecall and brk take their trap: what it saves and where it goes. -/
def Obligations.EnvironmentCalls : Prop := Says.EnvironmentCalls

/-- eret, and that it undoes a trap entry. -/
def Obligations.ReturnFromTrap : Prop := Says.ReturnFromTrap ∧ Says.TrapThenReturn

/-- Interrupts, held traps, deadlocked streams, the timer, and wfi. -/
def Obligations.TrapEvents : Prop := Says.TrapEvents ∧ Says.WaitForInterrupt

/-- Atomics: alignment, the old value, the stored value, no other byte. -/
def Obligations.Atomics : Prop := Says.Atomics

/-- fence and waitge complete exactly when what they wait for is there. -/
def Obligations.FenceAndWait : Prop := Says.FenceAndWait

/-- Neighbour links and mbwait, and the events that make a waiting word look again. -/
def Obligations.LinksAndMailbox : Prop := Says.NeighbourLinks ∧ Says.MailboxWait ∧ Says.LooksAgain

/-- bar and sstep: arrival, completion and release of barrier domains. -/
def Obligations.Barriers : Prop := Says.BarrierArrival ∧ Says.DieBarrierArrival ∧ Says.BarrierLeave

/-- Timed exchange: xsend, the arrival of a packet, the end of a phase, rebalancing. -/
def Obligations.Exchange : Prop := Says.ExchangeSend ∧ Says.PacketArrives ∧ Says.PhaseAndClock

/-- tspawn and tsig, and the delivery of a signal. -/
def Obligations.SpawnAndSignal : Prop := Says.SpawnAndSignal

/-- hand, and the spill of a range that waits too long. -/
def Obligations.HandOn : Prop := Says.HandOn ∧ Says.HandSpill

/-- halt, halt.retain, tabort, and completion as faulted. -/
def Obligations.TaskEnds : Prop := Says.TaskEnds ∧ Says.TaskFaulted

/-- Selection and dispatch of tasks, and the arbiter of the lane groups. -/
def Obligations.Dispatch : Prop := Says.Dispatch ∧ Says.LaneGrant ∧ Says.PriorityPromotion

/-- tlbinv, what a page walk sets and caches, and the checks of an access. -/
def Obligations.Translation : Prop := Says.TranslationInvalidate ∧ Says.PageWalk ∧ Says.AccessChecks

/-- ctxsave, ctxrest and yield. -/
def Obligations.Contexts : Prop := Says.Contexts

/-- A context image gives back the registers that it was made from. -/
def Obligations.ContextRoundTrip : Prop := Says.ContextRoundTrip

/-- capstart and capstop. -/
def Obligations.Capture : Prop := Says.Capture

/-- Pre-emption: the request, the cut, the saved context; SOFTINT. -/
def Obligations.Preemption : Prop := Says.Preemption ∧ Says.PreemptAndSoftint

/-- What the host reads, writes and commands. -/
def Obligations.HostAccess : Prop := Says.HostMemory ∧ Says.HostCommands

/-- Reads and writes of the register space. -/
def Obligations.Registers : Prop := Says.RegisterTables ∧ Says.Registers

/-- Snapshots, monitors, hotness and the link grid. -/
def Obligations.Observability : Prop := Says.Observability

/-- Halting a core, resuming it and stepping it. -/
def Obligations.DebugHalt : Prop := Says.DebugHalt

/-- Dumps: start, copy of a unit, end and abort. -/
def Obligations.Dumps : Prop := Says.Dumps

/-- Device reset, power and clocks, recovery and attestation. -/
def Obligations.PowerAndBoot : Prop := Says.PowerAndBoot

/-- Requests from other devices and other cores. -/
def Obligations.Fabric : Prop := Says.Fabric ∧ Says.RemoteRequests

/-- Migration of frames between device and host memory. -/
def Obligations.Migration : Prop := Says.Migration

/-- What the instructions of the matrix array check and queue. -/
def Obligations.MatrixPushes : Prop := Says.MatrixPushes

/-- What queued matrix commands do, and what an operation accumulates: integer and float, scaled and sparse. -/
def Obligations.MatrixCommands : Prop := Says.MatrixCommands ∧ Says.MatrixProduct ∧ Says.MatrixGroupSum ∧ Says.MatrixElement

/-- mxsave and mxrest. -/
def Obligations.MatrixSave : Prop := Says.MatrixSave

/-- cpy and cpynb: checks, queue and full queue. -/
def Obligations.CopyInstrs : Prop := Says.CopyInstrs

/-- The copy engine, and what an engine access does. -/
def Obligations.CopyEngine : Prop := Says.CopyEngine ∧ Says.EngineAccess

/-- engpush and engpop, and what a Tarn array does with a command. -/
def Obligations.Tarn : Prop := Says.TarnInstrs ∧ Says.TarnArray

/-- sel and selwait, and what Flint selects. -/
def Obligations.Flint : Prop := Says.FlintInstrs ∧ Says.Flint

/-- Edits, tracked reads and stores, dmap, tvers and settle. -/
def Obligations.MereInstrs : Prop := Says.EditInstrs ∧ Says.MereReads

/-- The tracker: sessions, edits, block states. -/
def Obligations.MereEvents : Prop := Says.MereEvents ∧ Says.MereBlocks

/-- Operands of B words; numbers written into a format, exact and rounded. -/
def Obligations.OperandsAndExactValues : Prop := Says.ExactValues ∧ Says.Rounding ∧ Says.Operands

/-- Floating-point addition, multiplication and fused forms. -/
def Obligations.VectorFloat : Prop := Says.VectorFloat

/-- Integer vector arithmetic, logic and shifts; permutes, slides, broadcasts and compression. -/
def Obligations.VectorInteger : Prop := Says.VectorInteger ∧ Says.VectorPermute

/-- Minimum, maximum, compares and selection. -/
def Obligations.VectorCompare : Prop := Says.VectorCompare

/-- Packed 8-bit arithmetic; special functions, refinements and temperatures. -/
def Obligations.VectorPacked : Prop := Says.VectorPacked ∧ Says.VectorSpecial ∧ Says.SpecialInputs

/-- Logarithm and exponential: exact where they are, else as near as stated. -/
def Obligations.LogExp : Prop := Says.LogExp

/-- Reductions and arg reductions. -/
def Obligations.VectorReduce : Prop := Says.VectorReduce

/-- Conversions, mask logic, constants, qadv and bqput. -/
def Obligations.VectorConvert : Prop := Says.VectorConvert ∧ Says.VectorConstants

/-- The machine right after reset. -/
def Obligations.ResetState : Prop := Says.ResetState

/-- Every instruction and every step answers a next state. -/
def Obligations.NeverStops : Prop := Says.NeverStops

/-- Every step keeps the canonical form of memory. -/
def Obligations.StepCanonical : Prop := Says.StepCanonical

/-- A step runs the instruction that the words at PC decode to, and time passes. -/
def Obligations.StepRunsDecoded : Prop := Says.StepRunsDecoded ∧ Says.TimePasses

/-- Words written out in the spec decode to their instructions. -/
def Obligations.WordsDecode : Prop := Says.WordsDecode

/-- Decoding an encoded instruction gives it back; the decoder answers well-formed ones only. -/
def Obligations.EncodeDecode : Prop := Says.EncodeDecode
end

