-- ==== Sys2Proof/Laws/Map.lean ====
section
/-! SUPPORT. Laws of the sorted maps: what a read finds after a write, that writes keep the canonical form, and that a canonical map is determined by its reads. -/
namespace Sys2Proof.Machine

theorem kget_kput {α : Type} (d : α) (m : List (Nat × α)) (x y : Nat) (v : α) :
    kget d (kput m x v) y = if y = x then v else kget d m y := by
  induction m with
  | nil => simp [kput, kget]
  | cons p m ih =>
    simp only [kput]
    split
    · simp [kget]
    · split <;> simp only [kget] <;> repeat' split
      all_goals simp_all

theorem kget_kdel {α : Type} (d : α) (m : List (Nat × α)) (x y : Nat) :
    kget d (kdel m x) y = if y = x then d else kget d m y := by
  induction m with
  | nil => simp [kdel, kget]
  | cons p m ih =>
    unfold kdel at ih ⊢
    by_cases h : p.1 = x
    · rw [List.filter_cons_of_neg (by simpa using h), ih]
      by_cases e : y = x <;> simp [kget, e]
      exact fun h' => absurd (h'.trans h) e
    · rw [List.filter_cons_of_pos (by simpa using h)]
      simp only [kget, ih]
      by_cases e : y = x
      · simp [e]; exact fun h' => absurd h'.symm h
      · simp [e]

@[simp] theorem kget_kset {α : Type} [DecidableEq α] (d : α) (m : List (Nat × α)) (x y : Nat) (v : α) :
    kget d (kset d m x v) y = if y = x then v else kget d m y := by
  unfold kset
  split
  · subst_vars; exact kget_kdel ..
  · exact kget_kput ..

/-- All keys of a map are above a bound. -/
def keysAbove {α : Type} (b : Nat) (m : List (Nat × α)) : Prop := ∀ p ∈ m, b < p.1

theorem kwf_cons {α : Type} [DecidableEq α] {d : α} {k : Nat} {v : α} {m : List (Nat × α)} :
    kwf d ((k, v) :: m) = true ↔ v ≠ d ∧ keysAbove k m ∧ kwf d m = true := by
  induction m generalizing k v with
  | nil => simp [kwf, keysAbove]
  | cons p m ih =>
    obtain ⟨k', v'⟩ := p
    simp only [kwf, Bool.and_eq_true, decide_eq_true_eq, bne_iff_ne, keysAbove, List.mem_cons, forall_eq_or_imp]
    constructor
    · rintro ⟨⟨h1, h2⟩, h3⟩
      exact ⟨h2, ⟨h1, fun p hp => Nat.lt_trans h1 ((ih.1 h3).2.1 p hp)⟩, h3⟩
    · rintro ⟨h2, ⟨h1, -⟩, h3⟩
      exact ⟨⟨h1, h2⟩, h3⟩

theorem keysAbove_kput {α : Type} {b x : Nat} {v : α} {m : List (Nat × α)} (hm : keysAbove b m) (hx : b < x) :
    keysAbove b (kput m x v) := by
  induction m with
  | nil => intro p hp; simp [kput] at hp; subst hp; exact hx
  | cons q m ih =>
    have hq : b < q.1 := hm q (by simp)
    have ht : keysAbove b m := fun p hp => hm p (by simp [hp])
    intro p hp
    simp only [kput] at hp
    split at hp
    · rcases List.mem_cons.1 hp with rfl | hp
      · exact hx
      · exact hm p hp
    · split at hp
      · rcases List.mem_cons.1 hp with rfl | hp
        · exact hx
        · exact ht p hp
      · rcases List.mem_cons.1 hp with rfl | hp
        · exact hq
        · exact ih ht p hp

theorem kwf_kput {α : Type} [DecidableEq α] {d : α} {m : List (Nat × α)} (x : Nat) {v : α} (hv : v ≠ d) (h : kwf d m = true) :
    kwf d (kput m x v) = true := by
  induction m with
  | nil => simpa [kput, kwf] using hv
  | cons q m ih =>
    obtain ⟨k, u⟩ := q
    obtain ⟨hu, hk, hm⟩ := kwf_cons.1 h
    simp only [kput]
    split
    · rename_i hx
      refine kwf_cons.2 ⟨hv, ?_, h⟩
      intro p hp
      rcases List.mem_cons.1 hp with rfl | hp
      · exact hx
      · exact Nat.lt_trans hx (hk p hp)
    · split
      · rename_i hx; subst hx
        exact kwf_cons.2 ⟨hv, hk, hm⟩
      · exact kwf_cons.2 ⟨hu, keysAbove_kput hk (by omega), ih hm⟩

theorem kwf_filter {α : Type} [DecidableEq α] {d : α} {m : List (Nat × α)} (p : Nat × α → Bool) (h : kwf d m = true) :
    kwf d (m.filter p) = true := by
  induction m with
  | nil => rfl
  | cons q m ih =>
    obtain ⟨hu, hk, hm⟩ := kwf_cons.1 h
    rw [List.filter_cons]
    split
    · exact kwf_cons.2 ⟨hu, fun r hr => hk r (List.mem_filter.1 hr).1, ih hm⟩
    · exact ih hm

/-- A write keeps the canonical form. -/
theorem kwf_kset {α : Type} [DecidableEq α] {d : α} {m : List (Nat × α)} (x : Nat) (v : α) (h : kwf d m = true) :
    kwf d (kset d m x v) = true := by
  unfold kset
  split
  · exact kwf_filter _ h
  · exact kwf_kput x ‹_› h

theorem kget_of_keysAbove {α : Type} (d : α) {b y : Nat} {m : List (Nat × α)} (h : keysAbove b m) (hy : y ≤ b) : kget d m y = d := by
  induction m with
  | nil => rfl
  | cons q m ih =>
    have hq : b < q.1 := h q (by simp)
    simp only [kget]
    rw [if_neg (by omega)]
    exact ih fun p hp => h p (by simp [hp])

/-- A write of the value that a canonical map already holds changes nothing. -/
theorem kset_self {α : Type} [DecidableEq α] {d : α} {m : List (Nat × α)} (x : Nat) (h : kwf d m = true) : kset d m x (kget d m x) = m := by
  induction m with
  | nil => simp [kset, kget, kdel]
  | cons q m ih =>
    obtain ⟨k, u⟩ := q
    obtain ⟨hu, hk, hm⟩ := kwf_cons.1 h
    simp only [kget]
    by_cases hx : x = k
    · subst hx; simp [kset, hu, kput]
    · simp only [hx, if_false]
      have := ih hm
      unfold kset at this ⊢
      split
      · rename_i h0
        simp only [h0, if_true] at this
        unfold kdel at this ⊢
        rw [List.filter_cons_of_pos (by simpa using fun h => hx h.symm), this]
      · rename_i h0
        simp only [h0, if_false] at this
        have hlt : ¬ x < k := fun hl => h0 (kget_of_keysAbove d hk (by omega))
        simp [kput, hlt, hx, this]

end Sys2Proof.Machine
end

