-- ==== Sys2Proof/Laws/State.lean ====
section
/-! SUPPORT. What each named update of the state and of a hart does to each field, and what each named read finds after it. -/
namespace Sys2Proof.Machine

section
variable (s : State) (f : Hart → Hart)
@[simp] theorem State.mapHart_hid : (s.mapHart f).hid = s.hid := rfl
@[simp] theorem State.mapHart_hart : (s.mapHart f).hart = f s.hart := rfl
@[simp] theorem State.mapHart_others : (s.mapHart f).others = s.others := rfl
@[simp] theorem State.mapHart_cores : (s.mapHart f).cores = s.cores := rfl
@[simp] theorem State.mapHart_clus : (s.mapHart f).clus = s.clus := rfl
@[simp] theorem State.mapHart_dies : (s.mapHart f).dies = s.dies := rfl
@[simp] theorem State.mapHart_mem : (s.mapHart f).mem = s.mem := rfl
@[simp] theorem State.mapHart_full : (s.mapHart f).full = s.full := rfl
@[simp] theorem State.mapHart_bad : (s.mapHart f).bad = s.bad := rfl
@[simp] theorem State.mapHart_tags : (s.mapHart f).tags = s.tags := rfl
@[simp] theorem State.mapHart_regs : (s.mapHart f).regs = s.regs := rfl
@[simp] theorem State.mapHart_parts : (s.mapHart f).parts = s.parts := rfl
@[simp] theorem State.mapHart_dev : (s.mapHart f).dev = s.dev := rfl
@[simp] theorem State.mapHart_clk : (s.mapHart f).clk = s.clk := rfl
@[simp] theorem State.mapHart_tick : (s.mapHart f).tick = s.tick := rfl
@[simp] theorem State.mapHart_fv : (s.mapHart f).fv = s.fv := rfl
@[simp] theorem State.mapHart_agenda : (s.mapHart f).agenda = s.agenda := rfl
end

section
variable (s : State) (c : Nat) (x : Core)
@[simp] theorem State.setCore_hid : (s.setCore c x).hid = s.hid := rfl
@[simp] theorem State.setCore_hart : (s.setCore c x).hart = s.hart := rfl
@[simp] theorem State.setCore_others : (s.setCore c x).others = s.others := rfl
@[simp] theorem State.setCore_cores : (s.setCore c x).cores = kset Core.reset s.cores c x := rfl
@[simp] theorem State.setCore_clus : (s.setCore c x).clus = s.clus := rfl
@[simp] theorem State.setCore_dies : (s.setCore c x).dies = s.dies := rfl
@[simp] theorem State.setCore_mem : (s.setCore c x).mem = s.mem := rfl
@[simp] theorem State.setCore_full : (s.setCore c x).full = s.full := rfl
@[simp] theorem State.setCore_bad : (s.setCore c x).bad = s.bad := rfl
@[simp] theorem State.setCore_tags : (s.setCore c x).tags = s.tags := rfl
@[simp] theorem State.setCore_regs : (s.setCore c x).regs = s.regs := rfl
@[simp] theorem State.setCore_parts : (s.setCore c x).parts = s.parts := rfl
@[simp] theorem State.setCore_dev : (s.setCore c x).dev = s.dev := rfl
@[simp] theorem State.setCore_clk : (s.setCore c x).clk = s.clk := rfl
@[simp] theorem State.setCore_tick : (s.setCore c x).tick = s.tick := rfl
@[simp] theorem State.setCore_fv : (s.setCore c x).fv = s.fv := rfl
@[simp] theorem State.setCore_agenda : (s.setCore c x).agenda = s.agenda := rfl
end

section
variable (s : State) (c : Nat) (x : Cluster)
@[simp] theorem State.setCluster_hid : (s.setCluster c x).hid = s.hid := rfl
@[simp] theorem State.setCluster_hart : (s.setCluster c x).hart = s.hart := rfl
@[simp] theorem State.setCluster_others : (s.setCluster c x).others = s.others := rfl
@[simp] theorem State.setCluster_cores : (s.setCluster c x).cores = s.cores := rfl
@[simp] theorem State.setCluster_clus : (s.setCluster c x).clus = kset Cluster.reset s.clus c x := rfl
@[simp] theorem State.setCluster_dies : (s.setCluster c x).dies = s.dies := rfl
@[simp] theorem State.setCluster_mem : (s.setCluster c x).mem = s.mem := rfl
@[simp] theorem State.setCluster_full : (s.setCluster c x).full = s.full := rfl
@[simp] theorem State.setCluster_bad : (s.setCluster c x).bad = s.bad := rfl
@[simp] theorem State.setCluster_tags : (s.setCluster c x).tags = s.tags := rfl
@[simp] theorem State.setCluster_regs : (s.setCluster c x).regs = s.regs := rfl
@[simp] theorem State.setCluster_parts : (s.setCluster c x).parts = s.parts := rfl
@[simp] theorem State.setCluster_dev : (s.setCluster c x).dev = s.dev := rfl
@[simp] theorem State.setCluster_clk : (s.setCluster c x).clk = s.clk := rfl
@[simp] theorem State.setCluster_tick : (s.setCluster c x).tick = s.tick := rfl
@[simp] theorem State.setCluster_fv : (s.setCluster c x).fv = s.fv := rfl
@[simp] theorem State.setCluster_agenda : (s.setCluster c x).agenda = s.agenda := rfl
end

section
variable (s : State) (d : Nat) (x : Die)
@[simp] theorem State.setDie_hid : (s.setDie d x).hid = s.hid := rfl
@[simp] theorem State.setDie_hart : (s.setDie d x).hart = s.hart := rfl
@[simp] theorem State.setDie_others : (s.setDie d x).others = s.others := rfl
@[simp] theorem State.setDie_cores : (s.setDie d x).cores = s.cores := rfl
@[simp] theorem State.setDie_clus : (s.setDie d x).clus = s.clus := rfl
@[simp] theorem State.setDie_dies : (s.setDie d x).dies = kset Die.reset s.dies d x := rfl
@[simp] theorem State.setDie_mem : (s.setDie d x).mem = s.mem := rfl
@[simp] theorem State.setDie_full : (s.setDie d x).full = s.full := rfl
@[simp] theorem State.setDie_bad : (s.setDie d x).bad = s.bad := rfl
@[simp] theorem State.setDie_tags : (s.setDie d x).tags = s.tags := rfl
@[simp] theorem State.setDie_regs : (s.setDie d x).regs = s.regs := rfl
@[simp] theorem State.setDie_parts : (s.setDie d x).parts = s.parts := rfl
@[simp] theorem State.setDie_dev : (s.setDie d x).dev = s.dev := rfl
@[simp] theorem State.setDie_clk : (s.setDie d x).clk = s.clk := rfl
@[simp] theorem State.setDie_tick : (s.setDie d x).tick = s.tick := rfl
@[simp] theorem State.setDie_fv : (s.setDie d x).fv = s.fv := rfl
@[simp] theorem State.setDie_agenda : (s.setDie d x).agenda = s.agenda := rfl
end

section
variable (s : State) (p : Nat) (x : Part)
@[simp] theorem State.setPrt_hid : (s.setPrt p x).hid = s.hid := rfl
@[simp] theorem State.setPrt_hart : (s.setPrt p x).hart = s.hart := rfl
@[simp] theorem State.setPrt_others : (s.setPrt p x).others = s.others := rfl
@[simp] theorem State.setPrt_cores : (s.setPrt p x).cores = s.cores := rfl
@[simp] theorem State.setPrt_clus : (s.setPrt p x).clus = s.clus := rfl
@[simp] theorem State.setPrt_dies : (s.setPrt p x).dies = s.dies := rfl
@[simp] theorem State.setPrt_mem : (s.setPrt p x).mem = s.mem := rfl
@[simp] theorem State.setPrt_full : (s.setPrt p x).full = s.full := rfl
@[simp] theorem State.setPrt_bad : (s.setPrt p x).bad = s.bad := rfl
@[simp] theorem State.setPrt_tags : (s.setPrt p x).tags = s.tags := rfl
@[simp] theorem State.setPrt_regs : (s.setPrt p x).regs = s.regs := rfl
@[simp] theorem State.setPrt_parts : (s.setPrt p x).parts = kset ⟨0, 0⟩ s.parts p x := rfl
@[simp] theorem State.setPrt_dev : (s.setPrt p x).dev = s.dev := rfl
@[simp] theorem State.setPrt_clk : (s.setPrt p x).clk = s.clk := rfl
@[simp] theorem State.setPrt_tick : (s.setPrt p x).tick = s.tick := rfl
@[simp] theorem State.setPrt_fv : (s.setPrt p x).fv = s.fv := rfl
@[simp] theorem State.setPrt_agenda : (s.setPrt p x).agenda = s.agenda := rfl
end

section
variable (s : State) (pa : Nat) (x : W64)
@[simp] theorem State.setReg_hid : (s.setReg pa x).hid = s.hid := rfl
@[simp] theorem State.setReg_hart : (s.setReg pa x).hart = s.hart := rfl
@[simp] theorem State.setReg_others : (s.setReg pa x).others = s.others := rfl
@[simp] theorem State.setReg_cores : (s.setReg pa x).cores = s.cores := rfl
@[simp] theorem State.setReg_clus : (s.setReg pa x).clus = s.clus := rfl
@[simp] theorem State.setReg_dies : (s.setReg pa x).dies = s.dies := rfl
@[simp] theorem State.setReg_mem : (s.setReg pa x).mem = s.mem := rfl
@[simp] theorem State.setReg_full : (s.setReg pa x).full = s.full := rfl
@[simp] theorem State.setReg_bad : (s.setReg pa x).bad = s.bad := rfl
@[simp] theorem State.setReg_tags : (s.setReg pa x).tags = s.tags := rfl
@[simp] theorem State.setReg_regs : (s.setReg pa x).regs = kset (regReset (pa / 8)) s.regs (pa / 8) x := rfl
@[simp] theorem State.setReg_parts : (s.setReg pa x).parts = s.parts := rfl
@[simp] theorem State.setReg_dev : (s.setReg pa x).dev = s.dev := rfl
@[simp] theorem State.setReg_clk : (s.setReg pa x).clk = s.clk := rfl
@[simp] theorem State.setReg_tick : (s.setReg pa x).tick = s.tick := rfl
@[simp] theorem State.setReg_fv : (s.setReg pa x).fv = s.fv := rfl
@[simp] theorem State.setReg_agenda : (s.setReg pa x).agenda = s.agenda := rfl
end

section
variable (s : State) (k : Nat) (b : Byte)
@[simp] theorem State.wrB_hid : (s.wrB k b).hid = s.hid := rfl
@[simp] theorem State.wrB_hart : (s.wrB k b).hart = s.hart := rfl
@[simp] theorem State.wrB_others : (s.wrB k b).others = s.others := rfl
@[simp] theorem State.wrB_cores : (s.wrB k b).cores = s.cores := rfl
@[simp] theorem State.wrB_clus : (s.wrB k b).clus = s.clus := rfl
@[simp] theorem State.wrB_dies : (s.wrB k b).dies = s.dies := rfl
@[simp] theorem State.wrB_mem : (s.wrB k b).mem = kset memDefault s.mem k b := rfl
@[simp] theorem State.wrB_full : (s.wrB k b).full = s.full := rfl
@[simp] theorem State.wrB_bad : (s.wrB k b).bad = s.bad := rfl
@[simp] theorem State.wrB_tags : (s.wrB k b).tags = s.tags := rfl
@[simp] theorem State.wrB_regs : (s.wrB k b).regs = s.regs := rfl
@[simp] theorem State.wrB_parts : (s.wrB k b).parts = s.parts := rfl
@[simp] theorem State.wrB_dev : (s.wrB k b).dev = s.dev := rfl
@[simp] theorem State.wrB_clk : (s.wrB k b).clk = s.clk := rfl
@[simp] theorem State.wrB_tick : (s.wrB k b).tick = s.tick := rfl
@[simp] theorem State.wrB_fv : (s.wrB k b).fv = s.fv := rfl
@[simp] theorem State.wrB_agenda : (s.wrB k b).agenda = s.agenda := rfl
end

section
variable (s : State) (l : List Instr)
@[simp] theorem State.later_hid : (s.later l).hid = s.hid := rfl
@[simp] theorem State.later_hart : (s.later l).hart = s.hart := rfl
@[simp] theorem State.later_others : (s.later l).others = s.others := rfl
@[simp] theorem State.later_cores : (s.later l).cores = s.cores := rfl
@[simp] theorem State.later_clus : (s.later l).clus = s.clus := rfl
@[simp] theorem State.later_dies : (s.later l).dies = s.dies := rfl
@[simp] theorem State.later_mem : (s.later l).mem = s.mem := rfl
@[simp] theorem State.later_full : (s.later l).full = s.full := rfl
@[simp] theorem State.later_bad : (s.later l).bad = s.bad := rfl
@[simp] theorem State.later_tags : (s.later l).tags = s.tags := rfl
@[simp] theorem State.later_regs : (s.later l).regs = s.regs := rfl
@[simp] theorem State.later_parts : (s.later l).parts = s.parts := rfl
@[simp] theorem State.later_dev : (s.later l).dev = s.dev := rfl
@[simp] theorem State.later_clk : (s.later l).clk = s.clk := rfl
@[simp] theorem State.later_tick : (s.later l).tick = s.tick := rfl
@[simp] theorem State.later_fv : (s.later l).fv = s.fv := rfl
@[simp] theorem State.later_agenda : (s.later l).agenda = s.agenda ++ l := rfl
end

section
variable (s : State) (l : List Instr)
@[simp] theorem State.soon_hid : (s.soon l).hid = s.hid := rfl
@[simp] theorem State.soon_hart : (s.soon l).hart = s.hart := rfl
@[simp] theorem State.soon_others : (s.soon l).others = s.others := rfl
@[simp] theorem State.soon_cores : (s.soon l).cores = s.cores := rfl
@[simp] theorem State.soon_clus : (s.soon l).clus = s.clus := rfl
@[simp] theorem State.soon_dies : (s.soon l).dies = s.dies := rfl
@[simp] theorem State.soon_mem : (s.soon l).mem = s.mem := rfl
@[simp] theorem State.soon_full : (s.soon l).full = s.full := rfl
@[simp] theorem State.soon_bad : (s.soon l).bad = s.bad := rfl
@[simp] theorem State.soon_tags : (s.soon l).tags = s.tags := rfl
@[simp] theorem State.soon_regs : (s.soon l).regs = s.regs := rfl
@[simp] theorem State.soon_parts : (s.soon l).parts = s.parts := rfl
@[simp] theorem State.soon_dev : (s.soon l).dev = s.dev := rfl
@[simp] theorem State.soon_clk : (s.soon l).clk = s.clk := rfl
@[simp] theorem State.soon_tick : (s.soon l).tick = s.tick := rfl
@[simp] theorem State.soon_fv : (s.soon l).fv = s.fv := rfl
@[simp] theorem State.soon_agenda : (s.soon l).agenda = l ++ s.agenda := rfl
end

section
variable (h : Hart) (r : VReg) (x : V512)
@[simp] theorem Hart.setV_run : (h.setV r x).run = h.run := rfl
@[simp] theorem Hart.setV_g : (h.setV r x).g = h.g := rfl
@[simp] theorem Hart.setV_v : (h.setV r x).v = h.v.set r.toNat x := rfl
@[simp] theorem Hart.setV_k : (h.setV r x).k = h.k := rfl
@[simp] theorem Hart.setV_q : (h.setV r x).q = h.q := rfl
@[simp] theorem Hart.setV_bq : (h.setV r x).bq = h.bq := rfl
@[simp] theorem Hart.setV_loops : (h.setV r x).loops = h.loops := rfl
@[simp] theorem Hart.setV_pc : (h.setV r x).pc = h.pc := rfl
@[simp] theorem Hart.setV_regs : (h.setV r x).regs = h.regs := rfl
@[simp] theorem Hart.setV_seq : (h.setV r x).seq = h.seq := rfl
@[simp] theorem Hart.setV_enter : (h.setV r x).enter = h.enter := rfl
@[simp] theorem Hart.setV_fno : (h.setV r x).fno = h.fno := rfl
@[simp] theorem Hart.setV_fr : (h.setV r x).fr = h.fr := rfl
@[simp] theorem Hart.setV_redo : (h.setV r x).redo = h.redo := rfl
@[simp] theorem Hart.setV_sbuf : (h.setV r x).sbuf = h.sbuf := rfl
@[simp] theorem Hart.setV_flight : (h.setV r x).flight = h.flight := rfl
@[simp] theorem Hart.setV_str : (h.setV r x).str = h.str := rfl
@[simp] theorem Hart.setV_undo : (h.setV r x).undo = h.undo := rfl
@[simp] theorem Hart.setV_walks : (h.setV r x).walks = h.walks := rfl
@[simp] theorem Hart.setV_traces : (h.setV r x).traces = h.traces := rfl
@[simp] theorem Hart.setV_trap : (h.setV r x).trap = h.trap := rfl
@[simp] theorem Hart.setV_aStall : (h.setV r x).aStall = h.aStall := rfl
@[simp] theorem Hart.setV_bStall : (h.setV r x).bStall = h.bStall := rfl
@[simp] theorem Hart.setV_aWhy : (h.setV r x).aWhy = h.aWhy := rfl
@[simp] theorem Hart.setV_bWhy : (h.setV r x).bWhy = h.bWhy := rfl
@[simp] theorem Hart.setV_lanes : (h.setV r x).lanes = h.lanes := rfl
@[simp] theorem Hart.setV_stallAt : (h.setV r x).stallAt = h.stallAt := rfl
@[simp] theorem Hart.setV_wait : (h.setV r x).wait = h.wait := rfl
@[simp] theorem Hart.setV_phase : (h.setV r x).phase = h.phase := rfl
@[simp] theorem Hart.setV_nacks : (h.setV r x).nacks = h.nacks := rfl
@[simp] theorem Hart.setV_flintOut : (h.setV r x).flintOut = h.flintOut := rfl
@[simp] theorem Hart.setV_flintRes : (h.setV r x).flintRes = h.flintRes := rfl
@[simp] theorem Hart.setV_tarnOut : (h.setV r x).tarnOut = h.tarnOut := rfl
@[simp] theorem Hart.setV_tarnRes : (h.setV r x).tarnRes = h.tarnRes := rfl
@[simp] theorem Hart.setV_mq : (h.setV r x).mq = h.mq := rfl
@[simp] theorem Hart.setV_acc : (h.setV r x).acc = h.acc := rfl
@[simp] theorem Hart.setV_cbuf : (h.setV r x).cbuf = h.cbuf := rfl
@[simp] theorem Hart.setV_trk : (h.setV r x).trk = h.trk := rfl
@[simp] theorem Hart.setV_meas : (h.setV r x).meas = h.meas := rfl
@[simp] theorem Hart.setV_task : (h.setV r x).task = h.task := rfl
@[simp] theorem Hart.setV_pre : (h.setV r x).pre = h.pre := rfl
end

section
variable (h : Hart) (r : HReg) (x : W64)
@[simp] theorem Hart.setReg_run : (h.setReg r x).run = h.run := rfl
@[simp] theorem Hart.setReg_g : (h.setReg r x).g = h.g := rfl
@[simp] theorem Hart.setReg_v : (h.setReg r x).v = h.v := rfl
@[simp] theorem Hart.setReg_k : (h.setReg r x).k = h.k := rfl
@[simp] theorem Hart.setReg_q : (h.setReg r x).q = h.q := rfl
@[simp] theorem Hart.setReg_bq : (h.setReg r x).bq = h.bq := rfl
@[simp] theorem Hart.setReg_loops : (h.setReg r x).loops = h.loops := rfl
@[simp] theorem Hart.setReg_pc : (h.setReg r x).pc = h.pc := rfl
@[simp] theorem Hart.setReg_regs : (h.setReg r x).regs = h.regs.setIfInBounds r.idx x := rfl
@[simp] theorem Hart.setReg_seq : (h.setReg r x).seq = h.seq := rfl
@[simp] theorem Hart.setReg_enter : (h.setReg r x).enter = h.enter := rfl
@[simp] theorem Hart.setReg_fno : (h.setReg r x).fno = h.fno := rfl
@[simp] theorem Hart.setReg_fr : (h.setReg r x).fr = h.fr := rfl
@[simp] theorem Hart.setReg_redo : (h.setReg r x).redo = h.redo := rfl
@[simp] theorem Hart.setReg_sbuf : (h.setReg r x).sbuf = h.sbuf := rfl
@[simp] theorem Hart.setReg_flight : (h.setReg r x).flight = h.flight := rfl
@[simp] theorem Hart.setReg_str : (h.setReg r x).str = h.str := rfl
@[simp] theorem Hart.setReg_undo : (h.setReg r x).undo = h.undo := rfl
@[simp] theorem Hart.setReg_walks : (h.setReg r x).walks = h.walks := rfl
@[simp] theorem Hart.setReg_traces : (h.setReg r x).traces = h.traces := rfl
@[simp] theorem Hart.setReg_trap : (h.setReg r x).trap = h.trap := rfl
@[simp] theorem Hart.setReg_aStall : (h.setReg r x).aStall = h.aStall := rfl
@[simp] theorem Hart.setReg_bStall : (h.setReg r x).bStall = h.bStall := rfl
@[simp] theorem Hart.setReg_aWhy : (h.setReg r x).aWhy = h.aWhy := rfl
@[simp] theorem Hart.setReg_bWhy : (h.setReg r x).bWhy = h.bWhy := rfl
@[simp] theorem Hart.setReg_lanes : (h.setReg r x).lanes = h.lanes := rfl
@[simp] theorem Hart.setReg_stallAt : (h.setReg r x).stallAt = h.stallAt := rfl
@[simp] theorem Hart.setReg_wait : (h.setReg r x).wait = h.wait := rfl
@[simp] theorem Hart.setReg_phase : (h.setReg r x).phase = h.phase := rfl
@[simp] theorem Hart.setReg_nacks : (h.setReg r x).nacks = h.nacks := rfl
@[simp] theorem Hart.setReg_flintOut : (h.setReg r x).flintOut = h.flintOut := rfl
@[simp] theorem Hart.setReg_flintRes : (h.setReg r x).flintRes = h.flintRes := rfl
@[simp] theorem Hart.setReg_tarnOut : (h.setReg r x).tarnOut = h.tarnOut := rfl
@[simp] theorem Hart.setReg_tarnRes : (h.setReg r x).tarnRes = h.tarnRes := rfl
@[simp] theorem Hart.setReg_mq : (h.setReg r x).mq = h.mq := rfl
@[simp] theorem Hart.setReg_acc : (h.setReg r x).acc = h.acc := rfl
@[simp] theorem Hart.setReg_cbuf : (h.setReg r x).cbuf = h.cbuf := rfl
@[simp] theorem Hart.setReg_trk : (h.setReg r x).trk = h.trk := rfl
@[simp] theorem Hart.setReg_meas : (h.setReg r x).meas = h.meas := rfl
@[simp] theorem Hart.setReg_task : (h.setReg r x).task = h.task := rfl
@[simp] theorem Hart.setReg_pre : (h.setReg r x).pre = h.pre := rfl
end

section
variable (h : Hart) (q : BitVec 3) (x : Queue)
@[simp] theorem Hart.setQ_run : (h.setQ q x).run = h.run := rfl
@[simp] theorem Hart.setQ_g : (h.setQ q x).g = h.g := rfl
@[simp] theorem Hart.setQ_v : (h.setQ q x).v = h.v := rfl
@[simp] theorem Hart.setQ_k : (h.setQ q x).k = h.k := rfl
@[simp] theorem Hart.setQ_q : (h.setQ q x).q = h.q.set q.toNat x := rfl
@[simp] theorem Hart.setQ_bq : (h.setQ q x).bq = h.bq := rfl
@[simp] theorem Hart.setQ_loops : (h.setQ q x).loops = h.loops := rfl
@[simp] theorem Hart.setQ_pc : (h.setQ q x).pc = h.pc := rfl
@[simp] theorem Hart.setQ_regs : (h.setQ q x).regs = h.regs := rfl
@[simp] theorem Hart.setQ_seq : (h.setQ q x).seq = h.seq := rfl
@[simp] theorem Hart.setQ_enter : (h.setQ q x).enter = h.enter := rfl
@[simp] theorem Hart.setQ_fno : (h.setQ q x).fno = h.fno := rfl
@[simp] theorem Hart.setQ_fr : (h.setQ q x).fr = h.fr := rfl
@[simp] theorem Hart.setQ_redo : (h.setQ q x).redo = h.redo := rfl
@[simp] theorem Hart.setQ_sbuf : (h.setQ q x).sbuf = h.sbuf := rfl
@[simp] theorem Hart.setQ_flight : (h.setQ q x).flight = h.flight := rfl
@[simp] theorem Hart.setQ_str : (h.setQ q x).str = h.str := rfl
@[simp] theorem Hart.setQ_undo : (h.setQ q x).undo = h.undo := rfl
@[simp] theorem Hart.setQ_walks : (h.setQ q x).walks = h.walks := rfl
@[simp] theorem Hart.setQ_traces : (h.setQ q x).traces = h.traces := rfl
@[simp] theorem Hart.setQ_trap : (h.setQ q x).trap = h.trap := rfl
@[simp] theorem Hart.setQ_aStall : (h.setQ q x).aStall = h.aStall := rfl
@[simp] theorem Hart.setQ_bStall : (h.setQ q x).bStall = h.bStall := rfl
@[simp] theorem Hart.setQ_aWhy : (h.setQ q x).aWhy = h.aWhy := rfl
@[simp] theorem Hart.setQ_bWhy : (h.setQ q x).bWhy = h.bWhy := rfl
@[simp] theorem Hart.setQ_lanes : (h.setQ q x).lanes = h.lanes := rfl
@[simp] theorem Hart.setQ_stallAt : (h.setQ q x).stallAt = h.stallAt := rfl
@[simp] theorem Hart.setQ_wait : (h.setQ q x).wait = h.wait := rfl
@[simp] theorem Hart.setQ_phase : (h.setQ q x).phase = h.phase := rfl
@[simp] theorem Hart.setQ_nacks : (h.setQ q x).nacks = h.nacks := rfl
@[simp] theorem Hart.setQ_flintOut : (h.setQ q x).flintOut = h.flintOut := rfl
@[simp] theorem Hart.setQ_flintRes : (h.setQ q x).flintRes = h.flintRes := rfl
@[simp] theorem Hart.setQ_tarnOut : (h.setQ q x).tarnOut = h.tarnOut := rfl
@[simp] theorem Hart.setQ_tarnRes : (h.setQ q x).tarnRes = h.tarnRes := rfl
@[simp] theorem Hart.setQ_mq : (h.setQ q x).mq = h.mq := rfl
@[simp] theorem Hart.setQ_acc : (h.setQ q x).acc = h.acc := rfl
@[simp] theorem Hart.setQ_cbuf : (h.setQ q x).cbuf = h.cbuf := rfl
@[simp] theorem Hart.setQ_trk : (h.setQ q x).trk = h.trk := rfl
@[simp] theorem Hart.setQ_meas : (h.setQ q x).meas = h.meas := rfl
@[simp] theorem Hart.setQ_task : (h.setQ q x).task = h.task := rfl
@[simp] theorem Hart.setQ_pre : (h.setQ q x).pre = h.pre := rfl
end

section
variable (h : Hart) (q : BitVec 3) (x : Stream)
@[simp] theorem Hart.setStream_run : (h.setStream q x).run = h.run := rfl
@[simp] theorem Hart.setStream_g : (h.setStream q x).g = h.g := rfl
@[simp] theorem Hart.setStream_v : (h.setStream q x).v = h.v := rfl
@[simp] theorem Hart.setStream_k : (h.setStream q x).k = h.k := rfl
@[simp] theorem Hart.setStream_q : (h.setStream q x).q = h.q := rfl
@[simp] theorem Hart.setStream_bq : (h.setStream q x).bq = h.bq := rfl
@[simp] theorem Hart.setStream_loops : (h.setStream q x).loops = h.loops := rfl
@[simp] theorem Hart.setStream_pc : (h.setStream q x).pc = h.pc := rfl
@[simp] theorem Hart.setStream_regs : (h.setStream q x).regs = h.regs := rfl
@[simp] theorem Hart.setStream_seq : (h.setStream q x).seq = h.seq := rfl
@[simp] theorem Hart.setStream_enter : (h.setStream q x).enter = h.enter := rfl
@[simp] theorem Hart.setStream_fno : (h.setStream q x).fno = h.fno := rfl
@[simp] theorem Hart.setStream_fr : (h.setStream q x).fr = h.fr := rfl
@[simp] theorem Hart.setStream_redo : (h.setStream q x).redo = h.redo := rfl
@[simp] theorem Hart.setStream_sbuf : (h.setStream q x).sbuf = h.sbuf := rfl
@[simp] theorem Hart.setStream_flight : (h.setStream q x).flight = h.flight := rfl
@[simp] theorem Hart.setStream_str : (h.setStream q x).str = h.str.set q.toNat x := rfl
@[simp] theorem Hart.setStream_undo : (h.setStream q x).undo = h.undo := rfl
@[simp] theorem Hart.setStream_walks : (h.setStream q x).walks = h.walks := rfl
@[simp] theorem Hart.setStream_traces : (h.setStream q x).traces = h.traces := rfl
@[simp] theorem Hart.setStream_trap : (h.setStream q x).trap = h.trap := rfl
@[simp] theorem Hart.setStream_aStall : (h.setStream q x).aStall = h.aStall := rfl
@[simp] theorem Hart.setStream_bStall : (h.setStream q x).bStall = h.bStall := rfl
@[simp] theorem Hart.setStream_aWhy : (h.setStream q x).aWhy = h.aWhy := rfl
@[simp] theorem Hart.setStream_bWhy : (h.setStream q x).bWhy = h.bWhy := rfl
@[simp] theorem Hart.setStream_lanes : (h.setStream q x).lanes = h.lanes := rfl
@[simp] theorem Hart.setStream_stallAt : (h.setStream q x).stallAt = h.stallAt := rfl
@[simp] theorem Hart.setStream_wait : (h.setStream q x).wait = h.wait := rfl
@[simp] theorem Hart.setStream_phase : (h.setStream q x).phase = h.phase := rfl
@[simp] theorem Hart.setStream_nacks : (h.setStream q x).nacks = h.nacks := rfl
@[simp] theorem Hart.setStream_flintOut : (h.setStream q x).flintOut = h.flintOut := rfl
@[simp] theorem Hart.setStream_flintRes : (h.setStream q x).flintRes = h.flintRes := rfl
@[simp] theorem Hart.setStream_tarnOut : (h.setStream q x).tarnOut = h.tarnOut := rfl
@[simp] theorem Hart.setStream_tarnRes : (h.setStream q x).tarnRes = h.tarnRes := rfl
@[simp] theorem Hart.setStream_mq : (h.setStream q x).mq = h.mq := rfl
@[simp] theorem Hart.setStream_acc : (h.setStream q x).acc = h.acc := rfl
@[simp] theorem Hart.setStream_cbuf : (h.setStream q x).cbuf = h.cbuf := rfl
@[simp] theorem Hart.setStream_trk : (h.setStream q x).trk = h.trk := rfl
@[simp] theorem Hart.setStream_meas : (h.setStream q x).meas = h.meas := rfl
@[simp] theorem Hart.setStream_task : (h.setStream q x).task = h.task := rfl
@[simp] theorem Hart.setStream_pre : (h.setStream q x).pre = h.pre := rfl
end

section
variable (h : Hart) (r : GReg) (x : W64)
@[simp] theorem Hart.setG_run : (h.setG r x).run = h.run := by unfold Hart.setG; split <;> rfl
@[simp] theorem Hart.setG_v : (h.setG r x).v = h.v := by unfold Hart.setG; split <;> rfl
@[simp] theorem Hart.setG_k : (h.setG r x).k = h.k := by unfold Hart.setG; split <;> rfl
@[simp] theorem Hart.setG_q : (h.setG r x).q = h.q := by unfold Hart.setG; split <;> rfl
@[simp] theorem Hart.setG_bq : (h.setG r x).bq = h.bq := by unfold Hart.setG; split <;> rfl
@[simp] theorem Hart.setG_loops : (h.setG r x).loops = h.loops := by unfold Hart.setG; split <;> rfl
@[simp] theorem Hart.setG_pc : (h.setG r x).pc = h.pc := by unfold Hart.setG; split <;> rfl
@[simp] theorem Hart.setG_regs : (h.setG r x).regs = h.regs := by unfold Hart.setG; split <;> rfl
@[simp] theorem Hart.setG_seq : (h.setG r x).seq = h.seq := by unfold Hart.setG; split <;> rfl
@[simp] theorem Hart.setG_enter : (h.setG r x).enter = h.enter := by unfold Hart.setG; split <;> rfl
@[simp] theorem Hart.setG_fno : (h.setG r x).fno = h.fno := by unfold Hart.setG; split <;> rfl
@[simp] theorem Hart.setG_fr : (h.setG r x).fr = h.fr := by unfold Hart.setG; split <;> rfl
@[simp] theorem Hart.setG_redo : (h.setG r x).redo = h.redo := by unfold Hart.setG; split <;> rfl
@[simp] theorem Hart.setG_sbuf : (h.setG r x).sbuf = h.sbuf := by unfold Hart.setG; split <;> rfl
@[simp] theorem Hart.setG_flight : (h.setG r x).flight = h.flight := by unfold Hart.setG; split <;> rfl
@[simp] theorem Hart.setG_str : (h.setG r x).str = h.str := by unfold Hart.setG; split <;> rfl
@[simp] theorem Hart.setG_undo : (h.setG r x).undo = h.undo := by unfold Hart.setG; split <;> rfl
@[simp] theorem Hart.setG_walks : (h.setG r x).walks = h.walks := by unfold Hart.setG; split <;> rfl
@[simp] theorem Hart.setG_traces : (h.setG r x).traces = h.traces := by unfold Hart.setG; split <;> rfl
@[simp] theorem Hart.setG_trap : (h.setG r x).trap = h.trap := by unfold Hart.setG; split <;> rfl
@[simp] theorem Hart.setG_aStall : (h.setG r x).aStall = h.aStall := by unfold Hart.setG; split <;> rfl
@[simp] theorem Hart.setG_bStall : (h.setG r x).bStall = h.bStall := by unfold Hart.setG; split <;> rfl
@[simp] theorem Hart.setG_aWhy : (h.setG r x).aWhy = h.aWhy := by unfold Hart.setG; split <;> rfl
@[simp] theorem Hart.setG_bWhy : (h.setG r x).bWhy = h.bWhy := by unfold Hart.setG; split <;> rfl
@[simp] theorem Hart.setG_lanes : (h.setG r x).lanes = h.lanes := by unfold Hart.setG; split <;> rfl
@[simp] theorem Hart.setG_stallAt : (h.setG r x).stallAt = h.stallAt := by unfold Hart.setG; split <;> rfl
@[simp] theorem Hart.setG_wait : (h.setG r x).wait = h.wait := by unfold Hart.setG; split <;> rfl
@[simp] theorem Hart.setG_phase : (h.setG r x).phase = h.phase := by unfold Hart.setG; split <;> rfl
@[simp] theorem Hart.setG_nacks : (h.setG r x).nacks = h.nacks := by unfold Hart.setG; split <;> rfl
@[simp] theorem Hart.setG_flintOut : (h.setG r x).flintOut = h.flintOut := by unfold Hart.setG; split <;> rfl
@[simp] theorem Hart.setG_flintRes : (h.setG r x).flintRes = h.flintRes := by unfold Hart.setG; split <;> rfl
@[simp] theorem Hart.setG_tarnOut : (h.setG r x).tarnOut = h.tarnOut := by unfold Hart.setG; split <;> rfl
@[simp] theorem Hart.setG_tarnRes : (h.setG r x).tarnRes = h.tarnRes := by unfold Hart.setG; split <;> rfl
@[simp] theorem Hart.setG_mq : (h.setG r x).mq = h.mq := by unfold Hart.setG; split <;> rfl
@[simp] theorem Hart.setG_acc : (h.setG r x).acc = h.acc := by unfold Hart.setG; split <;> rfl
@[simp] theorem Hart.setG_cbuf : (h.setG r x).cbuf = h.cbuf := by unfold Hart.setG; split <;> rfl
@[simp] theorem Hart.setG_trk : (h.setG r x).trk = h.trk := by unfold Hart.setG; split <;> rfl
@[simp] theorem Hart.setG_meas : (h.setG r x).meas = h.meas := by unfold Hart.setG; split <;> rfl
@[simp] theorem Hart.setG_task : (h.setG r x).task = h.task := by unfold Hart.setG; split <;> rfl
@[simp] theorem Hart.setG_pre : (h.setG r x).pre = h.pre := by unfold Hart.setG; split <;> rfl
end

section
variable (s : State) (id : Nat) (x : Hart)
@[simp] theorem State.setHart_hid : (s.setHart id x).hid = s.hid := by unfold State.setHart; split <;> rfl
@[simp] theorem State.setHart_cores : (s.setHart id x).cores = s.cores := by unfold State.setHart; split <;> rfl
@[simp] theorem State.setHart_clus : (s.setHart id x).clus = s.clus := by unfold State.setHart; split <;> rfl
@[simp] theorem State.setHart_dies : (s.setHart id x).dies = s.dies := by unfold State.setHart; split <;> rfl
@[simp] theorem State.setHart_mem : (s.setHart id x).mem = s.mem := by unfold State.setHart; split <;> rfl
@[simp] theorem State.setHart_full : (s.setHart id x).full = s.full := by unfold State.setHart; split <;> rfl
@[simp] theorem State.setHart_bad : (s.setHart id x).bad = s.bad := by unfold State.setHart; split <;> rfl
@[simp] theorem State.setHart_tags : (s.setHart id x).tags = s.tags := by unfold State.setHart; split <;> rfl
@[simp] theorem State.setHart_regs : (s.setHart id x).regs = s.regs := by unfold State.setHart; split <;> rfl
@[simp] theorem State.setHart_parts : (s.setHart id x).parts = s.parts := by unfold State.setHart; split <;> rfl
@[simp] theorem State.setHart_dev : (s.setHart id x).dev = s.dev := by unfold State.setHart; split <;> rfl
@[simp] theorem State.setHart_clk : (s.setHart id x).clk = s.clk := by unfold State.setHart; split <;> rfl
@[simp] theorem State.setHart_tick : (s.setHart id x).tick = s.tick := by unfold State.setHart; split <;> rfl
@[simp] theorem State.setHart_fv : (s.setHart id x).fv = s.fv := by unfold State.setHart; split <;> rfl
@[simp] theorem State.setHart_agenda : (s.setHart id x).agenda = s.agenda := by unfold State.setHart; split <;> rfl
end

theorem HReg.idx_lt (r : HReg) : r.idx < 64 := by cases r <;> decide

theorem HReg.idx_inj {r q : HReg} : r.idx = q.idx ↔ r = q := by
  constructor
  · intro h; cases r <;> cases q <;> first | rfl | exact absurd h (by decide)
  · rintro rfl; rfl

@[simp] theorem Hart.reg_setReg (h : Hart) (r q : HReg) (x : W64) : (h.setReg r x).reg q = if q = r then x else h.reg q := by
  simp only [Hart.reg, Hart.setReg, Vector.getElem?_setIfInBounds, HReg.idx_inj, HReg.idx_lt, if_true]
  by_cases e : q = r
  · subst e; simp
  · simp [e, Ne.symm e]

@[simp] theorem Hart.rg_zero (h : Hart) : h.rg 0 = 0 := rfl

@[simp] theorem Hart.rg_setG (h : Hart) (r q : GReg) (x : W64) : (h.setG r x).rg q = if q = r ∧ q ≠ 0 then x else h.rg q := by
  unfold Hart.setG Hart.rg
  by_cases hr : r = 0
  · subst hr; by_cases hq : q = 0 <;> simp [hq]
  · by_cases hq : q = 0
    · subst hq; simp
    · simp only [hr, hq, if_false, not_false_eq_true, and_true, ne_eq, Vector.getElem_set, BitVec.toNat_inj]
      by_cases e : q = r
      · simp [e]
      · simp [e, Ne.symm e]

@[simp] theorem Hart.rv_setV (h : Hart) (r q : VReg) (x : V512) : (h.setV r x).rv q = if q = r then x else h.rv q := by
  simp only [Hart.rv, Hart.setV, Vector.getElem_set, BitVec.toNat_inj]
  by_cases e : q = r
  · simp [e]
  · simp [e, Ne.symm e]

@[simp] theorem Hart.rq_setQ (h : Hart) (r q : BitVec 3) (x : Queue) : (h.setQ r x).rq q = if q = r then x else h.rq q := by
  simp only [Hart.rq, Hart.setQ, Vector.getElem_set, BitVec.toNat_inj]
  by_cases e : q = r
  · simp [e]
  · simp [e, Ne.symm e]

@[simp] theorem Hart.stream_setStream (h : Hart) (r q : BitVec 3) (x : Stream) : (h.setStream r x).stream q = if q = r then x else h.stream q := by
  simp only [Hart.stream, Hart.setStream, Vector.getElem_set, BitVec.toNat_inj]
  by_cases e : q = r
  · simp [e]
  · simp [e, Ne.symm e]

@[simp] theorem Hart.reg_setG (h : Hart) (r : GReg) (x : W64) (q : HReg) : (h.setG r x).reg q = h.reg q := by simp [Hart.reg]
@[simp] theorem Hart.reg_setV (h : Hart) (r : VReg) (x : V512) (q : HReg) : (h.setV r x).reg q = h.reg q := rfl
@[simp] theorem Hart.reg_setQ (h : Hart) (r : BitVec 3) (x : Queue) (q : HReg) : (h.setQ r x).reg q = h.reg q := rfl
@[simp] theorem Hart.reg_setStream (h : Hart) (r : BitVec 3) (x : Stream) (q : HReg) : (h.setStream r x).reg q = h.reg q := rfl
@[simp] theorem Hart.rg_setReg (h : Hart) (r : HReg) (x : W64) (q : GReg) : (h.setReg r x).rg q = h.rg q := rfl
@[simp] theorem Hart.rv_setReg (h : Hart) (r : HReg) (x : W64) (q : VReg) : (h.setReg r x).rv q = h.rv q := rfl
@[simp] theorem Hart.rq_setReg (h : Hart) (r : HReg) (x : W64) (q : BitVec 3) : (h.setReg r x).rq q = h.rq q := rfl

@[simp] theorem State.core_setCore (s : State) (c d : Nat) (x : Core) : (s.setCore c x).core d = if d = c then x else s.core d := by
  simp [State.core]
@[simp] theorem State.cluster_setCluster (s : State) (c d : Nat) (x : Cluster) : (s.setCluster c x).cluster d = if d = c then x else s.cluster d := by
  simp [State.cluster]
@[simp] theorem State.die_setDie (s : State) (c d : Nat) (x : Die) : (s.setDie c x).die d = if d = c then x else s.die d := by
  simp [State.die]
@[simp] theorem State.prt_setPrt (s : State) (c d : Nat) (x : Part) : (s.setPrt c x).prt d = if d = c then x else s.prt d := by
  simp [State.prt]
@[simp] theorem State.getReg_setReg (s : State) (a b : Nat) (x : W64) : (s.setReg a x).getReg b = if b / 8 = a / 8 then x else s.getReg b := by
  unfold State.getReg
  rw [State.setReg_regs]
  by_cases e : b / 8 = a / 8
  · rw [e, kget_kset]
  · rw [if_neg e]
    unfold kset
    split
    · rw [kget_kdel, if_neg e]
    · rw [kget_kput, if_neg e]
@[simp] theorem State.rdB_wrB (s : State) (k j : Nat) (b : Byte) : (s.wrB k b).rdB j = if j = k then b else s.rdB j := by
  simp [State.rdB]

@[simp] theorem State.getHart_setHart (s : State) (i j : Nat) (h : Hart) : (s.setHart i h).getHart j = if j = i then h else s.getHart j := by
  unfold State.getHart State.setHart
  by_cases e : i = s.hid
  · subst e; by_cases f : j = s.hid <;> simp [f]
  · by_cases f : j = s.hid
    · subst f; simp [e]; exact fun h => absurd h.symm e
    · simp only [e, f, if_false]
      unfold kset
      by_cases g : j = i
      · subst g; split
        · subst_vars; rw [kget_kdel]
        · rw [kget_kput]
      · split
        · rw [kget_kdel, if_neg g]
        · rw [kget_kput, if_neg g]

@[simp] theorem State.getHart_hid (s : State) : s.getHart s.hid = s.hart := by simp [State.getHart]

end Sys2Proof.Machine
end

