-- ==== Sys2Proof/Laws/Memory.lean ====
section
/-! SUPPORT. Laws of memory: read after write, other bytes unchanged, the canonical form kept, little-endian words, and what an access leaves alone in the rest of the state. -/
namespace Sys2Proof.Machine

/-- The empty memory is canonical. -/
theorem memory_wf_nil : Memory.wf [] = true := rfl

theorem memory_wf_wrB (s : State) (k : Nat) (b : Byte) (h : Memory.wf s.mem = true) : Memory.wf (s.wrB k b).mem = true :=
  kwf_kset k b h

theorem memory_wf_wrBytes (s : State) (k : Nat) (bs : List Byte) (h : Memory.wf s.mem = true) : Memory.wf (s.wrBytes k bs).mem = true := by
  induction bs generalizing s k with
  | nil => exact h
  | cons b bs ih => exact ih _ _ (memory_wf_wrB s k b h)

theorem memory_wf_wrN (s : State) (k n x : Nat) (h : Memory.wf s.mem = true) : Memory.wf (s.wrN k n x).mem = true :=
  memory_wf_wrBytes s k _ h

/-- A byte that a write of bytes covers holds its new value; every other one is unchanged. -/
theorem rdB_wrBytes (s : State) (k j : Nat) (bs : List Byte) :
    (s.wrBytes k bs).rdB j = if h : k ≤ j ∧ j < k + bs.length then bs[j - k]'(by omega) else s.rdB j := by
  induction bs generalizing s k with
  | nil => rw [dif_neg (by simp)]; rfl
  | cons b bs ih =>
    rw [State.wrBytes, ih, State.rdB_wrB]
    simp only [List.length_cons]
    by_cases h1 : j = k
    · subst h1
      rw [dif_neg (by omega), if_pos rfl, dif_pos (by omega)]
      simp
    · by_cases h2 : k + 1 ≤ j ∧ j < k + 1 + bs.length
      · rw [dif_pos h2, dif_pos (by omega)]
        simp only [show j - k = (j - (k + 1)) + 1 by omega, List.getElem_cons_succ]
      · rw [dif_neg h2, if_neg h1, dif_neg (by omega)]

@[simp] theorem rdBytes_length (s : State) (k n : Nat) : (s.rdBytes k n).length = n := by
  induction n generalizing k with
  | zero => rfl
  | succ n ih => simp [State.rdBytes, ih]

theorem rdBytes_getElem (s : State) (k n i : Nat) (h : i < (s.rdBytes k n).length) : (s.rdBytes k n)[i] = s.rdB (k + i) := by
  induction n generalizing k i with
  | zero => simp [State.rdBytes] at h
  | succ n ih =>
    cases i with
    | zero => rfl
    | succ i =>
      simp only [State.rdBytes, List.getElem_cons_succ]
      rw [ih (k + 1) i (by simpa [State.rdBytes] using h)]
      congr 1; omega

/-- Bytes read where they were just written are the bytes written. -/
theorem rdBytes_wrBytes (s : State) (k : Nat) (bs : List Byte) : (s.wrBytes k bs).rdBytes k bs.length = bs := by
  apply List.ext_getElem (by simp)
  intro i h1 h2
  rw [rdBytes_getElem, rdB_wrBytes, dif_pos (by omega)]
  simp

@[simp] theorem leBytes_length (n x : Nat) : (leBytes n x).length = n := by
  induction n generalizing x with
  | zero => rfl
  | succ n ih => simp [leBytes, ih]

theorem leNat_leBytes (n x : Nat) : leNat (leBytes n x) = x % 256 ^ n := by
  induction n generalizing x with
  | zero => simp [leBytes, leNat, Nat.mod_one]
  | succ n ih =>
    have e : x % 256 ^ (n + 1) = x % 256 + 256 * (x / 256 % 256 ^ n) := by rw [Nat.pow_succ, Nat.mul_comm, Nat.mod_mul]
    simp only [leBytes, leNat, BitVec.toNat_ofNat, ih, e]

theorem leNat_lt (bs : List Byte) : leNat bs < 256 ^ bs.length := by
  induction bs with
  | nil => simp [leNat]
  | cons b bs ih =>
    have := b.isLt
    simp only [leNat, List.length_cons, Nat.pow_succ]
    omega

/-- A word read where it was just written is the word, modulo its size (R4). -/
theorem rdN_wrN (s : State) (k n x : Nat) : (s.wrN k n x).rdN k n = x % 256 ^ n := by
  unfold State.rdN State.wrN
  have h := rdBytes_wrBytes s k (leBytes n x)
  rw [leBytes_length] at h
  rw [h, leNat_leBytes]

/-- What every step of a fold keeps, the fold keeps. -/
theorem foldl_keeps {α β : Type} (P : β → Prop) (f : β → α → β) (h : ∀ t x, P t → P (f t x)) (l : List α) (s : β) (hs : P s) : P (l.foldl f s) := by
  induction l generalizing s with
  | nil => exact hs
  | cons x l ih => exact ih _ (h s x hs)

/-- What the count of a request leaves to a property that the dies' sketches do not touch (R207). -/
theorem count_keeps (P : State → Prop) (s : State) (k n : Nat) (hs : P s) (hd : ∀ t d x, P t → P (State.setDie t d x)) : P (s.count k n) := by
  unfold State.count
  split
  · exact hs
  · apply foldl_keeps P _ _ _ s hs
    intro t i ht
    simp only [State.countLine]
    split
    · exact hd _ _ _ ht
    · exact ht

section
variable (s : State)

@[simp] theorem count_hart (k n : Nat) : (s.count k n).hart = s.hart := count_keeps (·.hart = s.hart) s k n rfl fun _ _ _ h => h
@[simp] theorem count_mem (k n : Nat) : (s.count k n).mem = s.mem := count_keeps (·.mem = s.mem) s k n rfl fun _ _ _ h => h
@[simp] theorem count_bad (k n : Nat) : (s.count k n).bad = s.bad := count_keeps (·.bad = s.bad) s k n rfl fun _ _ _ h => h
@[simp] theorem count_cores (k n : Nat) : (s.count k n).cores = s.cores := count_keeps (·.cores = s.cores) s k n rfl fun _ _ _ h => h

@[simp] theorem wrBytes_hart (k : Nat) (bs : List Byte) : (s.wrBytes k bs).hart = s.hart := by
  induction bs generalizing s k with
  | nil => rfl
  | cons b bs ih => rw [State.wrBytes, ih]; rfl

@[simp] theorem trigger_hart (d src : Nat) : (s.trigger d src).hart = s.hart := by unfold State.trigger; split <;> rfl
@[simp] theorem trigger_mem (d src : Nat) : (s.trigger d src).mem = s.mem := by unfold State.trigger; split <;> rfl
@[simp] theorem retireAt_hart (k : Nat) : (s.retireAt k).hart = s.hart := by
  unfold State.retireAt; split
  · rw [trigger_hart]
  · split <;> simp
@[simp] theorem retireAt_mem (k : Nat) : (s.retireAt k).mem = s.mem := by
  unfold State.retireAt; split
  · rw [trigger_mem]
  · split <;> simp
@[simp] theorem setFull_hart (k n : Nat) (b : Bool) : (s.setFull k n b).hart = s.hart := rfl
@[simp] theorem setFull_mem (k n : Nat) (b : Bool) : (s.setFull k n b).mem = s.mem := rfl

end

/-- What a write leaves to a property that bytes written and words retired keep (R343). -/
theorem writeEcc_keeps (P : State → Prop) (s : State) (k : Nat) (bs : List Byte) (hs : P s)
    (hw : ∀ t j b, P t → P (t.wrB j b)) (hr : ∀ t j, P t → P (t.retireAt j)) (hb : ∀ t m, P t → P { t with bad := m }) : P (s.writeEcc k bs) := by
  unfold State.writeEcc
  split
  · clear hr hb
    rename_i hx
    clear hx
    induction bs generalizing s k with
    | nil => exact hs
    | cons b bs ih => exact ih _ _ (hw _ _ _ hs)
  · simp only
    apply hb
    apply foldl_keeps P
    · intro t x ht
      split
      · exact hr _ _ ht
      · exact hw _ _ _ ht
    · exact hs

@[simp] theorem writeEcc_hart (s : State) (k : Nat) (bs : List Byte) : (s.writeEcc k bs).hart = s.hart :=
  writeEcc_keeps (fun t => t.hart = s.hart) s k bs rfl (fun _ _ _ h => h) (fun t j h => (retireAt_hart t j).trans h) (fun _ _ h => h)

theorem memory_wf_writeEcc (s : State) (k : Nat) (bs : List Byte) (h : Memory.wf s.mem = true) : Memory.wf (s.writeEcc k bs).mem = true :=
  writeEcc_keeps (fun t => Memory.wf t.mem = true) s k bs h (fun t j b h => memory_wf_wrB t j b h) (fun t j h => by rw [retireAt_mem]; exact h) (fun _ _ h => h)

@[simp] theorem storeAt_hart (s : State) (l : Loc) (bs : List Byte) (f : Bool) : (s.storeAt l bs f).hart = s.hart := by
  unfold State.storeAt
  split
  · simp only
    split
    · rw [setFull_hart, writeEcc_hart, count_hart]
    · rw [writeEcc_hart, count_hart]
  · rfl

theorem memory_wf_storeAt (s : State) (l : Loc) (bs : List Byte) (f : Bool) (h : Memory.wf s.mem = true) : Memory.wf (s.storeAt l bs f).mem = true := by
  unfold State.storeAt
  split
  · have := memory_wf_writeEcc (s.count ‹_› bs.length) ‹_› bs (by rw [count_mem]; exact h)
    simp only
    split
    · rw [setFull_mem]; exact this
    · exact this
  · exact h

/-- A store to memory with no uncorrectable word puts its bytes there and changes no other byte. -/
theorem rdB_storeAt (s : State) (k j : Nat) (bs : List Byte) (f : Bool) (hb : s.badIn k bs.length = false) :
    (s.storeAt (.mem k) bs f).rdB j = if h : k ≤ j ∧ j < k + bs.length then bs[j - k]'(by omega) else s.rdB j := by
  have hb' : (s.count k bs.length).badIn k bs.length = false := by simpa [State.badIn, State.unitLost, State.core] using hb
  have e : (s.count k bs.length).writeEcc k bs = (s.count k bs.length).wrBytes k bs := by simp [State.writeEcc, hb']
  have r : ∀ t : State, t.mem = ((s.count k bs.length).writeEcc k bs).mem → t.rdB j = ((s.count k bs.length).wrBytes k bs).rdB j := by
    intro t ht; unfold State.rdB; rw [ht, e]
  unfold State.storeAt
  simp only
  rw [r _ (by split <;> rfl), rdB_wrBytes]
  simp [State.rdB]

/-- What a trace record leaves to a property that stores and register writes keep (R379). -/
theorem record_keeps (P : State → Prop) (s : State) (id kind : Nat) (f clk : W64) (hs : P s)
    (hw : ∀ t l bs, P t → P (t.storeAt l bs false)) (hr : ∀ t a x, P t → P (t.setReg a x)) : P (s.record id kind f clk) := by
  unfold State.record
  extract_lets b r
  split
  · exact hr _ _ _ (hw _ _ _ hs)
  · exact hr _ _ _ hs

theorem trace_keeps (P : State → Prop) (s : State) (id kind : Nat) (f : W64) (hs : P s)
    (hw : ∀ t l bs, P t → P (t.storeAt l bs false)) (hr : ∀ t a x, P t → P (t.setReg a x)) : P (s.trace id kind f) := by
  unfold State.trace
  split
  · exact record_keeps P s id kind f s.clk hs hw hr
  · exact hs

@[simp] theorem record_hart (s : State) (id kind : Nat) (f clk : W64) : (s.record id kind f clk).hart = s.hart :=
  record_keeps (fun t => t.hart = s.hart) s id kind f clk rfl (fun t _ _ h => (storeAt_hart t _ _ _).trans h) fun _ _ _ h => h

theorem memory_wf_record (s : State) (id kind : Nat) (f clk : W64) (h : Memory.wf s.mem = true) : Memory.wf (s.record id kind f clk).mem = true :=
  record_keeps (fun t => Memory.wf t.mem = true) s id kind f clk h (fun t _ _ h => memory_wf_storeAt t _ _ _ h) fun _ _ _ h => h

@[simp] theorem trace_hart (s : State) (id kind : Nat) (f : W64) : (s.trace id kind f).hart = s.hart := by
  unfold State.trace; split <;> simp

theorem memory_wf_trace (s : State) (id kind : Nat) (f : W64) (h : Memory.wf s.mem = true) : Memory.wf (s.trace id kind f).mem = true := by
  unfold State.trace; split
  · exact memory_wf_record s id kind f s.clk h
  · exact h

/-- What nobody has turned on leaves no trace (R379). -/
theorem trace_off (s : State) (id kind : Nat) (f : W64) (h : s.traced id = false) : s.trace id kind f = s := by simp [State.trace, h]

end Sys2Proof.Machine
end

