-- ==== Sys2Proof/Laws/Ops.lean ====
section
/-! SUPPORT. What the shared operations of Machine/Ops.lean do: completing an A word, waiting, retiring a B word. -/
namespace Sys2Proof.Machine

/-- k is h with other values in the counters of a capture, and nothing else changed. -/
def SameButCounters (h k : Hart) : Prop := k = { h with regs := k.regs } ∧ ∀ r : HReg, r.counter = false → k.reg r = h.reg r

theorem SameButCounters.refl (h : Hart) : SameButCounters h h := ⟨rfl, fun _ _ => rfl⟩

theorem SameButCounters.trans {h k l : Hart} (a : SameButCounters h k) (b : SameButCounters k l) : SameButCounters h l := by
  refine ⟨?_, fun r hr => (b.2 r hr).trans (a.2 r hr)⟩
  have h1 := b.1
  rw [a.1] at h1
  exact h1

theorem SameButCounters.step {h k : Hart} {r : HReg} (hr : r.counter = true) (x : W64) (a : SameButCounters h k) :
    SameButCounters h (k.setReg r x) := by
  refine a.trans ⟨rfl, fun q hq => ?_⟩
  rw [Hart.reg_setReg, if_neg]
  rintro rfl
  rw [hr] at hq; cases hq

/-- A capture moves its counters and nothing else (R354). -/
theorem Hart.capCount_counters (h : Hart) (ev : Nat) : SameButCounters h (h.capCount ev) := by
  unfold Hart.capCount
  split
  · have up : ∀ (k : Hart) (r : HReg) (i : Nat), r.counter = true → SameButCounters h k →
        SameButCounters h (if bitsN (h.reg .capsel) (8 * i + 7) (8 * i) = ev then k.setReg r (k.reg r + 1) else k) := by
      intro k r i hr hk
      split
      · exact hk.step hr _
      · exact hk
    exact up _ _ 3 rfl (up _ _ 2 rfl (up _ _ 1 rfl (up _ _ 0 rfl (.refl h))))
  · exact .refl h

theorem Hart.capCount_eq (h : Hart) (ev : Nat) : ∃ rs, h.capCount ev = { h with regs := rs } ∧
    ∀ r : HReg, r.counter = false → ({ h with regs := rs } : Hart).reg r = h.reg r :=
  ⟨_, (h.capCount_counters ev).1, fun r hr => (h.capCount_counters ev).2 r hr⟩

section
variable (h : Hart) (ev : Nat)
@[simp] theorem Hart.capCount_g : (h.capCount ev).g = h.g := by rw [(h.capCount_counters ev).1]
@[simp] theorem Hart.capCount_pc : (h.capCount ev).pc = h.pc := by rw [(h.capCount_counters ev).1]
@[simp] theorem Hart.capCount_loops : (h.capCount ev).loops = h.loops := by rw [(h.capCount_counters ev).1]
@[simp] theorem Hart.capCount_seq : (h.capCount ev).seq = h.seq := by rw [(h.capCount_counters ev).1]
@[simp] theorem Hart.capCount_enter : (h.capCount ev).enter = h.enter := by rw [(h.capCount_counters ev).1]
@[simp] theorem Hart.capCount_v : (h.capCount ev).v = h.v := by rw [(h.capCount_counters ev).1]
@[simp] theorem Hart.capCount_q : (h.capCount ev).q = h.q := by rw [(h.capCount_counters ev).1]
@[simp] theorem Hart.capCount_rg (r : GReg) : (h.capCount ev).rg r = h.rg r := by simp [Hart.rg]
@[simp] theorem Hart.capCount_rv (r : VReg) : (h.capCount ev).rv r = h.rv r := by simp [Hart.rv]
@[simp] theorem Hart.capCount_rq (r : BitVec 3) : (h.capCount ev).rq r = h.rq r := by simp [Hart.rq]
@[simp] theorem Hart.capCount_reg (r : HReg) (hr : r.counter = false) : (h.capCount ev).reg r = h.reg r := (h.capCount_counters ev).2 r hr
end

/-- Repetitions of an entry, when there is just one. -/
theorem repEntries_one (e : SeqEnt) (j : Nat) : repEntries e j 1 = [{ e with rep := j }] := rfl

/-- Everything that the end of a frame does when its B word is sent once (R14, R15, R83, R84). -/
theorem Hart.endFrame_spec (h : Hart) (npc : W64) (ls : List LoopEnt) (solo : Bool) :
    let k := h.endFrame npc ls 1 0 0 0 solo
    k = { h with regs := k.regs, pc := npc, loops := ls, fr := none, fno := h.fno + 1
                 aStall := none, bStall := none, aWhy := none, wait := .none, seq := k.seq, enter := k.enter } ∧
    (∀ r : HReg, r.counter = false → k.reg r = h.reg r) ∧
    (match h.bWord? with
      | none => k.seq = h.seq ∧ k.enter = h.enter
      | some w => ∃ e : SeqEnt, k.seq = h.seq ++ [e] ∧ k.enter = [] ∧ e.word = w ∧ e.pc = h.pc ∧ e.rep = 0 ∧ e.snap.npc = npc) := by
  intro k
  let h1 : Hart := { h with pc := npc, loops := ls, fr := none, fno := h.fno + 1, aStall := none, bStall := none, aWhy := none, wait := .none }
  obtain ⟨rs, c, hr⟩ := h1.capCount_eq 1
  cases hb : h.bWord? with
  | none =>
    have e : k = { h1 with regs := rs } := by simp only [k, Hart.endFrame, hb]; exact c
    rw [e]
    exact ⟨rfl, fun r q => hr r q, rfl, rfl⟩
  | some w =>
    have e : k = ({ h1 with regs := rs } : Hart).send
        (repEntries ⟨h.pc, h.fno, w, none, if solo then some w else none, 0, 0, 0, 0, ({ h1 with regs := rs } : Hart).snap npc, none⟩ 0 1) := by
      simp only [k, Hart.endFrame, hb]; rw [← c]
    rw [e]
    exact ⟨rfl, fun r q => hr r q, _, rfl, rfl, rfl, rfl, rfl, rfl⟩

/-- A frame that ends once: its A word completes, and its B word is sent. -/
theorem completes_endFrame (s : State) (d : GReg) (v : W64) (npc : W64) (ls : List LoopEnt) (solo : Bool) :
    let t := s.mapHart fun h => (h.setG d v).endFrame npc ls 1 0 0 0 solo
    CompletesA s t ∧ SendsB s t ∧ t.hart.pc = npc ∧ t.hart.loops = ls ∧ WritesG s t d v := by
  intro t
  have h := Hart.endFrame_spec (s.hart.setG d v) npc ls solo
  have ht : t.hart = (s.hart.setG d v).endFrame npc ls 1 0 0 0 solo := rfl
  simp only [← ht] at h
  obtain ⟨h1, h2, h3⟩ := h
  have hb : (s.hart.setG d v).bWord? = s.hart.bWord? := by simp [Hart.bWord?]
  refine ⟨⟨?_, ?_, ?_⟩, ?_, ?_, ?_, ?_⟩
  · show t = { s with hart := t.hart }
    rw [ht]; rfl
  · conv => lhs; rw [h1]
    rw [show t.hart.g = (s.hart.setG d v).g by rw [h1], show t.hart.pc = npc by rw [h1], show t.hart.loops = ls by rw [h1]]
    unfold Hart.setG
    split <;> simp
  · intro r hr; rw [h2 r hr, Hart.reg_setG]
  · simp only [SendsB, ← hb]
    split
    · rename_i e; rw [e] at h3; simpa using h3
    · rename_i w e
      rw [e] at h3
      obtain ⟨x, a, b, c, d', f, g⟩ := h3
      exact ⟨x, by simpa using a, b, c, by simpa using d', f, by rw [g, h1]⟩
  · rw [h1]
  · rw [h1]
  · intro r
    show t.hart.rg r = _
    have : t.hart.g = (s.hart.setG d v).g := by rw [h1]
    rw [show t.hart.rg r = (s.hart.setG d v).rg r by simp [Hart.rg, this], Hart.rg_setG]
    rfl

/-- An A word that completes with a result does this and nothing else. -/
theorem writes_retireG (s : State) (d : GReg) (v : W64) : Writes s (s.retireG d v) d v := by
  have h := completes_endFrame s d v (loopNext s.hart.pc s.hart.loops).1 (loopNext s.hart.pc s.hart.loops).2 false
  have e : s.retireG d v = s.mapHart fun h => (h.setG d v).endFrame (loopNext s.hart.pc s.hart.loops).1 (loopNext s.hart.pc s.hart.loops).2 1 0 0 0 false := by
    simp [State.retireG, Hart.retire, State.mapHart]
  rw [e]
  exact ⟨h.1, h.2.1, ⟨h.2.2.1, h.2.2.2.1⟩, h.2.2.2.2⟩

/-- An A word that completes without a result. -/
theorem finishes_retire (s : State) : Finishes s s.retire := writes_retireG s 0 0

/-- A taken control transfer, with a result. -/
theorem jumps_retireTo (s : State) (target : W64) (call : Bool) (d : GReg) (v : W64) :
    Jumps s (s.mapHart fun h => (h.setG d v).retireTo target call) target call d v := by
  have h := completes_endFrame s d v target (loopTaken s.hart.pc target call s.hart.loops) false
  have e : (s.mapHart fun h => (h.setG d v).retireTo target call) =
      s.mapHart fun h => (h.setG d v).endFrame target (loopTaken s.hart.pc target call s.hart.loops) 1 0 0 0 false := by
    simp [Hart.retireTo, State.mapHart]
  rw [e]
  exact ⟨h.1, h.2.1, ⟨h.2.2.1, h.2.2.2.1⟩, h.2.2.2.2⟩

/-- A wait changes the note of the wait only (R104). -/
theorem waits_waitA (s : State) (w : Why) : WaitsA s (s.waitA w) := ⟨_, _, rfl⟩

/-- A transfer leaves no trace where none is on (R379). -/
theorem traceJump_off (s : State) (h : s.traced s.hid = false) : s.traceJump = s := by simp [State.traceJump, h]

/-- A transfer that an older word may still discard changes nothing but the held records (R23, R379). -/
theorem traceJump_held (s : State) (h : s.hart.discardable s.hart.fno = true) :
    s.traceJump = s ∨ s.traceJump = s.mapHart fun x => { x with traces := x.traces ++ [(x.fno, x.pc, s.clk)] } := by
  unfold State.traceJump
  split
  · exact .inl rfl
  · exact .inr rfl

/-- All that waiting for streams does: the fault of the first that has stopped is raised, else the A word waits (R93). -/
theorem waitStreams_cases (s : State) (qs : List Nat) :
    (∃ q ∈ qs, (s.hart.str[q]?.getD Stream.idle).faulted = true ∧ s.waitStreams qs = s.trapUnit (BitVec.ofNat 3 q)) ∨
    ((∀ q ∈ qs, (s.hart.str[q]?.getD Stream.idle).faulted = false) ∧ WaitsA s (s.waitStreams qs)) := by
  unfold State.waitStreams
  split
  · rename_i q h
    exact .inl ⟨q, List.mem_of_find?_eq_some h, by simpa using List.find?_some h, rfl⟩
  · rename_i h
    exact .inr ⟨fun q hq => by simpa using List.find?_eq_none.mp h q hq, waits_waitA s .other⟩

/-- A strong instruction of a hart that is not quiet waits, or raises the fault of a stream that a store waits for. -/
theorem whenQuiet_of_quiet (s : State) (f : State → State) (h : s.hart.quiet = true) : s.whenQuiet f = f s := by simp [State.whenQuiet, h]
theorem whenQuiet_of_not (s : State) (f : State → State) (h : s.hart.quiet = false) : s.whenQuiet f = s.waitDrain := by simp [State.whenQuiet, h]
theorem whenRetired_of_not (s : State) (f : State → State) (h : s.hart.older = false) : s.whenRetired f = f s := by simp [State.whenRetired, h]
theorem whenClear_of_not (s : State) (a : W64) (n : Nat) (f : State → State) (h : s.groupAhead s.hart.fno a n = false) : s.whenClear a n f = f s := by
  simp [State.whenClear, h]

/-- A retiring B word, after changes to v, the queues, bq and FFLAGS. -/
theorem retires_retireFlags (s : State) (k : Hart) (fl : FFl)
    (hk : k = { s.hart with v := k.v, q := k.q, bq := k.bq }) : RetiresB s (s.mapHart fun _ => k.retireFlags fl) fl := by
  let h1 : Hart := { k.setReg .fflags (k.reg .fflags ||| fl.setWidth 64) with
    seq := k.seqNext.1, enter := k.seqNext.2, bStall := none, aStall := none, bWhy := none, lanes := 0
    undo := if k.seqNext.1.isEmpty && k.seqNext.2.isEmpty && !(k.walks.any (·.back.isSome)) then [] else k.undo }
  obtain ⟨rs, c, hr⟩ := h1.capCount_eq 2
  have e1 : k.retireFlags fl = { h1 with regs := rs } := c
  have er : ∀ r, k.reg r = s.hart.reg r := by intro r; rw [hk]; rfl
  refine ⟨rfl, ?_, ?_, ?_⟩
  · show k.retireFlags fl = _
    rw [e1]
    simp only [h1, State.mapHart]
    rw [hk]
    rfl
  · intro r hr1 hr2
    show (k.retireFlags fl).reg r = _
    rw [e1, hr r hr1]
    show (k.setReg .fflags _).reg r = _
    rw [Hart.reg_setReg, if_neg hr2, er]
  · show (k.retireFlags fl).reg .fflags = _
    rw [e1, hr .fflags rfl]
    show (k.setReg .fflags _).reg .fflags = _
    rw [Hart.reg_setReg, if_pos rfl, er]; rfl

end Sys2Proof.Machine
end

