-- ==== Sys2Proof/Tests/Slice0.lean ====
section
/-! SUPPORT. The author's own tests: the words that spec/04 to spec/19 write out, one ill-formed term for each check of WellFormed, one small step for each kind of instruction with the result that the spec computes, and for every statement with hypotheses states and operands that meet them.

Witnesses, statement by statement of Obligations.lean:
* AluRegister, AluImmediate: no hypotheses on a state; the words `witness_AluRegister_words`, `test_decode_alu`.
* Every clause about a wait (`WaitsStreams`, `Drains`, `BufferFull`) or a data error: witness_Waits, witness_StoreClauses, witness_Held.
* ControlTransfers: witness_ControlTransfers, witness_TransferTrace.
* HardwareLoops: witness_HardwareLoops, witness_LoopsNested, witness_RepeatSteps.
* Load: witness_Load.
* Store: witness_Store, _full.
* StoreBuffer: witness_StoreBuffer, witness_StoreOrder, witness_StoreClauses.
* QueueLoadStore: witness_QueueLoadStore.
* FullEmpty: witness_FullEmpty.
* Streams: witness_Streams, witness_StreamGroups.
* ControlRegisterRead, ControlRegisterWrite: witness_ControlRegisters, witness_BarrierTable, witness_Fences.
* EnvironmentCalls, ReturnFromTrap: witness_Traps, witness_Predicate.
* TrapEvents: witness_TrapEvents.
* Atomics: witness_Atomics, _forms.
* FenceAndWait: witness_FenceAndWait, witness_Fences.
* LinksAndMailbox: witness_LinksAndMailbox, witness_Mailbox, witness_LooksAgain.
* Barriers: witness_Barriers, witness_BarrierLeave.
* Exchange: witness_Exchange, witness_PhaseAndClock, witness_Refusals.
* SpawnAndSignal: witness_SpawnAndSignal.
* HandOn: witness_HandOn, witness_Saves, witness_HandSpill, witness_HandSpill_moves.
* TaskEnds: witness_TaskEnds, witness_Saves.
* Dispatch: witness_Dispatch, _full, _saved, witness_LaneGrant, witness_PriorityPromotion.
* Translation: witness_TranslationInvalidate, witness_Fences, witness_PageWalk, witness_AccessChecks.
* Contexts: witness_Contexts_settled, _save, _bad, _rest, _waits, _ahead, witness_Saves.
* ContextRoundTrip: witness_ContextRoundTrip.
* Capture: witness_Capture.
* Preemption: witness_Preemption, witness_PreemptAndSoftint.
* HostAccess: witness_HostMemory, _good, witness_HostCommands, _words, _launch, _dump, _own.
* Registers: witness_Registers, witness_RegisterTables.
* Observability: witness_Observability, witness_Records.
* DebugHalt: witness_DebugHalt.
* Dumps: witness_Dumps, _protected.
* PowerAndBoot: witness_PowerAndBoot.
* Fabric: witness_Fabric, witness_RemoteRequests, witness_Refusals.
* Migration: witness_Migration.
* MatrixPushes: witness_MatrixGuards, witness_MatrixPushes.
* MatrixCommands: witness_MatrixCommands_start, _gang, _ends, witness_UnitWaits, witness_MatrixProduct, witness_MatrixGroupSum, witness_MatrixElement.
* MatrixSave: witness_MatrixSave_guards, _saves, _rests, _bad.
* CopyInstrs: witness_CopyInstrs.
* CopyEngine: witness_CopyEngine, _complete, witness_EngineAccess, witness_UnitWaits.
* Tarn: witness_TarnInstrs, witness_TarnArray.
* Flint: witness_FlintInstrs, witness_Flint.
* MereInstrs: witness_Mere_guards, witness_EditInstrs, witness_MereReads, _store, _settle, witness_MereOrder.
* MereEvents: witness_MereEvents_open, _close, _edits, _rest, _insert, witness_MereBlocks, witness_MereOrder.
* OperandsAndExactValues: witness_VectorOperands, witness_ExactValues, witness_Rounding.
* VectorFloat to VectorConvert, LogExp: witness_VectorOperands, witness_VectorFloat, witness_VectorTypes, witness_VectorPacked, witness_VectorConstants, witness_SpecialValues.
* StepCanonical: witness_StepCanonical.
* StepRunsDecoded: witness_Acts, witness_StepRunsDecoded, _b, _agenda, _served, _urgent, _lanes.
* EncodeDecode: witness_EncodeDecode.
* ResetState, NeverStops, WordsDecode: no hypotheses. -/
open Sys2Proof Sys2Proof.Machine
namespace Sys2Proof.Tests
set_option Elab.async false

/-- Core space of the hart's own core (R190). -/
def self : W64 := 0x8000000100000000
/-- Hart 0 of core 0, running in machine mode. -/
def lab (f : Hart → Hart) : State :=
  { State.reset with hid := 0, hart := f { Hart.reset with run := .running, regs := resetRegs.setIfInBounds HReg.status.idx 0x60 } }
/-- Hart 0 of core 0, running in user mode. -/
def user (f : Hart → Hart) : State := { State.reset with hid := 0, hart := f { Hart.reset with run := .running } }
/-- Control hart 0 of die 0, running in machine mode. -/
def boss (f : Hart → Hart) : State := State.reset.mapHart f
/-- A region without limits (R147). -/
def region : RegionEff := ⟨512, 64, 0, 0, 0, 4, false, 0, false, 0, 0, [], 0⟩
/-- A direct task that holds one scratchpad unit. -/
def job : Task := ⟨Vector.replicate 8 0, 0x3E, region, 0, [], none, false, none, 0⟩
/-- A buffered task. -/
def draft : Task := { job with eff := { region with buffered := true } }
/-- A queue whose head slot is filled. -/
def filled : Queue := { Queue.empty with ents := [.full 0] }
/-- A queue with sixteen slots reserved. -/
def packed : Queue := { Queue.empty with ents := List.replicate 16 (.pend 0) }
/-- A sequencer entry of a B word. -/
def entry (w : W32) : SeqEnt := ⟨0, 0, w, none, none, 0, 0, 0, 0, ⟨Vector.replicate 32 0, 8, [], 0, 0x00FAC688, 4, 0⟩, none⟩
/-- A stream of one group of 64 bytes at the start of the own pool. -/
def oneGroup (h : Hart) : Hart := (((h.setG 4 self).setG 5 1).setG 6 0).setG 7 0

/-- Nothing older than the hart's next frame is left: what a trap waits for (`TrapReady`). -/
abbrev Calm (h : Hart) : Prop := h.older = false ∧ h.flight = [] ∧ h.sbuf = []

/-- The machine about to fetch a word at 0x10000, under page tables for the identity, with zero frames behind it. -/
noncomputable def placed (w : Nat) : State := State.reset.withFetchWord 32 w

/-- The boot hart under page tables whose first gigabyte is the leaf e. -/
noncomputable def under (e : Nat) (f : Hart → Hart) : State := ((placed 0).wrN 0x3000 8 e).mapHart f
/-- As `under`, the first gigabyte on device 1, behind a port that is up. -/
noncomputable def abroad (f : Hart → Hart) : State :=
  ((under (2 ^ 63 + 2 ^ 62 + 2 ^ 16 + 7) f).setReg (regBase 0 + 0x5008008) (2 ^ 63 + 1)).setReg (regBase 0 + 0x5000008) 1
/-- A weak store of one byte by frame f. -/
def put (f : Nat) : StoreEnt := ⟨.mem 0, 0, [0], f, false, false, false, false⟩
/-- Store e in the buffer of hart 0. -/
def storing (e : StoreEnt) : State := lab fun h => { h with sbuf := [e], fno := 1 }

/-- Hart 0 with a task that holds unit 0 of its core as scratchpad. -/
def tasked (t : Task) (f : Hart → Hart) : State :=
  (user fun h => f { (h.setReg .spbase self).setReg .splen 4096 with task := some t }).setCore 0 { Core.reset with units := [(0, .scratch 0)] }

/-- Page tables for the identity of partition 62, which owns the first four frames. -/
def mapped (s : State) : State :=
  let t := s.setPrt 62 ⟨0x1000, 0⟩
  { ((t.wrN 0x1000 8 (2 ^ 62 + 0x2000)).wrN 0x2000 8 (2 ^ 62 + 0x3000)).wrN 0x3000 8 (2 ^ 63 + 0x3F) with tags := [(0, 0x3E), (1, 0x3E), (2, 0x3E), (3, 0x3E)] }

/-- A task image: entry and constant bank at 0x20000, tag 5, no vector backing, the region at 0x10000. -/
def image : Vector W64 8 := #v[0x20000, 1, 2, 3, 4, 0x20000, 0x500002000, 0x10000]
/-- The effective values of a region whose fields all inherit, on a device of 2,048 clusters of one partition. -/
def plainRegion : RegionEff := ⟨2048, 64, 128, 128, 0, 4, false, 0, false, 0, 0, [(0x10000, 2048, 64)], 0⟩
/-- A control block at 0x10000 whose fields all inherit (R146), and the image at the start of the own pool. -/
def ready (s : State) : State :=
  ((mapped s).wrN 0x10008 8 0xFFFFFFFFFFFFFFC0 |>.wrN 0x10010 8 0xFFFFC00000000000).wrBytes (poolKey 0 0) (image.toList.flatMap fun w => leBytes 8 w.toNat)
/-- Group 0 of die 0, and the frames of `mapped`, as partition 5's. -/
def owned (s : State) : State :=
  { (s.setReg (regBase 0 + 0x6000000) 5).setPrt 5 ⟨0x1000, 0⟩ with tags := [(0, 5), (1, 5), (2, 5), (3, 5)] }

/-- A ready entry of `image`. -/
def ticket : Entry := ⟨image, 62, 0, some 0, plainRegion, none, none, false, none, [], 0, none, [], [], 0, [], 0, 0⟩
/-- A range of one unit handed on and resident since clk 0. -/
def gift : HandRange := ⟨self, 4096, false, 0, [0], 0, 0x20000, 2, 62, false⟩

/-- A register of a die written in a machine as reset. -/
def dial (l : List (Nat × W64)) : State := l.foldl (fun s p => s.setReg p.1 p.2) (lab id)

/-- Words of spec/05 after R74 and R76, spec/10, spec/19: the register, immediate and literal forms. -/
theorem test_decode_alu :
    decodeFrame 0x81190A00 0 = ⟨.op (.add 3 4 5), .absent⟩ ∧
    decodeFrame 0x8218D678 0 = ⟨.op (.addi 3 3 0x1678), .absent⟩ ∧
    decodeFrame 0x8858501F 0 = ⟨.op (.srli 11 1 31), .absent⟩ ∧
    decodeFrame 0x89B82880 0 = ⟨.op (.lih 23 0x2880), .absent⟩ ∧
    decodeFrame 0x80000000 0 = ⟨.op .nopA, .absent⟩ := by decide +kernel
/-- Words of spec/05: branches, jumps, loops, control registers and the task's end. -/
theorem test_decode_control :
    decodeFrame 0x8C52C001 0 = ⟨.op (.beq 10 11 1), .absent⟩ ∧
    decodeFrame 0x9301C000 0 = ⟨.op (.jalr 0 7 0), .absent⟩ ∧
    decodeFrame 0x95380003 0 = ⟨.op (.loop 7 3), .absent⟩ ∧
    decodeFrame 0xA2600005 0 = ⟨.op (.csrr 12 5), .absent⟩ ∧
    decodeFrame 0xA2E00105 0 = ⟨.op (.csrr 28 0x105), .absent⟩ ∧
    decodeFrame 0xA9000002 0 = ⟨.op .halt, .absent⟩ := by decide +kernel
/-- Words of spec/05 after R88, R90 and R95, spec/18, spec/19: loads and stores. -/
theorem test_decode_memory :
    decodeFrame 0x97388001 0 = ⟨.op (.ld 7 2 .i64 (.weak 1)), .absent⟩ ∧
    decodeFrame 0x98190803 0 = ⟨.op (.st 3 4 .i32 (.weak 3)), .absent⟩ ∧
    decodeFrame 0x977B6801 0 = ⟨.op (.ld 15 13 .n32 (.weak 1)), .absent⟩ ∧
    decodeFrame 0x9750CBFE 0 = ⟨.op (.ld 10 3 .i32 (.weak 0x3FE)), .absent⟩ ∧
    decodeFrame 0x99110002 0 = ⟨.op (.ldq 2 4 (.weak 2)), .absent⟩ ∧
    decodeFrame 0x9A314000 0 = ⟨.op (.stq 6 5 (.weak 0)), .absent⟩ ∧
    decodeFrame 0x9E190000 0 = ⟨.op (.ldfe 3 4 false 0), .absent⟩ ∧
    decodeFrame 0x9E190402 0 = ⟨.op (.ldfe 3 4 true 2), .absent⟩ ∧
    decodeFrame 0x9F340020 0 = ⟨.op (.stfe 6 16 32), .absent⟩ := by decide +kernel
/-- Words of spec/12, spec/14: atomics, fences and counter waits. -/
theorem test_decode_atomics :
    decodeFrame 0xA519481C 0 = ⟨.op (.amoaddI64 3 5 4 3 .dev), .absent⟩ ∧
    decodeFrame 0xA6320EC4 0 = ⟨.op (.amomaxuI32 6 8 7 0 .dev), .absent⟩ ∧
    decodeFrame 0xA5050214 0 = ⟨.op (.amoaddI64 0 20 1 2 .dev), .absent⟩ ∧
    decodeFrame 0xA700000C 0 = ⟨.op (.fence 1 .dev), .absent⟩ ∧
    decodeFrame 0xA8041E00 0 = ⟨.op (.waitge 16 15), .absent⟩ := by decide +kernel
/-- Words of spec/10: tasks, exchange and mailboxes. -/
theorem test_decode_messages :
    decodeFrame 0xAA4AC004 0 = ⟨.op (.xsend 9 11 4), .absent⟩ ∧
    decodeFrame 0xAA530040 0 = ⟨.op (.xsend 10 12 64), .absent⟩ ∧
    decodeFrame 0xABC50850 0 = ⟨.op (.mbwait 24 20 4 5), .absent⟩ := by decide +kernel
/-- Words of spec/14, spec/15, spec/16: the matrix array, the copy engine, Tarn and Flint. -/
theorem test_decode_engines :
    decodeFrame 0xAC01C000 0 = ⟨.op (.mgang 7), .absent⟩ ∧
    decodeFrame 0xAC258003 0 = ⟨.op (.mpre .dev 22 0), .absent⟩ ∧
    decodeFrame 0xAC222401 0 = ⟨.op (.mma .dev 8 18 0), .absent⟩ ∧
    decodeFrame 0xAC23D805 0 = ⟨.op (.mdrain .dev 15 12 0), .absent⟩ ∧
    decodeFrame 0xAD220000 0 = ⟨.op (.cpy .dev 8), .absent⟩ ∧
    decodeFrame 0xAD0B0000 0 = ⟨.op (.cpy .core 12), .absent⟩ ∧
    decodeFrame 0xAD220A02 0 = ⟨.op (.engpush .dev 8 5), .absent⟩ ∧
    decodeFrame 0xAD180A03 0 = ⟨.op (.engpop 3 5), .absent⟩ ∧
    decodeFrame 0xAD130004 0 = ⟨.op (.sel .clus 12), .absent⟩ ∧
    decodeFrame 0xAD180005 0 = ⟨.op (.selwait 3), .absent⟩ := by decide +kernel
/-- Words of spec/17, spec/19: edits and tracked accesses. -/
theorem test_decode_mere :
    decodeFrame 0xAE008000 0 = ⟨.op (.editChg 2), .absent⟩ ∧
    decodeFrame 0xAE6A8004 0 = ⟨.op (.dmap 13 10), .absent⟩ ∧
    decodeFrame 0xAF015002 0 = ⟨.op (.ldt 2 5 2), .absent⟩ ∧
    decodeFrame 0xAF8C9400 0 = ⟨.op (.ldtNb 17 2 18 0), .absent⟩ ∧
    decodeFrame 0xB0314001 0 = ⟨.op (.stt 6 5 1), .absent⟩ := by decide +kernel
/-- Words of spec/06: elementwise arithmetic and compares. -/
theorem test_decode_vector_arithmetic :
    decodeFrame 0xC0830202 0 = ⟨.absent, .op (.vaddF16 ⟨0, false⟩ (.v 3) (.v 1) (.v 2 .none))⟩ ∧
    decodeFrame 0xC5840B12 0 = ⟨.absent, .op (.vfnmsF32 ⟨0, false⟩ 4 (.v 5) (.q 1 2))⟩ ∧
    decodeFrame 0xC7420604 0 = ⟨.absent, .op (.vminN32 ⟨0, false⟩ (.v 2) (.v 3) (.v 4 .none))⟩ ∧
    decodeFrame 0xCA050D12 0 = ⟨.absent, .op (.vcmpltF32 ⟨0, false⟩ (.v 5) (.v 6) (.q 1 2))⟩ ∧
    decodeFrame 0xCDC71069 0 = ⟨.absent, .op (.vselI32 ⟨0, false⟩ 7 (.v 8) (.v 9 .rev))⟩ ∧
    decodeFrame 0xCFC10360 0 = ⟨.absent, .op (.vshrI64 ⟨0, false⟩ (.v 1) (.v 1) (.k 0))⟩ ∧
    decodeFrame 0xD2010403 0 = ⟨.absent, .op (.vpaddL8e4Nan ⟨0, false⟩ (.v 1) (.v 2) (.v 3 .none))⟩ ∧
    decodeFrame 0xD4881363 0 = ⟨.absent, .op (.vmix ⟨0, false⟩ (.v 8) (.v 9) (.k 3))⟩ ∧
    decodeFrame 0xD4C88167 0 = ⟨.absent, .op (.vtempF32 ⟨0, false⟩ (.v 8) (.q 2 0) (.k 7))⟩ ∧
    decodeFrame 0xC14608A5 0 = ⟨.absent, .op (.vsubF32 ⟨0, false⟩ (.v 6) (.v 4) (.v 5 .bc0))⟩ ∧
    decodeFrame 0xC34341A0 0x3DCCCCCD = ⟨.absent, .op (.vfmaF32 ⟨0, false⟩ 3 (.q 0 0) (.lit 0x3DCCCCCD))⟩ := by decide +kernel
/-- Words of spec/06: special functions, permutes, reductions. -/
theorem test_decode_vector_unary :
    decodeFrame 0xD5831402 0 = ⟨.absent, .op (.vrcpr ⟨0, false⟩ (.v 3) (.v 10) (.v 2 .none))⟩ ∧
    decodeFrame 0xD6450C07 0 = ⟨.absent, .op (.vpermI16 ⟨0, false⟩ (.v 5) (.v 6) (.v 7 .none))⟩ ∧
    decodeFrame 0xD8093004 0 = ⟨.absent, .op (.vordkey ⟨0, false⟩ (.v 9) .l8e4 (.v 4 .none))⟩ ∧
    decodeFrame 0xD842000A 0 = ⟨.absent, .op (.vrcpa ⟨0, false⟩ (.v 2) .f32 (.v 10 .none))⟩ ∧
    decodeFrame 0xD9600201 0 = ⟨.absent, .op (.vredsum ⟨0, false⟩ (.q false 0) .f32 .rne (.v 1 .none))⟩ ∧
    decodeFrame 0xDA030120 0 = ⟨.absent, .op (.vargmax ⟨0, false⟩ (.v 3) .f32 (.q 2 0))⟩ ∧
    decodeFrame 0x00000000 0x5A84A005 = ⟨.op (.nopA), .op (.vcompress ⟨1, false⟩ (.v 4) .i32 (.v 5 .none))⟩ ∧
    decodeFrame 0xDAC30165 0 = ⟨.absent, .op (.vmov ⟨0, false⟩ (.v 3) (.k 5))⟩ ∧
    decodeFrame 0x00000000 0x78C20002 = ⟨.op (.nopA), .op (.vlog2 ⟨1, true⟩ (.v 2) .f32 (.v 2 .none))⟩ := by decide +kernel
/-- Words of spec/06: conversions, masks, queues and constants. -/
theorem test_decode_vector_moves :
    decodeFrame 0xDB086005 0 = ⟨.absent, .op (.vcvt ⟨0, false⟩ 4 .l8e4 .f32 .dyn false 5)⟩ ∧
    decodeFrame 0xDB8C0407 0 = ⟨.absent, .op (.vunpack ⟨0, false⟩ 6 .f32 .bf16 7)⟩ ∧
    decodeFrame 0xDBC68187 0 = ⟨.absent, .op (.vslide ⟨0, false⟩ (.v 6) .i32 3 (.v 7))⟩ ∧
    decodeFrame 0xDC078630 0 = ⟨.absent, .op (.vbcast ⟨0, false⟩ (.v 7) .i32 12 (.q 1 0))⟩ ∧
    decodeFrame 0xDD480080 0 = ⟨.absent, .op (.mpop ⟨0, false⟩ 4 1 .i8)⟩ ∧
    decodeFrame 0xDDF40000 0 = ⟨.absent, .op (.qadv 6 16)⟩ ∧
    decodeFrame 0xDE000005 0 = ⟨.absent, .op (.bqput 0 (.v 5 .none))⟩ ∧
    decodeFrame 0xDE43F000 0 = ⟨.absent, .op (.vaddiLow ⟨0, false⟩ 0 0x3F000)⟩ ∧
    decodeFrame 0x00000000 0x5F63F800 = ⟨.op (.nopA), .op (.vsplatLow ⟨1, false⟩ 2 0x3F800)⟩ ∧
    decodeFrame 0xDED43800 0 = ⟨.absent, .op (.vmuliLow ⟨0, false⟩ 1 0x43800)⟩ := by decide +kernel
/-- Words of spec/07, spec/10, spec/14: pair frames, and frames that R69 refuses. -/
theorem test_decode_pairs :
    decodeFrame 0x08319002 0x1AE20161 = ⟨.op (.srli 6 6 2), .op (.vmov ⟨0, false⟩ (.q false 2) (.k 1))⟩ ∧
    decodeFrame 0x19034004 0x00C14101 = ⟨.op (.ldq 0 13 (.weak 4)), .op (.vaddBf16 ⟨0, false⟩ (.v 1) (.q 0 0) (.q 0 1))⟩ ∧
    decodeFrame 0x1A3383FF 0x12850A09 = ⟨.op (.stq 6 14 (.weak 0x3FF)), .op (.vpaddI8 ⟨0, false⟩ (.v 5) (.v 5) (.v 9 .none))⟩ ∧
    decodeFrame 0x22400000 0x1DF04000 = ⟨.op (.csrr 8 0), .op (.qadv 6 1)⟩ ∧
    decodeFrame 0xFFFFFFFF 0 = ⟨.bad .allOnes 0xFFFFFFFF, .absent⟩ := by decide +kernel

/-- The next state of a step of one instruction. -/
noncomputable def after (i : Instr) (s : State) : State := match exec i s with | .next t => t | _ => s
/-- The next state of a step of the machine. -/
noncomputable def stepped (s : State) : State := match step s with | .next t => t | _ => s

/-- One term for each check of `Instr.wf`, which refuses it: the literal 0xFFFF_FFFF (R59), an empty loop body (R82), a store queue for a load and a load queue for a store (R67), groups at g0 and g29 and pairs at g0 and g31 (R67, R237), three dimensions too many (R92), an empty fence (R214). -/
theorem test_ill_formed_a :
    (Instr.addiLiteral 1 2 0xFFFFFFFF).wf = false ∧ (Instr.lihLiteral 1 0xFFFFFFFF).wf = false ∧ (Instr.loop 1 0).wf = false ∧ (Instr.loopi 1 0).wf = false ∧
    (Instr.ldq 6 1 (.weak 0)).wf = false ∧ (Instr.stq 5 1 (.weak 0)).wf = false ∧ (Instr.sld 1 0 1 false).wf = false ∧ (Instr.sld 6 8 1 false).wf = false ∧ (Instr.sld 1 8 3 false).wf = false ∧
    (Instr.sst 6 29 1 false).wf = false ∧ (Instr.sst 5 8 1 false).wf = false ∧ (Instr.sst 6 8 3 false).wf = false ∧ (Instr.fence 0 .dev).wf = false ∧ (Instr.mma .dev 0 1 0).wf = false ∧
    (Instr.mma .dev 1 31 0).wf = false ∧ (Instr.mdrain .dev 1 31 0).wf = false ∧ (Instr.cpy .dev 29).wf = false ∧ (Instr.cpynb .dev 1 0).wf = false ∧ (Instr.engpush .dev 29 1).wf = false ∧
    (Instr.sel .dev 0).wf = false ∧ (Instr.ldt 7 1 0).wf = false ∧ (Instr.ldtNb 1 6 1 0).wf = false ∧ (Instr.stt 0 1 0).wf = false := by decide +kernel
/-- The same for B words: q6 and q7 as sources (R8), a literal under a mask and 0xFFFF_FFFF as a literal (R58, R59), types that R140 does not list, `.nan` of a wide type (R125), `vpack` that does not narrow and `vunpack` that does not widen (R126), an index beyond the elements (R136), `qadv` by 0 and by 17 (R137). -/
theorem test_ill_formed_b : let m : BMask := ⟨0, false⟩
    (Instr.vaddF32 m (.v 0) (.q 6 0) (.v 0 .none)).wf = false ∧ (Instr.vaddF32 m (.v 0) (.v 0) (.q 7 0)).wf = false ∧ (Instr.vaddF32 m (.v 0) (.v 0) (.lit 0xFFFFFFFF)).wf = false ∧
    (Instr.vaddF32 ⟨1, false⟩ (.v 0) (.v 0) (.lit 0)).wf = false ∧ (Instr.vabs m (.v 0) .n8 (.v 0 .none)).wf = false ∧ (Instr.vrcpa m (.v 0) .l8e4 (.v 0 .none)).wf = false ∧
    (Instr.vredsum m (.v 0) .i16 .dyn (.v 0 .none)).wf = false ∧ (Instr.vredsum m (.v 0) .i32 .rne (.v 0 .none)).wf = false ∧ (Instr.vredmax m (.v 0) .i64 (.v 0 .none)).wf = false ∧
    (Instr.vcompress m (.v 0) .f32 (.v 0 .none)).wf = false ∧ (Instr.vmov m (.v 0) (.q 6 0)).wf = false ∧ (Instr.vcvt m 0 .f32 .i8 .dyn true 0).wf = false ∧ (Instr.vpack m 0 .f32 .f32 .dyn false 0).wf = false ∧
    (Instr.vunpack m 0 .f16 .bf16 0).wf = false ∧ (Instr.vslide m (.v 0) .i32 16 (.v 0)).wf = false ∧ (Instr.vbcast m (.v 0) .i64 8 (.v 0)).wf = false ∧ (Instr.qadv 0 0).wf = false ∧ (Instr.qadv 0 17).wf = false ∧
    (Instr.bqput 0 (.q 6 0)).wf = false := by decide +kernel

/-- R74: borderline cases of division; R73: shift counts of 64 and above wrap. -/
theorem test_division : let s := lab fun h => (h.setG 1 0x8000000000000000).setG 2 0xFFFFFFFFFFFFFFFF
    (after (.div 3 1 2) s).g 3 = 0x8000000000000000 ∧ (after (.rem 3 1 2) s).g 3 = 0 ∧ (after (.div 3 1 0) s).g 3 = 0 ∧ (after (.rem 3 1 0) s).g 3 = 0x8000000000000000 ∧
    (after (.mulhu 3 2 2) s).g 3 = 0xFFFFFFFFFFFFFFFE ∧ (after (.mulh 3 2 2) s).g 3 = 0 ∧ (after (.sra 3 1 2) s).g 3 = 0xFFFFFFFFFFFFFFFF := by decide +kernel
/-- spec/05 after R76: `lih g3, 0x91A2` gives 0x1234_4000, and `addi g3, g3, 0x1678` then 0x1234_5678. A step moves to the next frame (R14). -/
theorem test_step_constant :
    (stepped (placed 0x891891A2)).g 3 = 0x12344000 ∧ (stepped (placed 0x891891A2)).hart.pc = 0x10008 ∧ (after (.addi 3 3 0x1678) (lab (·.setG 3 0x12344000))).g 3 = 0x12345678 := by decide +kernel
/-- R78 and R84: a taken branch goes to F + 8 * off14. R82: `loopi` pushes the frames after it. -/
theorem test_step_control :
    (stepped (placed 0x8C000002)).hart.pc = 0x10010 ∧ (after (.loopi 10 2) (lab fun h => { h with pc := 0x4048 })).hart.loops = [⟨0x4050, 0x4058, 10⟩] ∧
    (after (.loop 0 1) (lab fun h => { h with pc := 0x4030 })).hart.pc = 0x4040 := by decide +kernel
/-- R7: g0 discards what is written to it. -/
theorem test_g0 : (after (.addi 0 0 5) (lab id)).g 0 = 0 := by decide +kernel
/-- R88: `ld.i32` sign-extends, `ld.n32` zero-extends, and an address off its size traps with the address. -/
theorem test_load : let s := (lab (·.setG 4 self)).wrN (poolKey 0 8) 4 0x80000001
    (after (.ld 3 4 .i32 (.weak 2)) s).g 3 = 0xFFFFFFFF80000001 ∧ (after (.ld 3 4 .n32 (.weak 2)) s).g 3 = 0x80000001 ∧
    (let t := after (.ld 3 4 .i64 (.weak 0)) (lab fun h => (h.setG 4 (self + 4)).setReg .mtvec 0x8000)
     t.hart.pc = 0x8100 ∧ t.csr .mcause = 4 ∧ t.csr .maddr = self + 4 ∧ t.g 3 = 0) := by decide +kernel
/-- R21 and R88: a store waits in the store buffer, and performed it leaves the low bytes of gs in memory, little-endian. -/
theorem test_store : let s := after (.st 3 4 .i16 (.weak 1)) (lab fun h => (h.setG 4 self).setG 3 0x12345678)
    s.rdN (poolKey 0 2) 2 = 0 ∧ s.hart.sbuf.length = 1 ∧ (after .storePerformed s).rdBytes (poolKey 0 0) 6 = [0, 0, 0x78, 0x56, 0, 0] := by decide +kernel
/-- R225 to R227: `amoadd` returns the old value and stores the sum. -/
theorem test_atomic : let s := after (.amoaddI64 3 4 5 0 .dev) ((lab fun h => (h.setG 4 self).setG 5 7).wrN (poolKey 0 0) 8 35)
    s.g 3 = 35 ∧ s.rdN (poolKey 0 0) 8 = 42 := by decide +kernel
/-- R25, R72 and R101: `ecall` in machine mode has cause 0x0C, saves its own frame, and goes to the vector + 64 * cause; `eret` goes back to the saved frame in the saved mode (R102). -/
theorem test_trap_return : let t := after .ecall (lab fun h => { h.setReg .mtvec 0x8000 with pc := 0x4000 })
    t.hart.pc = 0x8300 ∧ t.csr .mcause = 0xC ∧ t.csr .mpc = 0x4000 ∧ t.hart.td = 1 ∧ t.hart.ie = false ∧ (after .eret t).hart.pc = 0x4000 ∧ (after .eret t).hart.td = 0 ∧ (after .eret t).hart.priv = 3 := by decide +kernel
/-- R9, R99 and spec/04: CYCLE is read-only, so a write of it is illegal, cause 2; FFLAGS takes a write of its five bits. -/
theorem test_control_registers : (after (.csrw 3 0) (lab (·.setG 3 0xFF))).csr .fflags = 0x1F ∧ (after (.csrr 5 0x101) (lab id)).g 5 = 4 ∧
    (after (.csrw 3 0x003) (lab fun h => h.setReg .mtvec 0x8000)).hart.pc = 0x8080 := by decide +kernel
/-- R95: `ldfe.clr` of a full granule takes its word and empties it, and of an empty one waits. -/
theorem test_full_empty : let s := (lab (·.setG 4 self)).setFull (poolKey 0 0) 16 true
    (after (.ldfe 3 4 false 0) (s.wrN (poolKey 0 0) 8 9)).g 3 = 9 ∧ (after (.ldfe 3 4 false 0) s).isFull (poolKey 0 0) = false ∧ (after (.ldfe 3 4 false 0) (lab (·.setG 4 self))).hart.aStall ≠ none := by decide +kernel
/-- R90 and R18: `ldq` reserves the next slot, which holds its 64 bytes once they have landed. -/
theorem test_queue_load : let s := after (.ldq 2 4 (.weak 0)) ((lab (·.setG 4 self)).wrN (poolKey 0 60) 4 7)
    ((s.hart.rq 2).filled = 0 ∧ (s.hart.rq 2).ents.length = 1) ∧ (let t := after (.loadLanding 0) s; (t.hart.rq 2).filled = 1 ∧ bitsN ((t.hart.rq 2).slots[0].setWidth 512 >>> 480 |>.setWidth 64) 31 0 = 7) := by decide +kernel

/-- The table of spec/03: FP32 into L8E4 under RNE and `.sat`, RNE and `.nan`, RTZ and `.sat`. -/
theorem test_convert_l8e4 :
    convert .f32 .l8e4 0 false 0x3F800000 = (0x40, 0) ∧ convert .f32 .l8e4 0 false 0x43740000 = (0x7F, fNX) ∧ convert .f32 .l8e4 0 false 0x43780000 = (0x7F, fOF ||| fNX) ∧ convert .f32 .l8e4 0 true 0x43780000 = (0x80, fOF ||| fNX) ∧
    convert .f32 .l8e4 1 false 0x43780000 = (0x7F, fNX) ∧ convert .f32 .l8e4 0 true 0x7F800000 = (0x80, fNV) ∧ convert .f32 .l8e4 1 false 0x7F800000 = (0x7F, fOF ||| fNX) ∧
    convert .f32 .l8e4 0 false 0xBA83126F = (0x81, fUF ||| fNX) ∧ convert .f32 .l8e4 1 false 0xBA83126F = (0x81, fUF ||| fNX) ∧ convert .f32 .l8e4 0 false 0xB9D1B717 = (0, fUF ||| fNX) ∧ convert .f32 .l8e4 0 false 0x7FC00000 = (0x80, 0) := by decide +kernel
/-- The order keys of spec/03 after R56. -/
theorem test_order_keys : [0xFF, 0xC0, 0xB8, 0x00, 0x01, 0x38, 0x40, 0x7F, 0x80].map (orderKey .l8e4) = [0x00, 0x3F, 0x47, 0x80, 0x81, 0xB8, 0xC0, 0xFF, 0x00] := by decide +kernel
/-- The sums of spec/06 after R134: 2^24 and fifteen ones, and with element 15 inactive. -/
theorem test_reduce : let x := 0x4B800000 :: List.replicate 15 0x3F800000
    let h := (user fun h => { h with v := h.v.set 3 0x7FFF }).hart
    h.reduce .f32 ⟨0, false⟩ (fun _ => true) (fun p q => fF32.op .add 0 0 p q) 0 x = (0x4B800007, fNX) ∧
    h.reduce .f32 ⟨3, false⟩ (fun _ => true) (fun p q => fF32.op .add 0 0 p q) 0 x = (0x4B800006, fNX) := by decide +kernel
/-- R139 and the draw of spec/18 R328: Mix(0, 0), Mix(1, 0), the logarithms of lane 1 and both keys. -/
theorem test_draw : mix 0 0 = 0 ∧ mix 1 0 = 0x6C65942E ∧ (SFn.log2.apply fF32 0x3ED8CB2A).1 = 0xBF9EB200 ∧ (SFn.log2.apply fF32 0x3F9EB200).1 = 0x3E9EC700 ∧
    fF32.op .sub 0 0 0x40C00000 0x4092B800 = (0x3FB52000, 0) ∧ fF32.op .sub 0 0 0x40C00000 0x3E9EC700 = (0x40B61390, 0) := by decide +kernel
/-- R105, R108 and R112: a B word adds elementwise and retires from the sequencer; an inactive element keeps its old bits. -/
theorem test_vector_add : let s := user fun h => { h with v := ((h.v.set 1 (BitVec.ofNat 512 (0x3F800000 + 0x40000000 * 2 ^ 32))).set 2 (BitVec.ofNat 512 (0x40000000 + 0x40000000 * 2 ^ 32))).set 3 2, seq := [entry 0] }
    (after (.vaddF32 ⟨0, false⟩ (.v 4) (.v 1) (.v 2 .none)) s).hart.rv 4 = BitVec.ofNat 512 (0x40400000 + 0x40800000 * 2 ^ 32) ∧
    (after (.vaddF32 ⟨3, false⟩ (.v 4) (.v 1) (.v 2 .none)) s).hart.rv 4 = BitVec.ofNat 512 (0x40800000 * 2 ^ 32) ∧ (after (.vaddF32 ⟨0, false⟩ (.v 4) (.v 1) (.v 2 .none)) s).hart.seq = [] := by decide +kernel
/-- R201 and R203: a store through a leaf sets A and D there once its translation is noted. -/
theorem test_accessed_dirty : let s := (mapped (lab id)).wrN 0x3000 8 (2 ^ 63 + 0xF)
    (after (.pageWalk 0x10000 .read) s).rdN 0x3000 8 = 2 ^ 63 + 0x1F ∧ (after (.pageWalk 0x10000 .write) s).rdN 0x3000 8 = 2 ^ 63 + 0x3F := by decide +kernel
/-- R26: after reset only control hart 0 of die 0 runs, and it executes the boot ROM. -/
theorem test_reset : State.reset.hid = bootHart ∧ State.reset.hart.run = .running ∧ State.reset.hart.priv = 3 ∧ (State.reset.getHart 0).run = .parked ∧ (State.reset.getHart (ctlHart 1 0)).run = .held := by decide +kernel
theorem witness_ControlTransfers :
    ((lab (·.setG 1 16)).g 1 + (0 : BitVec 14).signExtend 64).toNat % 8 = 0 ∧ ((lab (·.setG 1 4)).g 1 + (0 : BitVec 14).signExtend 64).toNat % 8 ≠ 0 ∧
    (lab id).hart.bq = [] ∧ (lab fun h => { h with bq := [true] }).hart.bq = [true] ∧ (lab id).g 1 = (lab id).g 2 ∧ (lab (·.setG 1 4)).g 1 ≠ (lab (·.setG 1 4)).g 2 := by
  decide +kernel

theorem witness_HardwareLoops :
    let s := placed 0x96000401
    let deep := lab fun h => { h with loops := List.replicate 4 ⟨0, 0, 1⟩ }
    let inner := lab fun h => { h with loops := [⟨0, 8, 1⟩] }
    (lab id).g 1 = 0 ∧ deep.hart.loops.length = 4 ∧ (inner.hart.loops = [⟨0, 8, 1⟩] ∧ (8 : W64).toNat < (inner.hart.pc + BitVec.ofNat 64 (8 * (2 : BitVec 10).toNat)).toNat) ∧
    (lab id).bodyFrames 8 1 = none ∧ (s.bodyFrames (s.hart.pc + 8) 1).map Prod.fst = some [(0x10008, 0, 0)] ∧ plainFrame 0 0 = true ∧ (1 : W64) ≠ 0 ∧ 0 < (2 : W64).toNat ∧ 1 < (2 : W64).toNat := by
  decide +kernel

theorem witness_RepeatSteps :
    (∀ m, m ∈ [(0x40 : Nat), 0x5D, 0x5E, 0x6B, 0x6C, 0x6E, 0x6F, 0x70, 0x71, 0x73, 0x74, 0x76, 0x77, 0x78, 0x79, 0x7E] → fld (m * 2 ^ 22) 22 7 = m) ∧
    (entry 0).bad = none ∧ (entry 0).lit = none := by
  decide +kernel

theorem witness_Load :
    let s := lab (·.setG 1 (self + 8))
    let old := lab fun h => ({ h with sbuf := [⟨.mem 0, 0, [], 0, false, false, false, false⟩] }).setG 1 (self + 8)
    let r := under (2 ^ 63 + 0x4000000000037) (·.setG 1 8)
    (old.hart.quiet = false ∧ memStrong (.strong 1 .dev 0) = true) ∧ (user id).access (user id).me (self + 8) 8 .read = .trap ⟨5, 0, self + 8⟩ ∧
    (let b : State := { s with bad := [((poolKey 0 8) / 8, true)] }
     b.access b.me (self + 8) 8 .read = .ok (.mem (poolKey 0 8)) 0 ∧ b.badIn (poolKey 0 8) 8 = true) ∧
    (r.access r.me 8 8 .read = .ok (.reg 0x4000000000008) (w64 (2 ^ 63 + 0x4000000000037)) ∧ r.hart.quiet = true) ∧
    ((abroad id).access (abroad id).me 8 8 .read = .ok (.remote 1 8) (w64 (2 ^ 63 + 2 ^ 62 + 2 ^ 16 + 7)) ∧ (abroad id).hart.quiet = true) ∧
    ((lab (·.setG 1 (self + 4))).g 1 + memDisp (.weak 0) 8).toNat % 8 ≠ 0 ∧
    (s.g 1 + memDisp (.strong 1 .dev 0) 8).toNat % 8 = 0 ∧ s.hart.quiet = true ∧ s.hart.sbuf = [] ∧ s.hart.cbuf = [] ∧
    s.groupAhead s.hart.fno (self + 8) 8 = false ∧ s.access s.me (self + 8) 8 .read = .ok (.mem (poolKey 0 8)) 0 ∧ s.badIn (poolKey 0 8) 8 = false := by
  decide +kernel

theorem eraseDups_of_nodup (l : List Nat) (h : l.Nodup) : l.eraseDups = l := by
  induction l with
  | nil => rfl
  | cons a l ih =>
    have f : l.filter (fun b => !b == a) = l := List.filter_eq_self.2 fun b hb => by
      have : b ≠ a := fun e => (List.nodup_cons.1 h).1 (e ▸ hb)
      simp [this]
    rw [List.eraseDups_cons, f, ih (List.nodup_cons.1 h).2]
/-- A buffered task whose commit buffer holds the lines 0 to 1023. -/
noncomputable def topped : State := { placed 0x98000000 with hart := { (placed 0x98000000).hart with task := some draft, cbuf := (List.range 1024).map fun i => (i, 0) } }
theorem topped_lines : topped.hart.cbufLines = List.range 1024 := by
  have b : topped.hart.sbuf = [] := by decide +kernel
  have c : topped.hart.cbuf = (List.range 1024).map fun i => (i, 0) := by unfold topped; with_reducible rfl
  unfold Hart.cbufLines
  rw [b, c, List.map_map, List.filter_nil, List.map_nil, List.append_nil]
  exact (congrArg List.eraseDups (List.map_id _)).trans (eraseDups_of_nodup _ List.nodup_range)
theorem witness_Store_full : topped.hart.isBuffered = true ∧ topped.hart.cbufLines.length = 1024 ∧ 0x20000 / 64 ∉ topped.hart.cbufLines ∧ topped.hart.older = false := by
  refine ⟨by decide +kernel, ?_, ?_, by decide +kernel⟩
  · rw [topped_lines, List.length_range]
  · rw [topped_lines, List.mem_range]; decide
theorem witness_Store :
    let s := lab (·.setG 1 (self + 8))
    let full := lab fun h => { h with sbuf := List.replicate 64 ⟨.mem 0, 0, [], 0, false, false, false, false⟩ }
    let t := placed 0x98000000
    let d : State := { t with hart := { t.hart with task := some draft } }
    let r := under (2 ^ 63 + 0x4000000000037) id
    (user id).access (user id).me (self + 8) 8 .write = .trap ⟨5, 0, self + 8⟩ ∧ r.access r.me 8 8 .write = .ok (.reg 0x4000000000008) (w64 (2 ^ 63 + 0x4000000000037)) ∧
    ((abroad id).access (abroad id).me 8 8 .write = .ok (.remote 1 8) (w64 (2 ^ 63 + 2 ^ 62 + 2 ^ 16 + 7)) ∧ (abroad id).hart.isBuffered = false) ∧
    full.hart.sbuf.length = 64 ∧ s.access s.me (self + 8) 8 .write = .ok (.mem (poolKey 0 8)) 0 ∧
    d.hart.isBuffered = true ∧ d.hart.cbufLines.length < 1024 ∧
    d.access d.me 0x20000 8 .write = .ok (.mem 0x20000) (w64 (2 ^ 63 + 0x37)) := by
  decide +kernel
theorem witness_StoreBuffer :
    let e : StoreEnt := ⟨.mem (poolKey 0 8), self + 8, leBytes 8 5, 0, true, false, false, false⟩
    let c : StoreEnt := ⟨.mem 64, 64, leBytes 8 5, 0, false, true, false, false⟩
    let s := lab fun h => { h with sbuf := [e] }
    let t := lab fun h => { h with sbuf := [c], task := some draft }
    let none_ : State := { s with hart := { s.hart with seq := [entry 0] } }
    let reg : StoreEnt := { e with loc := .reg 0x4000000000008, setFull := false }
    let far : StoreEnt := { e with loc := .remote 1 8, rel := true }
    (∃ x ∈ none_.hart.seq ++ none_.hart.enter, x.fno ≤ e.fno) ∧ (storing reg).hart.sbuf = [reg] ∧ (storing far).hart.sbuf = [far] ∧ far.rel = true ∧
    (∀ y ∈ [e, reg, far], (∀ x ∈ s.hart.seq ++ s.hart.enter, y.fno < x.fno) ∧ (∀ z ∈ s.hart.walks, y.fno < z.fno) ∧
      s.groupAhead y.fno y.va y.data.length = false ∧ s.hart.groupsBefore y.fno = false ∧ y.buffered = false ∧ y.tracked = false) ∧ e.loc = .mem (poolKey 0 8) ∧
    t.hart.cbuf.find? (·.1 == 1) = none ∧
    s.hart.sbuf = [e] ∧ s.hart.storeReady e = true ∧ s.badIn (poolKey 0 8) e.data.length = false ∧ (e.va.getLsbD 63 = false → s.dumpHolds s.part e.va = none) ∧ e.setFull = true ∧ 2 ^ 52 ≤ poolKey 0 8 ∧
    t.hart.sbuf = [c] ∧ t.hart.storeReady c = true ∧ c.va.toNat % 64 + c.data.length ≤ 64 ∧
    (lab id).hart.sbuf = [] ∧ (lab id).hart.isBuffered = false ∧ ([0, 0] : List Byte).length = ([1, 2] : List Byte).length ∧ (lab id).hart.fno ≤ 0 := by
  decide +kernel

theorem witness_QueueLoadStore :
    let s := lab (·.setG 1 (self + 64))
    let p := lab fun h => { h with q := h.q.set 0 packed }
    let f := lab fun h => ({ h with q := h.q.set 6 filled }).setG 1 (self + 64)
    ((lab (·.setG 1 (self + 8))).g 1 + memDisp (.weak 0) 64).toNat % 64 ≠ 0 ∧
    (s.g 1 + memDisp (.strong 1 .dev 0) 64).toNat % 64 = 0 ∧ s.hart.streamBusy 0 = false ∧ (s.hart.rq 0).ents.length < 16 ∧ s.hart.quiet = true ∧
    s.groupAhead s.hart.fno (self + 64) 64 = false ∧ s.access s.me (self + 64) 64 .read = .ok (.mem (poolKey 0 64)) 0 ∧ s.badIn (poolKey 0 64) 64 = false ∧
    (p.hart.rq 0).ents.length = 16 ∧ s.hart.sstFault 6 = false ∧ (s.hart.rq 6).headFull = false ∧
    (f.hart.rq 6).headFull = true ∧ f.hart.sstFault 6 = false ∧ f.hart.streamBusy 6 = false ∧ f.access f.me (self + 64) 64 .write = .ok (.mem (poolKey 0 64)) 0 ∧
    (lab fun h => { h with flight := [⟨0, 0, 0, 1⟩] }).hart.flight[0]? = some ⟨0, 0, 0, 1⟩ ∧
    (user id).access (user id).me (self + 64) 64 .read = .trap ⟨5, 0, self + 64⟩ ∧ (user id).access (user id).me (self + 64) 64 .write = .trap ⟨5, 0, self + 64⟩ ∧
    (let b : State := { s with bad := [((poolKey 0 64) / 8, true)] }
     b.access b.me (self + 64) 64 .read = .ok (.mem (poolKey 0 64)) 0 ∧ b.badIn (poolKey 0 64) 64 = true) ∧
    (let x : Stream := ⟨(lab oneGroup).streamDesc 4, true, 0, false, true, 0, 0, 0⟩
     (lab (·.setStream 6 x)).hart.sstFault 6 = true) := by
  decide +kernel

theorem witness_FullEmpty :
    let s := lab fun h => (h.setG 1 (self + 16)).setG 2 32
    let t := s.setFull (poolKey 0 16) 8 true
    let b : State := { t with bad := [((poolKey 0 16) / 8, true)] }
    let place (s : State) (x : W64) (m al : Nat) : Res := if x.getLsbD 63 = false then .trap ⟨5, 0, x⟩ else if x.toNat % al ≠ 0 then .trap ⟨4, 0, x⟩ else s.resolveCore s.me x m .fe
    let line := s.setCore 0 { Core.reset with feq := (List.range 16).map fun i => (0, 8 + i) }
    let away : State := line.focus 4
    let old := lab fun h => ({ h with sbuf := [⟨.mem 0, 0, [], 0, false, false, false, false⟩] }).setG 1 (self + 16)
    place s 8 8 8 = .trap ⟨5, 0, 8⟩ ∧ place s (self + 4) 8 8 = .trap ⟨4, 0, self + 4⟩ ∧ place s (self + 16) 8 8 = .ok (.mem (poolKey 0 16)) 0 ∧
    s.hart.wait = .none ∧ (lab fun h => { h with wait := .fe 0 }).hart.wait = .fe 0 ∧ old.hart.quiet = false ∧
    s.hart.quiet = true ∧ s.isFull (poolKey 0 16) = false ∧ t.isFull (poolKey 0 16) = true ∧ t.badIn (poolKey 0 16) 8 = false ∧ b.isFull (poolKey 0 16) = true ∧ b.badIn (poolKey 0 16) 8 = true ∧
    (t.core 0).feq.find? (·.1 == poolKey 0 16 / 16) = none ∧ (s.core 0).feq = [] ∧
    ((line.core 0).feq.filter fun e => isControl e.2 || coreOf e.2 != 0).length = 16 ∧ coreOf away.hid = 1 ∧
    s.hart.sbuf.length < 64 ∧ (s.g 1).toNat % 16 = 0 ∧ (s.g 2).toNat % 16 = 0 ∧ s.g 2 ≠ 0 ∧ place s (s.g 1) 32 16 = .ok (.mem (poolKey 0 16)) 0 ∧
    ((lab (·.setG 1 8)).g 1).toNat % 16 ≠ 0 := by
  decide +kernel

theorem witness_Streams :
    let s := lab oneGroup
    let x : Stream := ⟨s.streamDesc 4, true, 0, false, false, 0, s.hart.fno, 0⟩
    let z : Stream := ⟨(lab id).streamDesc 4, true, 0, false, false, 0, 0, 0⟩
    let off := lab fun h => (oneGroup h).setG 4 (self + 8)
    let y : Stream := ⟨off.streamDesc 4, true, 0, false, false, 0, 0, 0⟩
    let busy := lab fun h => h.setStream 0 x
    let lost := lab fun h => h.setStream 6 { x with faulted := true }
    x.total = 1 ∧ (x.groupAddr 0).toNat % 64 + x.glen ≤ 64 ∧ s.hart.sstFault 0 = false ∧ s.hart.streamBusy 0 = false ∧ (s.hart.stream 0).active = false ∧
    z.total = 0 ∧ y.total = 1 ∧ 64 < (y.groupAddr 0).toNat % 64 + y.glen ∧ busy.hart.streamBusy 0 = true ∧ (busy.hart.stream 0).active = true ∧ lost.hart.sstFault 6 = true := by
  decide +kernel

theorem witness_StreamGroups :
    let x : Stream := ⟨(lab oneGroup).streamDesc 4, true, 0, false, false, 0, 0, 0⟩
    let s := lab fun h => (h.setStream 0 x).setStream 6 x
    let f := lab fun h => { h.setStream 6 x with q := h.q.set 6 filled }
    (s.hart.stream 0).active = true ∧ (s.hart.stream 0).faulted = false ∧ 0 < x.total ∧ inLine (x.groupAddr 0) x.glen = true ∧ s.hart.isBuffered = false ∧
    (s.hart.rq 0).ents.length < 16 ∧ s.access s.me (x.groupAddr 0) x.glen .read = .ok (.mem (poolKey 0 0)) 0 ∧ s.badIn (poolKey 0 0) x.glen = false ∧
    s.groupAhead x.fno (x.groupAddr 0) x.glen = false ∧
    ((lab id).hart.stream 0).active = false ∧ (lab fun h => { h.setStream 0 x with q := h.q.set 0 packed }).hart.rq 0 = packed ∧ packed.ents.length = 16 ∧
    (let z : Stream := ⟨(lab fun h => (oneGroup h).setG 4 (self + 8)).streamDesc 4, true, 0, false, false, 0, 0, 0⟩
     inLine (z.groupAddr 0) z.glen = false ∧ 0 < z.total) ∧
    (user id).access (user id).me (x.groupAddr 0) x.glen .read = .trap ⟨5, 0, self⟩ ∧ (user id).access (user id).me (x.groupAddr 0) x.glen .write = .trap ⟨5, 0, self⟩ ∧
    (let b : State := { s with bad := [((poolKey 0 0) / 8, true)] }
     b.badIn (poolKey 0 0) x.glen = true) ∧
    (let y : Stream := { x with strong := true }
     let o := lab fun h => { h.setStream 0 y with fno := 3, seq := [{ entry 0 with fno := 0 }] }
     y.strong = true ∧ o.hart.discardable 1 = true) ∧
    f.hart.sbuf.length < 64 ∧ f.room ⟨.mem (poolKey 0 0), x.groupAddr 0, [0], x.fno, false, false, false, false⟩ = true ∧ s.hart.discardable x.fno = false ∧ (∀ e ∈ s.hart.sbuf, x.fno < e.fno) ∧ (s.hart.rq 6).headFull = false ∧
    (f.hart.rq 6).headFull = true ∧ f.access f.me (x.groupAddr 0) x.glen .write = .ok (.mem (poolKey 0 0)) 0 ∧ f.groupAhead x.fno (x.groupAddr 0) x.glen = false := by
  decide +kernel
theorem witness_ControlRegisters :
    let old := lab fun h => { h with seq := [entry 0] }
    let bd := lab fun h => h.setReg .bdsel 0
    csrAccess false 0 0x100 = none ∧ csrAccess false 3 0x100 = some true ∧ csrAccess false 3 0x003 = some false ∧ csrAccess false 3 0x001 = some true ∧
    csrAccess false 3 0x143 ≠ none ∧ csrHeld 3 0x100 = some .status ∧ csrHeld 0 0x002 = some .lperm ∧ (lab id).hart.priv = 3 ∧ (user id).hart.priv = 0 ∧
    old.hart.older = true ∧ (lab id).hart.older = false ∧ csrAccess true 3 0x121 = some true ∧ bd.bdPending = false ∧
    (bd.setDie 0 { bd.die 0 with doms := [⟨0, 1, [], none⟩] }).bdPending = true ∧
    (0x016, 0x016, some false) ∈ csrColumns false 0 ∧ (∀ r ∈ csrColumns true 3, 0x00F < r.1 ∨ r.2.1 < 0x00F) ∧ (0x017, [], [(1, 0)]) ∈ csrFields false ∧
    (lab id).hart.quiet = true ∧ (lab id).hart.groupsBefore (lab id).hart.fno = false := by
  decide +kernel

theorem witness_Traps :
    let s := lab fun h => h.setReg .mtvec 0x1000
    let deep := lab fun h => h.setReg .status 0x460
    let old := lab fun h => { h with seq := [entry 0] }
    let ret := lab fun h => h.setReg .status 0x9E0
    let told := lab fun h => (h.setReg .status 0x260).setStream 1 { h.stream 1 with faulted := true, told := 1 }
    (s.hart.td < 2 ∧ s.hart.reg (bank (trapMode s.ctl s.hart.priv 0xC)).tvec ≠ 0 ∧ s.ctl = false) ∧ Calm s.hart ∧ old.hart.older = true ∧
    ((put 0).fno < (storing (put 0)).hart.fno ∧ (storing (put 0)).storeBehind (put 0) = false) ∧
    (2 ≤ deep.hart.td ∧ deep.ctl = false) ∧ (lab id).hart.reg (bank (trapMode false 3 0xC)).tvec = 0 ∧ ((boss id).hart.reg (bank (trapMode true 3 0xC)).tvec = 0 ∧ (boss id).ctl = true ∧ (boss id).predOf (boss id).hid = none) ∧
    (user id).hart.priv = 0 ∧ ret.hart.priv = 3 ∧ (ret.csr .status).getLsbD 11 = true ∧ (s.csr .status).getLsbD 11 = false ∧
    ((told.hart.stream 1).faulted = true ∧ (told.hart.stream 1).told ≠ 0 ∧ (told.hart.stream 1).told = told.hart.td) ∧ (∀ q, (s.hart.stream q).told = s.hart.td + 1 → (s.hart.stream q).faulted = false) := by
  decide +kernel

/-- A predicate under way on control hart 0 (R317). -/
def judging : State :=
  let z : Session := ⟨Vector.replicate 9 0, 0, 0, 0, false, false, [], 0, 0, 0, 0, 0, [], [], some ⟨65536, 0, Hart.control, 0⟩, 0, false, [], [], false, [], [], []⟩
  (boss id).setDie 0 { Die.reset with sessions := [(0, some z)] }

theorem witness_Predicate : judging.ctl = true ∧ judging.predOf judging.hid = some 0 ∧ Calm judging.hart := by
  decide +kernel

theorem witness_TrapEvents :
    let irq := lab fun h => (((h.setReg .intpend 1).setReg .inten 1).setReg .status 0x68).setReg .mtvec 0x1000
    let usr := user fun h => (((h.setReg .intpend 1).setReg .inten 1).setReg .status 8).setReg .stvec 0x1000
    let mid : State := { usr with hart := { usr.hart with seq := [entry 0] } }
    let held := lab fun h => { h.setReg .mtvec 0x1000 with trap := some ⟨7, 0, self⟩ }
    let dead : State := { lab fun h => { h.setReg .mtvec 0x1000 with aStall := some .queue } with clk := 64 }
    let both : State := { lab fun h => { h.setReg .mtvec 0x1000 with aStall := some .bq, bStall := some .queue, seq := [entry 0] } with clk := 64 }
    let stuck (s : State) : Prop := s.hart.run = .running ∧ (s.hart.aStall = some .queue ∨ s.hart.aStall = some .bq) ∧ (s.hart.seq = [] ∨ s.hart.bStall = some .queue) ∧ s.hart.flight = [] ∧
      (∀ q, s.canMove q = false) ∧ 64 ≤ (s.clk - s.hart.stallAt).toNat
    (usr.irq usr.hid = some 0 ∧ usr.cuttable = true ∧ usr.hart.td < 2 ∧ usr.hart.reg (bank (trapMode usr.ctl usr.hart.priv 0x30)).tvec ≠ 0 ∧ usr.ctl = false) ∧
    (usr.hart.seq ++ usr.hart.enter = [] ∧ usr.hart.redo = none) ∧ (mid.hart.seq ++ mid.hart.enter = [entry 0] ∧ mid.irq mid.hid = some 0 ∧ mid.cuttable = true) ∧
    irq.irq irq.hid = none ∧ held.hart.trap = some ⟨7, 0, self⟩ ∧ Calm held.hart ∧ held.hart.td < 2 ∧
    held.hart.reg (bank (trapMode held.ctl held.hart.priv 7)).tvec ≠ 0 ∧ (lab id).hart.trap = none ∧ (lab id).hart.aStall = none ∧ (stuck dead ∧ dead.hart.seq = [] ∧ Calm dead.hart) ∧
    stuck both ∧ both.hart.seq = [entry 0] ∧ (entry 0).res = none ∧ both.hart.sbuf = [] ∧ dead.hart.td < 2 ∧ dead.hart.reg (bank (trapMode dead.ctl dead.hart.priv 11)).tvec ≠ 0 ∧
    (usr.intpend usr.hid ≠ 0) ∧ (lab id).intpend (lab id).hid = 0 ∧ (lab id).hart.preAsked = false ∧
    (lab fun h => { h with pre := some ⟨.requested, 1, 0, false, 0, 0, false⟩ }).hart.preAsked = true ∧
    (lab fun h => h.setReg .timecmp 0).csr .timecmp ≤ (lab id).clk ∧ (lab id).clk < (lab id).csr .timecmp := by
  decide +kernel

theorem witness_Atomics_forms : amoForm (.amomaxI64 2 1 3 0 .dev) = some (.max, 8, 2, 1, 3, 0, .dev) ∧ amoForm (.amoaddI32 2 1 3 2 .dev) = some (.add, 4, 2, 1, 3, 2, .dev) :=
  ⟨rfl, rfl⟩

theorem witness_Atomics :
    let s := lab (·.setG 1 (self + 8))
    let p := placed 0
    let host : State := (p.wrN 0x3000 8 (2 ^ 63 + 2 ^ 51 + 0x37)).mapHart (·.setG 1 0x20000)
    let old := lab fun h => ({ h with sbuf := [put 0] }).setG 1 (self + 8)
    (s.g 1).toNat % 8 = 0 ∧ ((lab (·.setG 1 (self + 4))).g 1).toNat % 8 ≠ 0 ∧ s.hart.quiet = true ∧ old.hart.quiet = false ∧
    s.access s.me (self + 8) 8 .atomic = .ok (.mem (poolKey 0 8)) 0 ∧ isHostMem (poolKey 0 8) = false ∧ s.badIn (poolKey 0 8) 8 = false ∧
    host.access host.me 0x20000 8 .atomic = .ok (.mem (2 ^ 51 + 0x20000)) (w64 (2 ^ 63 + 2 ^ 51 + 0x37)) ∧ isHostMem (2 ^ 51 + 0x20000) = true ∧
    (s.groupAhead s.hart.fno (self + 8) 8 = false ∧ s.hart.groupsBefore s.hart.fno = false) ∧ (user id).access (user id).me (self + 8) 8 .atomic = .trap ⟨5, 0, self + 8⟩ ∧
    ({ s with bad := [((poolKey 0 8) / 8, true)] } : State).badIn (poolKey 0 8) 8 = true ∧
    ((abroad id).access (abroad id).me 8 8 .atomic = .ok (.remote 1 8) (w64 (2 ^ 63 + 2 ^ 62 + 2 ^ 16 + 7)) ∧ ((abroad id).route 1).getLsbD 62 = false) := by
  decide +kernel

theorem witness_FenceAndWait :
    let s := lab fun h => (h.setG 1 (self + 8)).setG 2 0
    let x : Stream := ⟨(lab oneGroup).streamDesc 4, true, 0, false, true, 0, 0, 0⟩
    let lost := lab (·.setStream 6 x)
    let busy := lab fun h => { h with sbuf := [put 0] }
    let late := lab fun h => (h.setG 1 (self + 8)).setG 2 1
    let poll := lab fun h => { h with aStall := some .other, fr := some (0xA8004400, 0) }
    (2 : BitVec 3).getLsbD 1 = true ∧ lost.hart.sstFault 6 = true ∧ (s.hart.sstFault 6 = false ∧ s.hart.sstFault 7 = false) ∧ busy.hart.sbuf ≠ [] ∧ s.hart.sbuf = [] ∧
    s.engineBusy s.hid = false ∧ (s.g 1).toNat % 8 = 0 ∧ s.hart.quiet = true ∧ busy.hart.quiet = false ∧ s.groupAhead s.hart.fno (s.g 1) 8 = false ∧
    s.access s.me (s.g 1) 8 .read = .ok (.mem (poolKey 0 8)) 0 ∧ (s.g 2).toNat % 2 ^ 56 ≤ s.rdN (poolKey 0 8) 8 % 2 ^ 56 ∧
    late.rdN (poolKey 0 8) 8 % 2 ^ 56 < (late.g 2).toNat % 2 ^ 56 ∧
    (poll.hart.aStall ≠ none ∧ poll.hart.fr = some (0xA8004400, 0) ∧ (0xA8004400 : W32).toNat % 2 ^ 30 = (Instr.waitge 1 2).bits) := by
  decide +kernel

theorem witness_LinksAndMailbox :
    let s := lab id
    let fed := s.setCore 0 ((s.core 0).setLink false [5])
    let full := s.setCore 1 ((s.core 1).setLink true [1, 2, 3, 4])
    let box := (lab fun h => (h.setG 1 1).setG 2 10).setCore 0 { Core.reset with mbox := [(3, 2)] }
    let refused := lab fun h => { h with nacks := [⟨self, 0⟩] }
    s.ctl = false ∧ (boss id).ctl = true ∧ s.hart.older = false ∧ (∀ n, n < 4 → hartOf 0 n ≠ s.hid → (s.getHart (hartOf 0 n)).waiting 0x24 = none) ∧
    s.linkBusy 0 false = false ∧ (fed.core 0).link false = [5] ∧ (s.core 0).link false = [] ∧ ((s.core 1).link true).length < 4 ∧
    ((full.core 1).link true).length = 4 ∧ 0 % 8 = (if true = true then 0 else 7) ∧ s.linkDead 0 false s.clk = false ∧
    (box.core 0).mbox = [(3, 2)] ∧ box.g 1 = 1 ∧ refused.hart.nacks ≠ [] := by
  decide +kernel
theorem witness_Barriers :
    let s := lab (·.setG 1 1)
    let two := lab (·.setG 1 0x401)
    let nack := lab fun h => { h.setReg .mtvec 0x1000 with nacks := [⟨self, 4⟩] }
    let held (l : List Domain) := ({ lab id with clus := [(0, { Cluster.reset with doms := l })] } : State).cluster 0
    let w := lab fun h => { h with wait := .bar none }
    let open' := lab fun h => { h with phase := some ⟨0, 100, true, 1⟩ }
    let die := (lab (·.setG 1 0x4000000000000000)).setDie 0 { Die.reset with bdt := [(0, 2 ^ 63 + 1), (16, 1)] }
    let more := (lab (·.setG 1 0x4000000000000000)).setDie 0 { Die.reset with bdt := [(0, 2 ^ 63 + 2), (16, 1)] }
    (boss id).ctl = true ∧ s.ctl = false ∧ w.hart.wait = .bar none ∧ (s.hart.wait = .none ∧ s.hart.nacks = [] ∧ s.phaseOpen = false) ∧ s.hart.quiet = true ∧
    open'.phaseOpen = true ∧ domBad (s.g 1) = false ∧ domBad 0x80 = false ∧ domBad 0x100 = true ∧ bitsN (s.g 1) 63 62 = 0 ∧ (bitsN (s.g 1) 7 0).testBit (coreOf s.hid % 8) = true ∧
    (s.cluster 0).doms = [] ∧ (∀ j, j < 8 → (bitsN (s.g 1) 7 0).testBit j = true → ([s.hid].filter fun h => coreOf h % 8 == j).length = 1) ∧
    (two.cluster 0).doms = [] ∧ bitsN (two.g 1) 11 10 + 1 = 2 ∧ ([two.hid].filter fun h => coreOf h % 8 == 0).length ≠ 2 ∧
    domBad (die.g 1) = false ∧ bitsN (die.g 1) 63 62 = 1 ∧ (kget 0 (die.die 0).bdt 0).getLsbD 63 = true ∧ bitsN (kget 0 (die.die 0).bdt 0) 5 0 = 1 ∧
    (kget 0 (die.die 0).bdt 16).getLsbD (clusOf die.hid % 512) = true ∧ (die.die 0).doms = [] ∧ bitsN (kget 0 (more.die 0).bdt 0) 5 0 = 2 ∧
    (kget 0 (s.die 0).bdt 0).getLsbD 63 = false ∧ s.hart.groupsBefore s.hart.fno = false ∧
    (nack.hart.nacks = [⟨self, 4⟩] ∧ Calm nack.hart ∧ nack.hart.td < 2 ∧ nack.hart.reg (bank (trapMode nack.ctl nack.hart.priv 7)).tvec ≠ 0) ∧
    (∃ d ∈ (held [⟨3, 1, [4], none⟩]).doms, d.release = none ∧ d.key &&& 1 ≠ 0 ∧ (d.key ≠ 1 ∨ d.harts ≠ 1)) ∧
    4 ≤ ((held [⟨2, 1, [4], none⟩, ⟨4, 1, [8], none⟩, ⟨8, 1, [12], none⟩, ⟨16, 1, [16], none⟩]).doms.filter fun d => d.release.isNone).length ∧
    (held [⟨1, 1, [1], none⟩]).doms = ⟨1, 1, [1], none⟩ :: [] ∧ 1 ≤ ([1].filter fun h => coreOf h % 8 == coreOf s.hid % 8).length := by
  decide +kernel

theorem witness_BarrierLeave :
    let s := (lab fun h => { h with fr := some (0xA9004007, 0), wait := .bar (some 0) }).setCluster 0 { Cluster.reset with doms := [⟨1, 1, [0], some 0⟩] }
    let d := (lab fun h => { h with fr := some (0xA9004006, 0), wait := .bar (some 0) }).setDie 0 { Die.reset with doms := [⟨1, 1, [0], some 0⟩] }
    (0 : W64) ≤ s.clk ∧ [0].Nodup ∧ (s.cluster 0).doms = [⟨1, 1, [0], some 0⟩] ∧ (d.die 0).doms = [⟨1, 1, [0], some 0⟩] ∧
    (0xA9004007 : W32).toNat % 64 = 7 ∧ (0xA9004006 : W32).toNat % 64 ≠ 7 := by
  decide +kernel

theorem witness_Exchange :
    let s := tasked job fun h => { (h.setG 1 0).setG 2 (self + 64) with phase := some ⟨0, 100, true, 1⟩ }
    let t : State := { s with clk := 5 }
    let off := tasked job fun h => { (h.setG 1 8).setG 2 (self + 64) with phase := some ⟨0, 100, true, 1⟩ }
    let out := tasked job fun h => { (h.setG 1 0x2000).setG 2 (self + 64) with phase := some ⟨0, 100, true, 1⟩ }
    let mis := tasked job fun h => { (h.setG 1 0).setG 2 (self + 8) with phase := some ⟨0, 100, true, 1⟩ }
    let far := tasked job fun h => { (h.setG 1 0).setG 2 64 with phase := some ⟨0, 100, true, 1⟩ }
    let slot := tasked job fun h => { h with wait := .timed 0, aStall := some .other, fr := some (0xAA088003, 0) }
    let hop : State := { lab id with dev := { Device.reset with packets := [⟨0, self + 64, 0, 3, leBytes 64 7, 0, 0⟩] } }
    let win := hop.setCore 0 { Core.reset with win := Vector.replicate 8 0x8400000000000100 }
    s.ctl = false ∧ (lab id).hart.phase = none ∧ s.hart.phase = some ⟨0, 100, true, 1⟩ ∧ s.phaseOpen = true ∧ (3 : BitVec 14).toNat < 100 ∧ 100 ≤ (100 : BitVec 14).toNat ∧
    bitsN (off.g 1) 17 0 % 64 ≠ 0 ∧ (bitsN (out.g 1) 17 0 % 64 = 0 ∧ out.outsideShare 0x2000 64 = some 0) ∧ (mis.outsideShare 0 64 = none ∧ (mis.g 2).toNat % 64 ≠ 0) ∧
    (far.outsideShare 0 64 = none ∧ (far.g 2).toNat % 64 = 0 ∧ far.destBad (far.g 2) = true) ∧ (s.outsideShare 0 64 = none ∧ s.destBad (s.g 2) = false) ∧
    ((0 : W64) + BitVec.ofNat 64 3 < t.clk ∧ s.clk < 3 ∧ s.clk = 0) ∧ s.hart.older = false ∧
    (slot.hart.wait = .timed 0 ∧ slot.hart.fr = some (0xAA088003, 0) ∧ (0xAA088003 : W32).toNat % 2 ^ 30 = (Instr.xsend 1 2 3).bits ∧ slot.hart.aStall ≠ none) ∧
    hop.packetAt 0 = some (0, ⟨0, self + 64, 0, 3, leBytes 64 7, 0, 0⟩) ∧ hop.gpart 0 = hop.partOf 0 ∧ hop.coreHalted 0 = false ∧
    hop.admits 0 .write (srcClass 0 0) 64 64 = false ∧ win.admits 0 .write (srcClass 0 0) 64 64 = true ∧ win.badIn (poolKey 0 64) 64 = false ∧
    (hop.setReg (dbgBase 0) (2 ^ 63)).coreHalted 0 = true ∧ (hop.core 0).inbox.length < 64 ∧ (hop.getHart 0).ident = 0 ∧ hop.dev.packets.length ≤ 1 := by
  decide +kernel

theorem witness_PhaseAndClock :
    let s : State := { (lab id) with dev := { Device.reset with balance := [⟨0, 1⟩] } }
    let p : State := { s with clus := [(0, { Cluster.reset with phases := [⟨0, 100, true, 1⟩] })] }
    s.dev.balance = [⟨0, 1⟩] ∧ (s.cluster 0).phases = [] ∧ (s.cluster 1).phases = [] ∧ (p.cluster 0).phases = [⟨0, 100, true, 1⟩] ∧ (p.clk - 0).toNat < 100 ∧
    1650 + (s.cluster 0).cut ≤ (s.cluster 0).mhz ∧ (s.cluster 1).mhz ≤ 1950 := by
  decide +kernel

theorem witness_Mailbox :
    let s := (lab fun h => ((h.setG 1 2).setG 2 10).setReg .mtvec 0x1000).setCore 0 { Core.reset with mbox := [(3, 2)] }
    let poll := lab fun h => { (h.setG 1 2).setG 2 10 with wait := .timed 0, aStall := some .sync, fr := some (0xAB004430, 0) }
    let late : State := { poll with clk := 10 }
    let nack := lab fun h => { h.setReg .mtvec 0x1000 with nacks := [⟨self, 4⟩] }
    s.hart.nacks = [] ∧ s.hart.older = false ∧ Calm nack.hart ∧ bitsN (s.g 1) 15 0 = 2 ∧ kget 0 (s.core 0).mbox 3 = 2 ∧ bitsN ((lab id).g 1) 15 0 = 0 ∧
    (∀ m, m < 4 → hartOf 0 m ≠ s.hid → (s.getHart (hartOf 0 m)).waiting 0x2B = none) ∧ nack.hart.nacks = [⟨self, 4⟩] ∧ nack.hart.td < 2 ∧
    nack.hart.reg (bank (trapMode nack.ctl nack.hart.priv 7)).tvec ≠ 0 ∧ kget 0 (poll.core 0).mbox 3 = 0 ∧
    ¬ (poll.g 2).toNat % 2 ^ 32 ≤ (poll.clk - 0).toNat ∧ (late.g 2).toNat % 2 ^ 32 ≤ (late.clk - 0).toNat ∧
    poll.hart.aStall ≠ none ∧ (0xAB004430 : W32).toNat % 2 ^ 30 = (Instr.mbwait 0 1 2 3).bits := by
  decide +kernel

theorem witness_SpawnAndSignal :
    let s := owned (ready (tasked job (·.setG 1 self)))
    let bad := (owned (ready (tasked job (·.setG 1 self)))).wrN (poolKey 0 0) 1 1
    let sig : State := { (lab id).setCluster 0 { Cluster.reset with basin := [(0, some ticket)] } with dev := { Device.reset with signals := [(5, 62, some 0x10000, 0)] } }
    let lost : State := { lab id with dev := { Device.reset with signals := [(5, 62, some 0x10000, 0)] } }
    (s.g 1).toNat % 64 = 0 ∧ ((lab (·.setG 1 8)).g 1).toNat % 64 ≠ 0 ∧ s.hart.quiet = true ∧
    (match s.readA self 64 with
      | .ok bs u => lineWords bs == image && u.spawnStart == some 0 && u.checkImage u.part image == .ok { plainRegion with clusters := 16, chain := [(0x10000, 16, 64)] } && u.basinSlot u.part 0 == some (0, 0) && (u.cluster 0).hands == []
      | _ => false) = true ∧
    (match bad.readA self 64 with | .ok bs u => u.checkImage u.part (lineWords bs) == .refuse 3 | _ => false) = true ∧
    sig.dev.signals = [(5, 62, some 0x10000, 0)] ∧ sig.clus = [(0, { Cluster.reset with basin := [(0, some ticket)] })] ∧ imgTag ticket.image = 5 ∧ ticket.part = 62 ∧
    lost.dev.signals = [(5, 62, some 0x10000, 0)] ∧ lost.clus = [] ∧ s.hart.groupsBefore s.hart.fno = false ∧ (lab id).hart.region = none ∧ s.hart.region = some 0 := by
  decide +kernel

theorem witness_HandOn :
    let s := tasked job fun h => (h.setG 1 0x100000005).setG 2 self
    let out := tasked job fun h => (h.setG 1 0x100000005).setG 2 (self + 0x1000)
    let k := (lab id).setCluster 0 { Cluster.reset with basin := [(0, some { ticket with hand := some { gift with spunits := 0 } })] }
    let z : State := { (mapped (lab id)).setCluster 0 { Cluster.reset with basin := [(0, some { ticket with hand := some gift })] } with clk := 90000 }
    s.ctl = false ∧ (s.g 2).toNat % 4096 = 0 ∧ bitsN (s.g 1) 37 32 = 1 ∧ bitsN (s.g 1) 63 38 = 0 ∧ s.ownRange (s.g 2) 1 = true ∧ out.ownRange (out.g 2) 1 = false ∧
    s.hart.quiet = true ∧ (s.bindHand 5 (s.handRange 0 1)).isSome = true ∧
    ((s.setCluster 0 { Cluster.reset with basin := [(0, some { ticket with hand := some gift })] }).bindHand 5 (s.handRange 0 1)) = none ∧
    ((lab id).cluster 0).entry 0 = none ∧ (k.cluster 0).entry 0 = some { ticket with hand := some { gift with spunits := 0 } } ∧
    (z.cluster 0).entry 0 = some { ticket with hand := some gift } ∧ ticket.ctx = none ∧ gift.spilled = false ∧ 90000 ≤ (z.clk - gift.bound).toNat ∧ gift.tried = false ∧ gift.spunits = 2 ∧
    z.spillUsed 62 gift.spill = [] ∧ s.hart.groupsBefore s.hart.fno = false ∧ (s.cluster 0).basin = [] ∧ (s.cluster 0).hands = [] := by
  decide +kernel

theorem witness_TaskEnds :
    let s := tasked job id
    let d := tasked draft id
    let old := tasked job fun h => { h with seq := [entry 0] }
    let line := mapped (tasked draft fun h => { h with cbuf := [(0x20000 / 64, 1)] })
    (s.hart.task = some job ∧ s.ctl = false ∧ bitsN (s.csr .mstat) 17 16 = 0 ∧ s.hart.nacks = [] ∧ s.hart.older = false ∧ s.hart.sstFault 6 = false ∧ s.hart.sstFault 7 = false ∧
      (s.hart.stream 6).active = false ∧ (s.hart.stream 7).active = false ∧ s.unacked s.hid = false ∧ s.hart.sbuf = [] ∧ s.hart.walks = []) ∧
    s.hart.isBuffered = false ∧ d.hart.isBuffered = true ∧ old.hart.older = true ∧ firstRun (s.heldUnits s.hid) = [0] ∧
    (s.bindHand ((s.g 1).setWidth 32) (s.handRange 0 1)).isSome = true ∧ firstRun ((user id).heldUnits 0) = [] ∧
    (match line.plan line.hart.cbuf with | .ok l _ => l.map (·.2.1) == [.mem 0x20000] | _ => false) = true ∧
    (match (tasked draft fun h => { h with cbuf := [(0, 1)] }).plan [(0, 1)] with | .fail c _ => c == 6 | _ => false) = true ∧
    job.mere = none ∧ job.eff.quarantine = false ∧ s.hart.bWord? = none ∧ ({ s.hart with fr := some (0, 7) } : Hart).bWord? = some 7 := by
  decide +kernel

theorem witness_Dispatch :
    let s := (ready (tasked job id)).setCluster 0 { Cluster.reset with powered := true, basin := [(0, some ticket)] }
    ((lab id).cluster 0).powered = false ∧ (s.cluster 0).powered = true ∧ s.winner 0 = some (0, ticket) ∧
    ((List.range 8).map (8 * 0 + ·)).findSome? (fun c => (s.fits ticket c).map fun p => (c, p)) = some (0, 0, []) ∧ ticket.ctx = none ∧
    (s.constBank 62 0x20000).isSome = true ∧ ((lab id).constBank 62 0x20000) = none ∧ kwf none (s.cluster 0).basin = true ∧ (s.cluster 0).entry 0 = some ticket ∧
    ((lab fun h => { h with seq := [entry 0] }).laneReqs 0).length = 1 ∧ s.selectable 0 ticket = true ∧ ticket.ready = some 0 ∧ ((0 : W64) - 0).toNat < 2 ^ 63 := by
  decide +kernel

theorem witness_Dispatch_full :
    let busy := (ready (tasked job id)).setCluster 0 { Cluster.reset with powered := true, basin := [(0, some { ticket with eff := { plainRegion with prio := 200 } })] }
    let all : State := (List.range 32).foldl (fun s n => s.setHart n { s.getHart n with run := .running }) busy
    all.winner 0 = some (0, { ticket with eff := { plainRegion with prio := 200 } }) ∧ (∀ c, c < 8 → all.fits { ticket with eff := { plainRegion with prio := 200 } } c = none) ∧
    (all.fitsUnits { ticket with eff := { plainRegion with prio := 200 } } 0).isSome = true ∧ (all.getHart 0).task = some job ∧ (all.getHart 0).pre = none ∧
    (∀ j, j < 32 → j ≠ 0 → (all.getHart j).task = none) ∧ job.eff.prio + 8 ≤ 200 := by
  decide +kernel

theorem witness_Dispatch_saved :
    let e : Entry := { ticket with ctx := some 0 }
    let s := (ready (tasked job id)).setCluster 0 { Cluster.reset with powered := true, basin := [(0, some e)] }
    s.winner 0 = some (0, e) ∧ ((List.range 8).map (8 * 0 + ·)).findSome? (fun c => (s.fits e c).map fun p => (c, p)) = some (0, 0, []) := by
  decide +kernel

theorem witness_LooksAgain :
    let box := lab fun h => { h with wait := .timed 0, aStall := some .sync, fr := some (0xAB004430, 0) }
    let link := (lab fun h => { h with aStall := some .sync, fr := some (BitVec.ofNat 32 (Instr.lnkr 1 false).bits, 0) }).setCore 0 { Core.reset with east := [5] }
    let poll := lab fun h => { h.setG 1 (self + 8) with aStall := some .other, fr := some (0xA8004400, 0) }
    let send := lab fun h => { h with wait := .timed 0, aStall := some .other, fr := some (0xAA088003, 0) }
    (0xAB004430 : W32).toNat % 2 ^ 30 = (Instr.mbwait 0 1 2 3).bits ∧ (box.g 1).toNat % 2 ^ 16 = 0 ∧ box.hart.nacks = [] ∧
    (BitVec.ofNat 32 (Instr.lnkr 1 false).bits).toNat % 2 ^ 30 = (Instr.lnkr 1 false).bits ∧ (link.core 0).link false = [5] ∧ link.linkBusy 0 false = false ∧
    (∀ n, n < 4 → hartOf 0 n ≠ link.hid → (link.getHart (hartOf 0 n)).waiting 0x24 = none) ∧
    (0xA8004400 : W32).toNat % 2 ^ 30 = (Instr.waitge 1 2).bits ∧ poll.access poll.me (poll.g 1) 8 .read = .ok (.mem (poolKey 0 8)) 0 ∧ poll.hart.quiet = true ∧
    (0xAA088003 : W32).toNat % 2 ^ 30 = (Instr.xsend 1 2 3).bits ∧ send.hart.wait = .timed 0 ∧ 0 ≤ send.clk := by
  decide +kernel
/-- Hart 0 in machine mode, with its first gigabyte in the TLB of its core as the identity; partition 62 owns the third frame. -/
def cached (m : List Host.Cell) : State :=
  { (lab fun h => h.setG 1 0x20000).setCore 0 { Core.reset with tlb := [⟨62, 0, 2, 0x800000000000003F⟩] } with tags := [(2, 0x3E)], mem := m }

theorem cached_core (m : List Host.Cell) : (cached m).core 0 = { Core.reset with tlb := [⟨62, 0, 2, 0x800000000000003F⟩] } := rfl
theorem cached_part (m : List Host.Cell) : (cached m).part = 62 := by
  have h : (cached []).part = 62 := by decide +kernel
  exact h

theorem cached_access (m : List Host.Cell) (a : W64) (k : AccKind) (hk : k = .read ∨ k = .write) (h : a.toNat / 65536 = 2) :
    (cached m).access (cached m).me a 64 k = .ok (.mem a.toNat) 0x800000000000003F := by
  have h1 : a.getLsbD 63 = false := by
    rw [BitVec.getLsbD, Nat.testBit_eq_decide_div_mod_eq]
    have : a.toNat / 2 ^ 63 = 0 := by omega
    rw [this]; rfl
  have h2 : bitsN a 62 56 = 0 := by unfold bitsN; rw [Nat.shiftRight_eq_div_pow]; omega
  have h3 : a.toNat / 2 ^ 30 = 0 := by omega
  have h4 : (cached m).translate (cached m).me a k = .leaf 0x800000000000003F 2 0 := by
    have hp : (cached m).me.part = 62 := cached_part m
    have hid : (cached m).me.id = 0 := by
      have : (cached []).me.id = 0 := by decide +kernel
      exact this
    have e1 : ((cached m).core (coreOf (cached m).me.id)).tlb = [⟨62, 0, 2, 0x800000000000003F⟩] := by rw [hid]; rfl
    have e2 : isControl (cached m).me.id = false := by rw [hid]; rfl
    unfold State.translate State.cached State.cacheOf
    have e0 : (cached m).me.id ≠ fabricHart := by rw [hid]; decide
    simp only [h2, e0, e1, e2, if_false]
    have hh : TlbEnt.hits ⟨62, 0, 2, 0x800000000000003F⟩ (cached m).me.part a = true := by
      rw [hp]; simp only [TlbEnt.hits, pageLog, h3]; decide
    have hc : (cached m).leafCheck (cached m).me k 0x800000000000003F 2 0 a = .leaf 0x800000000000003F 2 0 := by
      have hm : (cached m).me.mode = 3 := by
        have : (cached []).me.mode = 3 := by decide +kernel
        exact this
      have ht : (cached m).owns (cached m).me.part (pteFrame 0x800000000000003F + a.toNat % 2 ^ pageLog 2) = true := by
        have h5 : a.toNat % 2 ^ 30 / 65536 = 2 := by omega
        have e' : pteFrame 0x800000000000003F = 0 := by decide
        rw [hp, e']
        show (!isDevMem (0 + a.toNat % 2 ^ 30) || (kget (0 : BitVec 6) [(2, 0x3E)] ((0 + a.toNat % 2 ^ 30) / 65536)).toNat == 62) = true
        rw [Nat.zero_add, h5]
        generalize isDevMem (a.toNat % 2 ^ 30) = z
        cases z <;> decide
      unfold State.leafCheck
      have e : pteFrame 9223372036854775871#64 = 0 := by decide
      have ht' : (cached m).owns (cached m).me.part (a.toNat % 2 ^ pageLog 2) = true := by
        have := ht; simpa [e] using this
      have hr : isRegSpace (pteFrame 9223372036854775871#64 + a.toNat % 2 ^ pageLog 2) = false := by
        have : a.toNat % 2 ^ pageLog 2 = a.toNat := by show a.toNat % 2 ^ 30 = _; omega
        rw [e, this]; simp [isRegSpace]; omega
      have hr' : isRegSpace (a.toNat % 2 ^ pageLog 2) = false := by simpa [e] using hr
      rcases hk with rfl | rfl <;> simp [hm, ht', hr', e, permits, pteKind, bitsN]
    have hh' : TlbEnt.hits ⟨62, 0, 2, 9223372036854775871#64⟩ (cached m).me.part a = true := hh
    have hc' : (cached m).leafCheck (cached m).me k 9223372036854775871#64 2 0 a = .leaf 9223372036854775871#64 2 0 := hc
    have hd : (accWrites k && !(9223372036854775871#64 : W64).getLsbD 5) = false := by rcases hk with rfl | rfl <;> decide
    simp [hh', hc', hd]
  unfold State.access State.resolve
  rw [h1]
  simp only [State.resolveVirt, h4]
  have e : pteFrame 9223372036854775871#64 = 0 := by decide
  have e3 : a.toNat % 2 ^ pageLog 2 = a.toNat := by show a.toNat % 2 ^ 30 = _; omega
  have e4 : pteKind 9223372036854775871#64 ≠ 3 := by decide
  have e5 : isRegSpace a.toNat = false := by simp [isRegSpace]; omega
  simp [e, e3, e4, e5]

theorem cached_wrBytes (m : List Host.Cell) (k : Nat) (bs : List Byte) : ∃ n, (cached m).wrBytes k bs = cached n := by
  induction bs generalizing m k with
  | nil => exact ⟨m, rfl⟩
  | cons b bs ih => exact ih (kset memDefault m k b) (k + 1)

theorem cached_count (m : List Host.Cell) (k n : Nat) : (cached m).count k n = cached m := by
  have h : ((cached m).regs.any fun p => p.2.getLsbD 63) = false := rfl
  unfold State.count; rw [h]; simp only [Bool.not_false, Bool.or_true, if_true]

theorem cached_niSample (m : List Host.Cell) (a : W64) : (cached m).niSample a = cached m := by
  have h : ((cached m).regs.any fun p => p.2.getLsbD 63) = false := rfl
  unfold State.niSample State.sampled; rw [h]; simp only [Bool.not_false, if_true, ite_self]

theorem cached_needsWalk (m : List Host.Cell) (a : W64) (k : AccKind) (h : a.toNat / 65536 = 2) : (cached m).needsWalk a k 0x800000000000003F = false := by
  have hp : (cached m).part = 62 := cached_part m
  have h3 : a.toNat / 2 ^ 30 = 0 := by omega
  have e1 : ((cached m).core (coreOf (cached m).hid)).tlb = [⟨62, 0, 2, 0x800000000000003F⟩] := by
    have : coreOf (cached m).hid = 0 := by show coreOf 0 = 0; decide
    rw [this]; rfl
  have hh : TlbEnt.hits ⟨62, 0, 2, 0x800000000000003F⟩ (cached m).part a = true := by
    rw [hp]; simp only [TlbEnt.hits, pageLog, h3]; decide
  have hs : (pteKind 0x800000000000003F == 3 || ((0x800000000000003F : W64).getLsbD 4 && (!accWrites k || (0x800000000000003F : W64).getLsbD 5))) = true := by
    cases accWrites k <;> decide
  unfold State.needsWalk
  simp only [e1, List.any_cons, List.any_nil, hh, hs, Bool.or_true, Bool.true_or, Bool.and_self, Bool.not_true, Bool.and_false]
theorem cached_noteWalk (m : List Host.Cell) (fno : Nat) (a : W64) (k : AccKind) (h : a.toNat / 65536 = 2) :
    (cached m).noteWalk fno a k 0x800000000000003F = cached m := by
  unfold State.noteWalk
  simp only [cached_needsWalk m a k h, Bool.not_false, Bool.true_or, if_true]

theorem cached_storeLines (m : List Host.Cell) (bs : List Byte) (l : List W64) (h : ∀ a ∈ l, a.toNat / 65536 = 2) :
    ∃ n, (cached m).storeLines bs l = .ok [] (cached n) := by
  induction l generalizing m bs with
  | nil => exact ⟨m, rfl⟩
  | cons a l ih =>
    have ha := h a (by simp)
    unfold State.storeLines
    rw [cached_access m a .write (Or.inr rfl) ha]
    have hb : (cached m).hart.isBuffered = false := rfl
    have hw : (cached m).walkNow a .write 0x800000000000003F = cached m := by unfold State.walkNow; rw [cached_needsWalk m a .write ha]; rfl
    simp only [hb, hw, Bool.false_and, Bool.not_true, Bool.false_eq_true, if_false]
    obtain ⟨n, hn⟩ := cached_wrBytes m a.toNat (bs.take 64)
    have : (cached m).performStore ⟨.mem a.toNat, a, bs.take 64, (cached m).hart.fno, false, false, false, false⟩ = cached n := by
      have hu : (if a.getLsbD 63 then cached m else (cached m).unhold (cached m).part a (cached m).protCount) = cached m := by split <;> rfl
      unfold State.performStore
      simp only [Bool.false_eq_true, if_false, hu]
      show (((cached m).count a.toNat (bs.take 64).length).writeEcc a.toNat (bs.take 64)) = _
      rw [cached_count]
      unfold State.writeEcc
      have : (cached m).badIn a.toNat (bs.take 64).length = false := rfl
      rw [this]; exact hn
    rw [this]
    exact ih n (bs.drop 64) fun x hx => h x (by simp [hx])

theorem cached_loadLines (m : List Host.Cell) (l : List W64) (h : ∀ a ∈ l, a.toNat / 65536 = 2) :
    (cached m).loadLines l = .ok (l.flatMap fun a => (cached m).rdBytes a.toNat 64) (cached m) := by
  induction l with
  | nil => rfl
  | cons a l ih =>
    have ha := h a (by simp)
    unfold State.loadLines State.readA
    rw [cached_access m a .read (Or.inl rfl) ha]
    have e2 : (cached m).badIn a.toNat 64 = false := rfl
    have e3 (bs) : (cached m).hart.seen (cached m).hart.fno (.mem a.toNat) a bs = bs := by
      have hb : (cached m).hart.isBuffered = false := rfl
      have hs : (cached m).hart.sbuf = [] := rfl
      simp [Hart.seen, hb, hs]
    simp only [e2, e3, cached_count, cached_niSample, cached_noteWalk m _ a .read ha, Bool.false_eq_true, if_false]
    rw [ih fun x hx => h x (by simp [hx])]
    rfl

/-- A context image at 0x20000 whose header is that of a parked hart (R344). -/
def saved : List Host.Cell := [(0x20007, 1), (0x20031, 0xB0)]

theorem lines_unit2 (n : Nat) (hn : n ≤ 0x10000) : ∀ a ∈ rangeLines 0x20000 n, a.toNat / 65536 = 2 := by
  intro a ha
  simp only [rangeLines, List.mem_map, List.mem_range] at ha
  obtain ⟨i, hi, rfl⟩ := ha
  have : i < 1024 := by omega
  rw [BitVec.toNat_add]
  simp [w64]
  omega
theorem padTo_length (n : Nat) (l : List Byte) : (padTo n l).length = n := by
  simp [padTo]; omega
theorem wordBytes_length (l : List W64) : (wordBytes l).length = 8 * l.length := by
  induction l with
  | nil => rfl
  | cons x l ih => simp only [wordBytes, List.flatMap_cons, List.length_append, leBytes_length, List.length_cons] at ih ⊢; omega
theorem ctxBody_length (s : State) (id : Nat) (units : List Nat) : (s.ctxBody id units).length = 44992 := by
  simp only [State.ctxBody, List.length_append, padTo_length]
theorem ctxHeader_length (s : State) (id kind : Nat) (pc npc : W64) (trb : Bool) (rep len : Nat) : (s.ctxHeader id kind pc trb npc rep len).length = 8 := rfl
theorem image_length : ((cached []).ctxImage (cached []).hid 0 ((cached []).hart.pc + 8) false ((cached []).hart.pc + 16) 1).length = 0xB000 := by
  have e : (cached []).ctxHeld (cached []).hid = [] := by decide +kernel
  unfold State.ctxImage
  simp only [e]
  simp only [List.length_append, wordBytes_length, ctxBody_length, ctxHeader_length, List.zipIdx_nil, List.flatMap_nil, List.length_nil]
theorem witness_Contexts_settled (m : List Host.Cell) : (cached m).hart.priv ≠ 0 ∧ (cached m).g 1 = 0x20000 ∧ (cached m).hart.quiet = true ∧
    (cached m).hart.streamsDone = true ∧ (cached m).enginesDone (cached m).hid = true := by
  have h : (cached []).hart.priv ≠ 0 ∧ (cached []).g 1 = 0x20000 ∧ (cached []).hart.quiet = true ∧
    (cached []).hart.streamsDone = true ∧ (cached []).enginesDone (cached []).hid = true := by decide +kernel
  exact h
theorem witness_Contexts_save : ∃ u, let s := cached []
    let bs := s.ctxImage s.hid 0 (s.hart.pc + 8) false (s.hart.pc + 16) 1
    s.hart.overflows (rangeLines 0x20000 bs.length) = false ∧ s.storeLines bs (rangeLines 0x20000 bs.length) = .ok [] u := by
  simp only [image_length]
  obtain ⟨n, h⟩ := cached_storeLines [] ((cached []).ctxImage (cached []).hid 0 ((cached []).hart.pc + 8) false ((cached []).hart.pc + 16) 1) _ (lines_unit2 0xB000 (by decide))
  exact ⟨cached n, rfl, h⟩
/-- The header read from `cached m`. -/
def headOf (m : List Host.Cell) : List Byte := (rangeLines 0x20000 0x400).flatMap fun a => (cached m).rdBytes a.toNat 64
theorem witness_Contexts_bad : (cached []).loadLines (rangeLines 0x20000 0x400) = .ok (headOf []) (cached []) ∧ (cached []).ctxBad (headOf []) = some 1 := by
  refine ⟨cached_loadLines [] _ (lines_unit2 0x400 (by decide)), ?_⟩
  unfold State.ctxBad
  exact if_pos (Or.inl (by decide +kernel))
theorem saved_good : (cached saved).ctxBad (headOf saved) = none := by
  have e1 : ctxReg (headOf saved) .handlen = 0 := by decide +kernel
  have e2 : ctxReg (headOf saved) .splen = 0 := by decide +kernel
  have e3 : ctxReg (headOf saved) .spbase = 0 := by decide +kernel
  have e4 : ctxReg (headOf saved) .status = 0 := by decide +kernel
  have e5 : (cached saved).heldUnits (cached saved).hid = [] := by decide +kernel
  have e6 : (cached saved).hart.partw % 64 = 0 := by decide +kernel
  have w0 : ctxWord (headOf saved) (8 * 0) = 0x0100000000000000 := by decide +kernel
  have w1 : ctxWord (headOf saved) (8 * 1) = 0 := by decide +kernel
  have w2 : ctxWord (headOf saved) (8 * 2) = 0 := by decide +kernel
  have w3 : ctxWord (headOf saved) (8 * 3) = 0 := by decide +kernel
  have w4 : ctxWord (headOf saved) (8 * 4) = 0 := by decide +kernel
  have w5 : ctxWord (headOf saved) (8 * 5) = 0 := by decide +kernel
  have w6 : ctxWord (headOf saved) (8 * 6) = 0xB000 := by decide +kernel
  have w7 : ctxWord (headOf saved) (8 * 7) = 0 := by decide +kernel
  unfold State.ctxBad
  simp only [e1, e2, e3, e4, e5, e6, w0, w1, w2, w3, w4, w5, w6, w7]
  decide +kernel
theorem witness_Contexts_rest : ∃ bs, (cached saved).loadLines (rangeLines 0x20000 0x400) = .ok (headOf saved) (cached saved) ∧ (cached saved).ctxBad (headOf saved) = none ∧
    (cached saved).heldUnits (cached saved).hid ++ (cached saved).hart.handUnits = [] ∧ (cached saved).loadLines (rangeLines 0x20000 0xB000) = .ok bs (cached saved) :=
  ⟨_, cached_loadLines saved _ (lines_unit2 0x400 (by decide)), saved_good, by decide +kernel, cached_loadLines saved _ (lines_unit2 0xB000 (by decide))⟩
theorem witness_Contexts_waits : (user id).hart.priv = 0 ∧ (lab fun h => h.setG 1 self).hart.priv ≠ 0 ∧ ((lab fun h => h.setG 1 self).g 1).getLsbD 63 = true ∧
    (1 : Nat) % 4096 ≠ 0 ∧ (lab fun h => { h with seq := [entry 0] }).hart.quiet = false ∧ (lab fun h => h.setStream 0 { Stream.idle with active := true }).hart.streamsDone = false ∧
    (boss id).hart.older = false ∧ (boss id).ctl = true ∧ (boss id).enginesDone (boss id).hid = true ∧ (lab id).ctl = false := by decide +kernel

theorem witness_TranslationInvalidate : (user id).hart.priv = 0 ∧ (lab fun h => h.setG 1 4).hart.priv ≠ 0 ∧ 4 ≤ bitsN ((lab fun h => h.setG 1 4).g 1) 2 0 ∧
    bitsN ((lab fun h => h.setG 1 3).g 1) 2 0 < 4 ∧ (lab fun h => { h with seq := [entry 0] }).hart.quiet = false ∧ (lab id).hart.quiet = true ∧
    ((lab id).cores.map Prod.fst).Nodup ∧ bitsN ((lab fun h => h.setG 1 3).g 1) 2 0 = 3 ∧ (lab id).gpart (0 / 8) = (lab id).part := by decide +kernel
theorem witness_ContextRoundTrip : (lab fun h => { h with bq := List.replicate 16 true, loops := List.replicate 4 ⟨0, 0, 1⟩ }).hart.bq.length ≤ 16 ∧
    (lab fun h => { h with bq := List.replicate 16 true, loops := List.replicate 4 ⟨0, 0, 1⟩ }).hart.loops.length ≤ 4 := by decide +kernel
theorem witness_Capture : ((lab fun h => h.setG 1 63).g 1).toNat % 64 ≠ 0 ∧ ((lab fun h => h.setG 1 64).g 1).toNat % 64 = 0 ∧ ((lab id).csr .capstat).getLsbD 63 = false ∧
    64 ≤ (lab fun h => { (h.setReg .capstat (0x8000000000000000)) with sbuf := List.replicate 64 ⟨.mem 0, 0, [], 0, false, false, false, false⟩ }).hart.sbuf.length ∧
    let s := lab fun h => (h.setReg .capstat 0x8000000000000000).setReg .capptr self
    (s.csr .capstat).getLsbD 63 = true ∧ s.hart.sbuf.length < 64 ∧ (!(s.csr .capptr).getLsbD 63 && s.hart.isBuffered) = false ∧
      s.access s.me (s.csr .capptr) 64 .write = .ok (.mem (poolKey 0 0)) 0 := by decide +kernel
theorem witness_PreemptAndSoftint : dieOf (bitsN (0x8000 : W64) 15 0) ≠ (0 : BitVec 2).toNat ∧ dieOf (bitsN (1 : W64) 15 0) = (0 : BitVec 2).toNat ∧
    ((lab id).getHart 1).run ≠ .running ∧ ((tasked job id).getHart 0).run = .running ∧ ((tasked job id).getHart 0).task ≠ none := by decide +kernel
theorem witness_Preemption :
    let p : PreReq := { st := .requested, kind := 1, pc := 0, trb := false, npc := 0, rep := 1, byReg := true }
    let s := tasked job fun h => { h with pre := some p }
    let t := tasked job fun h => { h with pre := some { p with st := .cut } }
    let h := s.getHart 0
    (lab id).hart.pre = none ∧ (h.pre = some p ∧ p.st = .requested ∧ (s.focus 0).cuttable = true ∧ h.goesOn = false ∧ h.isBuffered = false) ∧
    (((tasked draft fun h => { h with pre := some p }).getHart 0).isBuffered = true ∧ ((tasked draft fun h => { h with pre := some p }).focus 0).cuttable = true ∧
      ((tasked draft fun h => { h with pre := some p }).getHart 0).goesOn = false) ∧
    ((t.getHart 0).pre = some { p with st := .cut } ∧ (t.getHart 0).task = some job ∧ (t.getHart 0).sbuf = [] ∧ (t.getHart 0).walks = [] ∧ t.enginesDone 0 = true ∧
      t.ctxFree (dieOf 0) = none ∧ (t.setReg (regBase 0 + 0x3000010) 1).ctxFree (dieOf 0) = some 0) := by decide +kernel

theorem witness_HostMemory : let s := lab id
    let r : State := { lab id with tags := [(0, 0x3F)] }
    (0 + 8 ≤ 0xC000000000 ∧ (∀ j, j < 8 → s.isRetired (0 + j) = false) ∧ 0 % 8 = 0) ∧ (0xC000000000 - 8 + 8 ≤ 0xC000000000 ∧ ∀ j, j < 8 → s.isRetired (0xC000000000 - 8 + j) = false) ∧
      r.isRetired 0 = true ∧ r.isRetired 65535 = true ∧ s.isRetired 65536 = false := by decide +kernel
theorem witness_HostMemory_good (k : Nat) : kget false (lab id).bad k = false := rfl
/-- A launch record in slot 0 of die 0, which rings it, for one task of partition 5 with its control block at 0x10000 and its image at 0x20000. -/
def rung : State :=
  let s := (((mapped (lab id)).wrN 0x10008 8 0xFFFFFFFFFFFFFFC0 |>.wrN 0x10010 8 0xFFFFC00000000000).wrBytes 0x20000 (image.toList.flatMap fun w => leBytes 8 w.toNat)).setPrt 5 ⟨0x1000, 0⟩
  { (((s.setReg (hostPage 0 + 0x1008) 1).setReg (hostPage 0) 0x10000).setReg (hostPage 0 + 8) 0x20000).setReg (hostPage 0 + 16) (5 * 1024 + 1) |>.setReg (regBase 0 + 0x6000000) 5 with
    tags := [(0, 5), (1, 5), (2, 5), (3, 5)] }
theorem witness_HostCommands : let s := rung
    let page := hostPage 0
    let w : Vector W64 4 := ⟨#[s.getReg page, s.getReg (page + 8), s.getReg (page + 16), s.getReg (page + 24)], rfl⟩
    (s.getReg (page + 0x1008)).getLsbD 0 = true ∧ ((lab id).getReg (page + 0x1008)).getLsbD 0 = false ∧ w = #v[0x10000, 0x20000, 0x1401, 0] ∧
      s.clustersOf 5 [0] = 0 :: (List.range 15).map (· + 1) ∧ (match s.superLine 5 0x20000 with | .ok l => l == image | _ => false) = true ∧ (s.cluster 0).basin.length < 512 ∧ (s.cluster 0).freeIdx = some 0 := by decide +kernel
theorem witness_HostCommands_launch : (match rung.region 5 0x10000 with | .ok (some root) => root.clusters == 16 | _ => false) = true ∧
    (match rung.checkImage 5 image with | .ok eff => eff.clusters == 16 | _ => false) = true := by
  decide +kernel
theorem witness_HostCommands_dump : ∀ a, (lab id).dumpHolds 5 a = none := fun _ => rfl
theorem witness_HostCommands_own : (lab id).clustersOf 5 [0] = [] := by decide +kernel
theorem witness_Registers : let s := lab id
    let r := regBase 0 + 0x6000000
    (r % 8 + 8 ≤ 8 ∧ 0x4000000000000 ≤ r ∧ r < 0x4000100000000) ∧ (keepOld r (s.getReg r) 5 ≠ s.getReg r ∧ (s.setCluster 0 { Cluster.reset with basin := [(0, ticket)] }).groupIdle 0 0 = false) ∧
      (regBase 1 + 0x6000000) % 8 = 0 ∧ s.groupIdle 0 0 = true ∧ bitsN (5 : W64) 5 0 ≠ bitsN (s.getReg r) 5 0 ∧ 12 ≤ (12 : BitVec 4).toNat ∧ (11 : BitVec 4).toNat < 12 ∧
      (0xC00000 * 65536 : Nat) = 0xC000000000 ∧ 0xBFFFFF * 65536 < 0xC000000000 ∧
      bitsN (s.getReg (regBase (homeDie 0) + 0x6000100 + 8 * s.homeCtl 0)) 6 0 = 64 := by decide +kernel
theorem witness_HostCommands_words : let s := lab id
    let two := s.setReg (hostPage 0 + 0x2000) (2 ^ 61)
    bitsN (s.getReg (hostPage 0 + 0x2000)) 63 60 ≠ 2 ∧ bitsN (two.getReg (hostPage 0 + 0x2000)) 63 60 = 2 ∧ 0x2018 % 8 = 0 ∧ 0xFFF8 % 8 = 0 ∧
    populated 0 = true ∧ isRegSpace 0 = false ∧ bitsN (s.getReg (hostPage 0 + 16)) 9 0 = 0 ∧ bitsN ((rung).getReg (hostPage 0 + 16)) 9 0 = 1 := by decide +kernel
theorem witness_RegisterTables : (regSpec (regBase 3 + 0x60000F8)).rw.getLsbD 5 = true ∧ rowBit (dieRows 3) (·.rw) 0x60000F8 5 = true ∧ (0x60000F8 : Nat) % 8 = 0 ∧
    (regSpec (hostPage 0 + 0x2018)).rw.getLsbD 0 = true ∧ rowBit (hostRows 0) (·.rw) 0x2018 0 = true ∧ rowBit (hostRows 0) (·.rw) 0x2018 63 = false ∧
    ((lab id).regValue (dbgBase 0)).getLsbD 62 = false ∧ (((lab fun h => { h with run := .parked }).setReg (dbgBase 0) (2 ^ 63)).regValue (dbgBase 0)).getLsbD 62 = true := by decide +kernel

theorem witness_Observability :
    let h := dial [(hotReg 0 11, 0x8000000000000010)]
    let g := dial [(obsBase 0, 0x8000000000000010)]
    let m := dial [(monBase 0 15, 0x8000000000000000)]
    let c := obsBase 0 + 0x2000
    let t := dial [(c, 1)]
    let v := dial [(c, 0x8000000000000001)]
    let p := (lab id).setDie 0 { Die.reset with snapAt := [0] }
    (12 ≤ (12 : BitVec 4).toNat ∧ (11 : BitVec 4).toNat < 12 ∧ (h.getReg (hotReg 0 11)).getLsbD 63 = true ∧ bitsN (h.getReg (hotReg 0 11 + 8)) 51 9 * 512 < 0xC000000000 ∧
      (hotRecord (kget ⟨[], [], 0⟩ (h.die 0).hot 11).list).length = 512) ∧
    (((lab id).getReg (obsBase 0)).getLsbD 63 = false ∧ (g.getReg (obsBase 0)).getLsbD 63 = true ∧ bitsN (g.getReg (obsBase 0 + 8)) 51 16 * 65536 < 0xC000000000 ∧ (portLeads 0 0 0 = false ∨ portLeads 0 0 3 = false) ∧
      g.getReg (obsBase 0 + 16) = 0) ∧
    (((lab id).getReg (monBase 0 15)).getLsbD 63 = false ∧ (m.getReg (monBase 0 15)).getLsbD 63 = true) ∧
    (((lab id).getReg c).getLsbD 0 = false ∧ (t.getReg c).getLsbD 0 = true ∧ (t.getReg c).getLsbD 63 = false ∧ (v.getReg c).getLsbD 0 = true ∧ (v.getReg c).getLsbD 63 = true) ∧
    ((p.die 0).snapAt = [0] ∧ (0 : W64) ≤ p.clk ∧ ({ (lab id) with clk := 39 } : State).clk < 40 ∧ ((lab id).die 0).snapAt = []) := by decide +kernel

theorem witness_DebugHalt :
    let s := lab fun h => { h with pc := 0x10000 }
    let b := lab fun h => { h with wait := .bar (some 0) }
    let h := dial [(dbgBase 0, 0x8000000000000000)]
    let step := h.setCore 0 { Core.reset with steps := [(0, 0)] }
    (16383 : Nat) < 16384 ∧ 0 / 4 = 0 ∧ (s.getHart 0).run = .running ∧ (s.getHart 0).wait = .none ∧ (s.getHart 0).seq = [] ∧ (s.getHart 0).enter = [] ∧ (s.getHart 0).flight = [] ∧
    (b.getHart 0).wait = .bar (some 0) ∧ (s.regValue (dbgBase 0)).getLsbD 62 = false ∧ (h.regValue (dbgBase 0)).getLsbD 62 = true ∧
    (isControl 0 = false ∧ h.coreHalted (coreOf 0) = true ∧ h.mayIssue 0 = false ∧ step.mayIssue 0 = true ∧ (0 % 4, 0) ∈ (step.core (coreOf 0)).steps ∧ (step.getHart 0).fno ≤ 0) := by decide +kernel

theorem witness_Dumps :
    let s := (mapped (lab id)).setReg (obsBase 0 + 0x3010) 0x10000
    let p : Dump := { part := 62, va := 0, units := 1, dst := 0x1000000, ctr := 0x20000, next := 0, err := false, prot := [], done := [], want := [] }
    let t := s.setDie 0 { Die.reset with dump := some p }
    let u := s.setDie 0 { Die.reset with dump := some { p with next := 1, done := [0] } }
    bitsN ((lab id).getReg (obsBase 0 + 0x3010)) 39 16 = 0 ∧ (s.die 0).dump = none ∧ bitsN (s.getReg (obsBase 0 + 0x3000 + 16)) 39 16 = 1 ∧
    (t.die 0).dump = some p ∧ t.dumpNext p = some 0 ∧ 0 ∉ p.prot ∧ p.dst + 65536 * (0 - p.va) + 65536 ≤ 0xC000000000 ∧ t.badIn p.dst 65536 = false ∧
    u.dumpNext { p with next := 1, done := [0] } = none ∧ p.ctr + 8 ≤ 0xC000000000 ∧ u.badIn p.ctr 8 = false := by decide +kernel

/-- The clause of an accepted image rests on `Config.ecdsaVerify` and `Config.sha256`, of which nothing is known (log entry 9). -/
theorem witness_PowerAndBoot :
    let s := dial [(hostPage 0 + 0x2000, 0x2000000000000000), (hostPage 0 + 0x2010, 4)]
    let m := dial [(hostPage 0 + 0x2000, 0x2000000000000000), (hostPage 0 + 0x2008, 0x7FFFFFFFFFFFC), (hostPage 0 + 0x2010, 5)]
    let b := dial [(hostPage 0 + 0x2000, 0x1000000000000000)]
    let v : State := { dial [(hostPage 0 + 0x2000, 0x3000000000000000)] with dev := { Device.reset with staged := 4 } }
    let hot := (dial [(obsBase 0 + 0x4000, 100)]).setCluster 0 { Cluster.reset with powered := true, mhz := 1800 }
    (64 ≤ ({ (lab id) with dev := { Device.reset with waves := 64 } } : State).dev.waves ∧ (lab id).dev.waves < 64) ∧ bitsN (s.getReg (hostPage 0 + 0x2000)) 63 60 = 2 ∧ bitsN ((lab id).getReg (hostPage 0 + 0x2000)) 63 60 ≠ 2 ∧
    bitsN (s.getReg (hostPage 0 + 0x2008)) 50 0 + bitsN (s.getReg (hostPage 0 + 0x2010)) 31 0 ≤ 2 ^ 51 ∧ s.badIn 0x8000000000000 4 = false ∧
    2 ^ 51 < bitsN (m.getReg (hostPage 0 + 0x2008)) 50 0 + bitsN (m.getReg (hostPage 0 + 0x2010)) 31 0 ∧
    bitsN (v.getReg (hostPage 0 + 0x2000)) 63 60 = 3 ∧ (romRejects (v.rdBytes (stageKey v.dev.staged) v.dev.staged) v.dev.fuse 1).isSome = true ∧ bitsN (b.getReg (hostPage 0 + 0x2000)) 63 60 = 1 ∧
    (bitsN (hot.getReg (obsBase 0 + 0x4000)) 15 0 ≤ (100 : BitVec 16).toNat ∧ (99 : BitVec 16).toNat < bitsN (hot.getReg (obsBase 0 + 0x4000)) 15 0 ∧
      0 / 512 = 0 ∧ (hot.cluster 0).powered = true ∧ hot.inPhase 0 = false ∧ 1600 < (hot.cluster 0).clock ∧ (hot.energyOf 0).isSome = false) := by decide +kernel

/-- Is a walk a leaf, or a fault? -/
def leafy : Walk → Bool | .leaf _ _ _ => true | _ => false
theorem witness_PageWalk : let s := mapped (lab id)
    let n : WalkReq := ⟨0x20000, .write, 0, none⟩
    let b : WalkReq := ⟨0x20000, .write, 0, some (0x10000, (entry 0).snap)⟩
    let rq (s : State) : Req := { s.me with mode := 3 }
    leafy (s.walk (rq s) 0x20000 .write) = true ∧ leafy ((lab id).walk (rq (lab id)) 0x20000 .read) = false ∧ s.ctl = false ∧ (mapped (boss id)).ctl = true ∧
      [n].find? (fun x => x.va == 0x20000 && x.kind == .write) = some n ∧ [b].find? (fun x => x.va == 0x20000 && x.kind == .write) = some b ∧ n.back = none ∧
      (match (lab id).walk (lab id).me 0x20000 .write with | .fault _ _ => true | _ => false) = true := by decide +kernel

/-- The places that the clauses of `AccessChecks` tell apart. -/
theorem witness_AccessChecks :
    let s := lab id
    let t := tasked job id
    let opened := s.setCore 1 { Core.reset with win := Vector.replicate 8 0x8400000000000100 }
    let at1 : W64 := 0x8000000000040000
    s.access s.me (2 ^ 63 + 2 ^ 40) 8 .read = .trap ⟨5, 0, 2 ^ 63 + 2 ^ 40⟩ ∧ s.access s.me (self + 262143) 2 .read = .trap ⟨5, 0, self + 262143⟩ ∧
    t.access t.me (self + 4088) 8 .write = .ok (.mem (poolKey 0 4088)) 0 ∧ t.access t.me (self + 4089) 8 .write = .trap ⟨5, 0, self + 4089⟩ ∧
    s.access s.me at1 8 .write = .trap ⟨7, 0, at1⟩ ∧ opened.access opened.me at1 8 .write = .ok (.mem (poolKey 1 0)) 0 ∧
    (s.setReg (dbgBase 1) (2 ^ 63)).access s.me at1 8 .write = .wait ∧ (s.setReg (regBase 0 + 0x6000008) 5).access s.me 0x8000000002000000 8 .read = .trap ⟨5, 0, 0x8000000002000000⟩ ∧
    s.access s.me (2 ^ 56) 8 .write = .trap ⟨6, 0x104, 2 ^ 56⟩ ∧ s.access s.me 0x20000 8 .read = .trap ⟨6, BitVec.ofNat 64 (faultVal false .read 0 5).toNat, 0x20000⟩ := by decide +kernel

theorem witness_Migration : let b := migSlot 0x20000
    let idle := dial [(b, 0x1000000000000000)]
    let out := dial [(b, 0xD000000000000000)]
    let back := dial [(b, 0xA000000000000000)]
    let w := lab fun h => h.setReg .migreq 0x4000000000000000
    Says.migAnswer (lab id) 2 0 = 3 ∧ Says.migAnswer idle 2 0 = 0 ∧ Says.migAnswer out 2 0 = 1 ∧ Says.migAnswer (dial [(b, 0x3000000000000000), (b + 8, 100)]) 2 0 = 2 ∧
      csrAccess (boss id).ctl (boss id).hart.priv 0x143 ≠ none ∧ (w.csr .migreq).getLsbD 62 = true ∧ ((lab id).csr .migreq).getLsbD 62 = false ∧
      (0xC000000000 ≤ 0xC00000 * 65536) ∧ (2 * 65536 < 0xC000000000) ∧ (out.getReg b).getLsbD 63 = true ∧ (out.getReg b).getLsbD 62 = true ∧ (out.getReg b).getLsbD 61 = false ∧
      (back.getReg b).getLsbD 63 = true ∧ (back.getReg b).getLsbD 62 = false ∧ (back.getReg b).getLsbD 61 = true ∧
      (let tie : State := { back with dev := { Device.reset with migs := [(2, 0, 5)] } }; (2, tie.clk, 5) ∈ tie.dev.migs ∧ (tie.getReg b).getLsbD 62 = false ∧ (tie.getReg b).getLsbD 63 = true ∧ ¬ (tie.clk < tie.getReg (b + 8))) := by decide +kernel

theorem witness_BarrierTable : let s := lab fun h => h.setReg .bdsel 0x8F
    s.bdPending = false ∧ s.hart.bdKey = 143 ∧ ((lab id).setDie 0 { Die.reset with doms := [⟨0, 1, [0], none⟩] }).bdPending = true := by decide +kernel

/-- A write of two bytes to the pool of core 1. -/
def parcel : RemoteReq := { core := 1, cls := 0, kind := .write, off := 0, len := 2, data := [1, 2], setFull := false, hart := none, addr := 0x8000000180000000, pkt := none, by_ := .none }
theorem witness_RemoteRequests :
    let halted := dial [(dbgBase 1, 0x8000000000000000)]
    let opened := (lab id).setCore 1 { Core.reset with win := Vector.replicate 8 0x8400000000000100 }
    let of (h : Option Nat) (b : ReqBy) (p : Option (Nat × Nat × Nat)) : RemoteReq := { parcel with hart := h, by_ := b, pkt := p }
    halted.coreHalted 1 = true ∧ (halted.core 1).inbox.length < 64 ∧ opened.coreHalted 1 = false ∧ opened.admits 1 .write 0 4094 2 = true ∧ opened.admits 1 .write 0 4095 2 = false ∧
      (lab id).admits 1 .write 0 0 2 = false ∧ opened.badIn (poolKey 1 4094) 2 = false ∧ (of (some 0) .access none).by_ = .access ∧ (of (some 0) (.stream 6) none).hart = some 0 ∧
      (of (some 0) .none (some (3, 4, 0))).pkt = some (3, 4, 0) ∧ (of (some 0) (.copy 0 0) none).by_ = .copy 0 0 ∧ (opened.getHart 0).ident = 0 := by decide +kernel

/-- A request of partition 0 of device 0 that admission entry 0 admits to partition 5. -/
def foreign (k : FabKind) (d : List Byte) : FabricReq := { dev := 0, part := 0, kind := k, va := 0x20000, mode := 1, data := d, len := 8, ref := 0 }
/-- Admission entry 0 admits every kind of request. -/
def admitted : State := rung.setReg (regBase 0 + 0x5001000) 0xF000014000000000
theorem witness_Fabric :
    let rq : Req := ⟨fabricHart, 1, 5, true⟩
    (lab id).admission 0 0 = none ∧ admitted.admission 0 0 = some 0xF000014000000000 ∧
      ([AccKind.read, .write, .atomic].all fun k => match admitted.resolveVirt rq 0x20000 k with | .ok (.mem 0x20000) _ => true | _ => false) = true ∧
      (match ({ admitted with tags := [] } : State).resolveVirt rq 0x20000 .read with | .trap _ => true | _ => false) = true ∧
      ({ admitted with tags := [] } : State).dumpHolds rq.part 0x20000 = none ∧
      (admitted.fabWalk rq 0x20000 .write).badIn 0x20000 8 = false ∧ (0x20000 : W64).toNat % 8 = 0 ∧ (0x20004 : W64).toNat % 8 ≠ 0 ∧
      (match (admitted.fabWalk rq 0x20000 .write).engWrite rq 0x20000 [1, 2] with | .ok [] _ => true | _ => false) = true ∧
      (foreign (.query none) []).va.getLsbD 63 = false ∧
      (18 ≤ (18 : BitVec 5).toNat ∧ (17 : BitVec 5).toNat < 18) ∧
      (let s : State := { lab id with clk := 1800000, dev := { Device.reset with stuck := [⟨0, 0, 0, .read⟩] } };
        s.dev.stuck.find? (fun x => decide (1800000 ≤ (s.clk - x.start).toNat)) = some ⟨0, 0, 0, .read⟩) ∧
      (let s : State := { lab id with clk := 1799999, dev := { Device.reset with stuck := [⟨0, 0, 0, .read⟩] } };
        ∀ x ∈ s.dev.stuck, (s.clk - x.start).toNat < 1800000) := by decide +kernel

theorem witness_TarnInstrs :
    let sel : W64 := 0x4000000000000000
    let ok (f : Hart → Hart) : State := lab fun h => f ((h.setG 4 0x3000000000000000).setG 8 sel)
    let s := ok id
    (bitsN sel 63 62 = 1 ∧ bitsN sel 61 16 = 0 ∧ bitsN sel 13 12 = 0 ∧ bitsN sel 7 0 = 0 ∧ bitsN (sel + 11 * 256) 11 8 ≤ 11 ∧ bitsN (sel + 12 * 256) 11 8 > 11) ∧
    tarnBad (s.group 4) (s.ctl && s.hart.priv == 3) (s.hart.priv == 0) = none ∧ tarnBad ((lab id).group 4) false false = some 0 ∧ s.hart.quiet = true ∧
    s.hart.groupsBefore s.hart.fno = false ∧ s.hart.tarnOut + s.hart.tarnRes.length < 8 ∧ 8 ≤ (ok fun h => { h with tarnOut := 8 }).hart.tarnOut ∧ (ok fun h => { h with seq := [entry 0] }).hart.older = true ∧ s.hart.older = false ∧
    (ok fun h => { h with tarnRes := [(0, 1), (sel, 7)] }).hart.tarnRes = [(0, 1)] ++ (sel, 7) :: [] ∧ (0 : W64) ≠ sel ∧ s.hart.tarnRes = [] ∧
    (∀ q ∈ (s.die 0).tarnq, ¬ (q.hart = s.hid ∧ q.owed = true ∧ q.sel = sel)) ∧
    ((s.setDie 0 { Die.reset with tarnq := [⟨sel, s.group 4, 0, 3, 62, true⟩] }).die 0).tarnq = [⟨sel, s.group 4, 0, 3, 62, true⟩] := by decide +kernel

/-- A rank job over one 8-bit element of the own pool; its record at the next line. -/
def rank : Vector W64 4 := #v[self, 0, 0x0400000000000001, self + 64]
def jobs (f : Hart → Hart) : State :=
  tasked job fun h => f (((h.setG 4 self).setG 6 0x0400000000000001).setG 7 (self + 64))
theorem witness_FlintInstrs : let s := jobs id
    (boss id).ctl = true ∧ s.ctl = false ∧ s.group 4 = rank ∧ s.flintCheck (s.group 4) = none ∧ ((lab id).flintCheck ((lab id).group 4)).isSome = true ∧ s.hart.quiet = true ∧
      (s.hart.flintOut + s.hart.flintRes.length < 4 ∧ (s.core 0).flintq.length < 8) ∧ ¬ (jobs fun h => { h with flintOut := 4 }).hart.flintOut < 4 ∧
      (jobs fun h => { h with seq := [entry 0] }).hart.older = true ∧ s.hart.older = false ∧ (jobs fun h => { h with flintRes := [7] }).hart.flintRes = 7 :: [] ∧
      s.hart.flintRes = [] ∧ s.hart.flintOut = 0 ∧ 0 < (jobs fun h => { h with flintOut := 1 }).hart.flintOut := by decide +kernel

/-- An identity copy of one line of the own pool to the next frame of it. -/
def move (w3 : W64) : Vector W64 4 := #v[self, self + 1024, 64 * 2 ^ 40, w3]
def mover (f : Hart → Hart) : State := tasked job fun h => f (((h.setG 4 self).setG 5 (self + 1024)).setG 6 (64 * 2 ^ 40))
/-- A request of hart 0. -/
def order (w3 : W64) : CopyReq := ⟨move w3, 0, 0, 62, true, [0]⟩
theorem witness_CopyInstrs : let s := mover id
    let f := s.setCore 0 { s.core 0 with fifo := List.replicate 16 (order 0) }
    s.group 4 = move 0 ∧ s.copyCheck (s.group 4) = none ∧ (s.core (coreIx s.hid)).fifo.length < 16 ∧ (s.hart.quiet = true) ∧ (mover fun h => { h with seq := [entry 0] }).hart.quiet = false ∧
      16 ≤ (f.core (coreIx f.hid)).fifo.length ∧ f.copyCheck (f.group 4) = none ∧ bitsN ((lab id).group 4)[2] 63 40 = 0 ∧
      (copyBad (move 0) = none ∧ copyBad (move 4) = none ∧ copyBad (move (self + 128)) = none) := by decide +kernel

theorem witness_EngineAccess : let s := mover id
    let rq := s.me
    let bad : State := { s with bad := [(poolKey 0 0 / 8, true)] }
    s.access rq self 64 .read = .ok (.mem (poolKey 0 0)) 0 ∧ s.access rq (self + 1024) 64 .write = .ok (.mem (poolKey 0 1024)) 0 ∧ s.badIn (poolKey 0 0) 64 = false ∧
      bad.badIn (poolKey 0 0) 64 = true ∧ bad.badPart (poolKey 0 0) 1 = true ∧ s.access rq (self + 4096) 64 .read = .trap ⟨5, 0, self + 4096⟩ ∧ s.access rq (self + 4096) 64 .write = .trap ⟨5, 0, self + 4096⟩ := by decide +kernel

/-- A copy under way with the given rows left. -/
def moving (w3 : W64) (todo : List Nat) : CopyFly := ⟨0, 0, order w3, 0, 0, [], [], 0, false, todo, 0, none, [], 0, 0⟩
theorem witness_CopyEngine : let s := mover id
    let q := s.setCore 0 { s.core 0 with fifo := [order 0] }
    let r := q.setCore 0 { q.core 0 with fifo := [order 4], infl := 1 }
    let t : State := { s with dev := { Device.reset with copies := [moving 0 [0]] } }
    let pieces := cutAt (self + 1024) 64 64
    let g := t.gather (order 0).who self [] (cutAt self 64 64)
    ((s.core 0).fifo = [] ∧ (q.core 0).fifo = order 0 :: [] ∧ (q.core 0).infl < 96 ∧ (order 0).w[3].getLsbD 2 = false ∧ (order 4).w[3].getLsbD 2 = true ∧ 0 < (r.core 0).infl ∧
      q.copyBind (order 0) q.fv ≠ none) ∧
    (s.dev.copies.find? (·.id == 0) = none ∧ t.dev.copies.find? (·.id == 0) = some (moving 0 [0]) ∧ 1 ∉ (moving 0 [0]).todo ∧ 0 ∈ (moving 0 [0]).todo ∧ (order 0).ten = false ∧
      pieces[(moving 0 [0]).pos]? = some (0, 64) ∧ (moving 0 [0]).row = none ∧ 0 + 1 = pieces.length) ∧
    (g.waits = none ∧ g.st.engAllowed 0 0 [0] (self + 1024) 64 = true ∧ g.st.engAllowed 0 0 [] (self + 1024) 64 = false ∧ g.bytes = List.replicate 64 (some 0) ∧ (match g.st.engWrite (order 0).who (self + 1024) (List.replicate 64 0) with | .ok [] _ => true | _ => false) = true) := by decide +kernel
theorem witness_CopyEngine_complete : let c := moving (self + 128 + 0x0300000000000000) []
    let ctr := putBits (putBits c.req.w[3] 62 56 0) 2 0 0
    let t : State := { mover id with dev := { Device.reset with copies := [c] } }
    c.todo = [] ∧ putBits (putBits (moving 0 []).req.w[3] 62 56 0) 2 0 0 = 0 ∧ ctr = self + 128 ∧ c.del = false ∧ t.badIn (poolKey 0 128) 16 = false ∧ c.gdst ≠ 17 ∧
      ({ t with fv := t.fv + 1 } : State).access c.req.who ctr 8 .atomic = .ok (.mem (poolKey 0 128)) 0 ∧ t.badIn (poolKey 0 128) 8 = false ∧
      (match t.copyCounter (moving 0 []) with | (0, _, none) => true | _ => false) = true := by decide +kernel

/-- A Tarn command of hart 0, and one of a control hart in machine mode. -/
def plea (op slot : W64) : TarnCmd := ⟨0x4000000000000000, #v[op * 2 ^ 60 + slot, 0x20000, 0, 0], 0, 1, 62, true⟩
def grafted (c : TarnCmd) (l : List (Nat × TarnSlot)) : State := (lab id).setDie 0 { Die.reset with tarnq := [c], tarn := l.map fun p => (p.1, some p.2) }
theorem witness_TarnArray :
    let some' (o h : Nat) : TarnSlot := ⟨o, [], h⟩
    let s := grafted (plea 1 4) []
    let f := grafted (plea 1 4) [(4, some' 7 0)]
    let h := grafted (plea 1 4) [(4, some' 62 1)]
    let q := grafted (plea 3 4) [(4, some' 7 0)]
    let u := grafted (plea 2 15) [(15, some' 62 0)]
    let good : State := { mapped s with mem := (mapped s).mem ++ [(0x20006, 4), (0x20008, 4)] }
    (lab id).tarnNext 0 1 = none ∧ s.tarnNext 0 1 = some (0, plea 1 4) ∧ q.tarnNext 0 3 = some (0, plea 3 4) ∧ u.tarnNext 0 2 = some (0, plea 2 15) ∧
      bitsN (plea 1 4).sel 15 14 = 0 ∧ s.tarnSlot 0 4 = none ∧ f.tarnSlot 0 4 = some (some' 7 0) ∧ 7 ≠ (plea 1 4).part ∧ h.tarnSlot 0 4 = some (some' 62 1) ∧ u.tarnSlot 0 15 = some (some' 62 0) ∧
      q.tarnSlot 0 4 = some (some' 7 0) ∧ s.readImage 62 0x20000 = none ∧ (mapped s).readImage 62 0x20000 = some (List.replicate 576 0) ∧ imageMalformed (List.replicate 576 0) = true ∧
      (match good.readImage 62 0x20000 with | some img => !imageMalformed img | none => false) = true := by decide +kernel

/-- The job `rank` of hart 0. -/
def ranked : FlintJob := ⟨rank, 0, 0, 62, true⟩
theorem witness_Flint : let s := jobs id
    let q := s.setCore 3 { s.core 3 with flintq := [ranked] }
    let c := s.setCluster 0 { Cluster.reset with flint := some ranked }
    (s.cluster 0).flint = none ∧ (∀ i, i < 8 → (s.core i).flintq = []) ∧ (∀ i, i < 3 → (q.core (8 * 0 + ((q.cluster 0).rotFlint + i) % 8)).flintq = []) ∧ (q.core (8 * 0 + ((q.cluster 0).rotFlint + 3) % 8)).flintq = ranked :: [] ∧
    (c.cluster 0).flint = some ranked ∧
    (match c.flintRead ranked ranked.w[0] (cutAt ranked.w[0] (ranked.n * ranked.ty.width / 8) 64) with
      | .ok (0, cb, t) => cb == [0] &&
        (match t.flintRead ranked ranked.w[1] [] with
          | .ok (0, wb, t') => wb == [] && (match t'.flintWrite ranked (ranked.writes (ranked.record (ranked.run [0] [])).1 (ranked.record (ranked.run [0] [])).2) with | .ok (0, _) => true | _ => false)
          | _ => false)
      | _ => false) = true ∧
    elemsOf ranked.ty.width ranked.n (leNat [0]) = [0] ∧ (∀ x ∈ [0], x < 2 ^ ranked.ty.width) ∧ (ranked.run [0] []).status = 0 ∧ (ranked.run [] []).status = 1 ∧ ranked.mode' = 0 ∧ ranked.param = 1 := by decide +kernel

/-- A task with four accumulators and MXFMT for int8 in mode 3. -/
def bench (f : Hart → Hart) : State :=
  let t : Task := { job with image := job.image.set 6 (4 * 1024) }
  (user fun h => f { ((h.setReg .spbase self).setReg .splen 4096).setReg .mxfmt 0xC00FF with task := some t }).setCore 0 { Core.reset with units := [(0, .scratch 0)] }
def i8 : W64 := 0x880FF
/-- `mma` over K = 32 of the v registers, both operands of KIND 1; `mdrain` of raw accumulators. -/
def tile (f : Hart → Hart) : State :=
  bench fun h => f (((((h.setReg .mxfmt i8).setG 4 0).setG 5 0x4004000000000000).setG 6 16).setG 7 0x4004000000000000)
theorem witness_MatrixGuards : let s := tile id
    let p := tile fun h => (h.setReg .mstat 0x10000).setReg .mxcause 0x16
    (boss id).ctl = true ∧ s.ctl = false ∧ bitsN (s.csr .mstat) 17 16 = 0 ∧ s.hart.td = 0 ∧ bitsN (p.csr .mstat) 17 16 ≠ 0 ∧ Calm p.hart ∧
      (tile fun h => { h.setReg .mstat 0x10000 with seq := [entry 0] }).hart.older = true ∧ (p.csr .mxcause).toNat = 0x16 ∧
      (let q := tile fun h => ((h.setReg .mstat 0x10000).setReg .mxcause 0x16).setReg .mtvec 0x40000 |>.setReg .stvec 0x40000
       q.hart.td < 2 ∧ q.hart.reg (bank (trapMode q.ctl q.hart.priv 0x16)).tvec ≠ 0) ∧
      (let q := tile fun h => h.setReg .status (putBits (h.reg .status) 10 9 1)
       0 < q.hart.td ∧ (q.csr .mstat).getLsbD 15 = false) := by decide +kernel
theorem witness_MatrixPushes : let s := tile id
    let c0 := s.mxCmd .mma 3 0 ⟨#[s.g 4, s.g 5, s.g 6, s.g 7], rfl⟩
    let dr := tile fun h => ((h.setG 4 self).setG 6 (2 ^ 40)).setG 7 0
    let d0 := dr.mxCmd .mdrain 3 0 ⟨#[dr.g 4, 0, dr.g 6, dr.g 7], rfl⟩
    ((3 : BitVec 2).toNat < s.hart.accUnits ∧ ¬ (0 : BitVec 2).toNat < (user id).hart.accUnits) ∧ s.hart.quiet = true ∧ s.hart.mq.length < 8 ∧ (s.g 4).toNat % 64 = 0 ∧ (s.g 6).toNat % 64 ≠ 0 ∧
      (mxForm (s.csr .mxfmt) 3).isSome = true ∧ mxForm ((bench fun h => h.setReg .mxfmt 0).csr .mxfmt) 3 = none ∧ s.mmaCheck c0 = none ∧ bitsN c0.w[1] 63 62 = 1 ∧
      (s.mmaCheck { c0 with w := c0.w.set 1 0x4008000000000000 }).isSome = true ∧
      drainBad (dr.g 6) (dr.g 7) 3 = false ∧ mdrainCheck d0 = none ∧ drainBad (2 ^ 40 + 2 ^ 41) 0 3 = true ∧ (mdrainCheck { d0 with w := d0.w.set 0 1 }).isSome = true ∧
      (bitsN ((tile fun h => h.setG 8 3).g 8) 7 0).testBit (coreOf s.hid % 8) = true ∧ (2 : Nat).testBit (coreOf s.hid % 8) = false ∧ bitsN (s.g 8) 7 0 = 0 ∧ s.hart.older = false := by decide +kernel

/-- A command of hart 0. -/
def order' (k : MKind) (w0 : W64) : MCmd :=
  { kind := k, acc := 1, scope := 0, w := #v[w0, 0x4004000000000000, 16, 0x4004000000000000], mxfmt := i8, scaleA := 0, scaleB := 0, smeta := 0, tscale := 0, rnd := 1, gang := 1, age := 0
    hart := 0, mode := 0, part := 62, va := List.replicate 16 0, vb := List.replicate 4 0, share := [0], fno := 0 }
def queue (l : List MCmd) : State := { tile (fun h => { h with mq := l }) with clus := [(0, { Cluster.reset with slices := 8, powered := true })] }
def starts (c : MCmd) : Bool := let s := queue [c]; c.kind != .mma && s.sliceFree 0 && s.mxFirst 0 c && s.mxMoves 0 c
theorem witness_MatrixCommands_start :
    (tile id).hart.mq = [] ∧ starts (order' .mzero 0) = true ∧ starts (order' .mswap 0) = true ∧ starts (order' .mpre self) = true ∧
      starts { order' .mdrain self with w := #v[self, 0, 2 ^ 40, 0] } = true ∧ starts (order' .mma 0) = false ∧ ((queue [order' .mswap 0]).hart.acc.map Prod.fst).Nodup ∧
      (let r := (queue [order' .mpre self]).mpreLines 0 (order' .mpre self) 0 32; r.waits = none ∧ r.faults = []) ∧
      (match (queue [{ order' .mdrain self with w := #v[self, 0, 2 ^ 40, 0] }]).drainRun 0 0 { order' .mdrain self with w := #v[self, 0, 2 ^ 40, 0] } [] with | .ok _ => true | _ => false) = true := by decide +kernel
theorem witness_MatrixCommands_gang : let s := queue [order' .mma 0]
    let off := tile fun h => { h with mq := [order' .mma 0] }
    (tile id).nextGang 0 = none ∧ s.nextGang 0 = some [(0, 0, order' .mma 0)] ∧ (s.cluster 0).tails = [] ∧ 0 % 8 < (s.cluster 0).slices ∧
      off.nextGang 0 = some [(0, 0, order' .mma 0)] ∧ (off.cluster 0).slices ≤ 0 % 8 := by decide +kernel
/-- An operation of the array with one member. -/
def op (c : MCmd) : MatOp := ⟨0, [⟨0, 0, c, [], 0, [], 0, 0⟩]⟩
def running (o : MatOp) : State := { tile id with clus := [(0, { Cluster.reset with slices := 8, powered := true, ops := [o] })] }
theorem witness_MatrixCommands_ends : let o := op (order' .mma 0)
    let two : MatOp := ⟨0, [⟨0, 0, order' .mma 0, [], 0, [], 0, 0⟩, ⟨4, 1, { order' .mma 0 with mxfmt := 0 }, [], 0, [], 0, 0⟩]⟩
    let d : MDrain := ⟨0, 0, 0, { order' .mdrain self with w := #v[self, 0, 2 ^ 40, 0] }, self + 64, 0⟩
    let s : State := { tile id with dev := { Device.reset with drains := [d] } }
    (tile id).findOp 0 = none ∧ (running o).findOp 0 = some (0, o) ∧ o.mismatch = false ∧ two.mismatch = true ∧ (∀ m ∈ o.members, m.na = 0 ∧ m.nb = 0) ∧ (match (running o).mxRun 0 o with | .ok _ => true | _ => false) = true ∧
      (tile id).dev.drains.find? (·.id == 0) = none ∧ s.dev.drains.find? (·.id == 0) = some d ∧ s.access d.cmd.who d.ctr 8 .atomic = .ok (.mem (poolKey 0 64)) 0 ∧ s.badIn (poolKey 0 64) 8 = false ∧ s.engAllowed 0 0 [0] d.ctr 8 = true ∧ d.ctr ≠ 0 ∧ s.engAllowed 0 0 [] d.ctr 8 = false ∧ 2 ≤ mxMode i8 0 := by decide +kernel
theorem witness_MatrixProduct : let d : MxData := ⟨⟨.i8, .i8, 32, 3⟩, 32, 8, [List.replicate 32 0x80], [List.replicate 32 0x7F], none, none, []⟩
    2 ≤ d.form.mode ∧ 0 < d.form.g ∧ d.k = 1 * d.form.g ∧ d.a[0]? = some (List.replicate 32 0x80) ∧ d.b[0]? = some (List.replicate 32 0x7F) ∧ d.idx.getD 0 none = none ∧
      ((toSigned 56 5).natAbs : Int) + ((List.range d.k).map fun i => (((d.form.a.ival ((List.replicate 32 0x80).getD i 0) * d.form.b.ival ((List.replicate 32 0x7F).getD i 0) : Int)).natAbs : Int)).sum < 2 ^ 31 := by decide +kernel
/-- A value of the accumulator format or of an element (R243). -/
def onePt : FV := .num false 1 0
theorem witness_MatrixGroupSum : (∃ p ∈ [(FV.nan, onePt)], p.1 = .nan ∨ p.2 = .nan) ∧ (∃ p ∈ [(FV.inf true, FV.num false 0 0)], p.1.isInf = true ∧ p.2 = FV.num false 0 0) ∧
    (∃ p ∈ [(FV.inf false, onePt)], (p.1.isInf = true ∨ p.2.isInf = true) ∧ (p.1.neg? != p.2.neg?) = false) ∧
    (∃ p ∈ [(onePt, onePt)], (2 : Rat) ^ (0 : Int) ≤ (p.1.rat * p.2.rat).abs) ∧ (∀ p ∈ [(onePt, onePt)], (p.1.rat * p.2.rat).abs < (2 : Rat) ^ (0 + 1 : Int)) := by decide +kernel
theorem witness_MatrixElement :
    let i : MxData := ⟨⟨.i8, .i8, 32, 3⟩, 32, 8, [List.replicate 32 0x80], [List.replicate 32 0x7F], none, none, []⟩
    let f : MxData := ⟨⟨.l8e4, .l8e4, 32, 0⟩, 32, 8, [List.replicate 32 0x38], [List.replicate 32 0x38], some [0x3F800000], some [0], []⟩
    let z : MxData := { f with n := 2, b := [List.replicate 4 0x38], idx := [some (List.replicate 4 3)] }
    (0 < i.form.g ∧ i.k = 1 * i.form.g ∧ i.a[0]? = some (List.replicate 32 0x80) ∧ i.b[0]? = some (List.replicate 32 0x7F) ∧ 2 ≤ i.form.mode ∧ i.idx.getD 0 none = none) ∧
    (f.form.mode < 2 ∧ f.k = 1 * f.form.g ∧ f.a[0]? = some (List.replicate 32 0x38) ∧ f.b[0]? = some (List.replicate 32 0x38) ∧ f.idx.getD 0 none = none) ∧
    (z.idx.getD 0 none = some (List.replicate 4 3) ∧ z.k = 1 * z.form.g ∧ (List.replicate 32 0x38).length = z.k) ∧
    0x3F800000 / 2 ^ 31 = 0 ∧ 0x3F800000 / 2 ^ 23 % 256 ≠ 0 ∧ 0x3F800000 / 2 ^ 23 % 256 ≠ 255 ∧ (fA56.dec 0).isInf = false ∧ fA56.dec 0 ≠ .nan := by decide +kernel

theorem witness_MatrixSave_guards : let s := tile fun h => h.setG 8 0x20000
    (boss id).ctl = true ∧ s.ctl = false ∧ (s.csr .mstat).getLsbD 15 = false ∧ ((tile fun h => h.setReg .mstat 0x8000).csr .mstat).getLsbD 15 = true ∧ (s.g 8).toNat % 64 = 0 ∧ (self + 32).toNat % 64 ≠ 0 ∧
      s.hart.quiet = true ∧ s.mxRunning s.hid = false ∧ (running (op (order' .mma 0))).mxRunning 0 = true ∧ s.hart.mq = [] ∧ (queue [order' .mma 0]).hart.mq ≠ [] ∧
      s.hart.mq.length ≤ 8 ∧ s.hart.accUnits ≤ 4 := by decide +kernel

theorem area_length : (cached []).hart.mxArea.length = 11264 := by
  have e : (cached []).hart.accUnits = 0 := by decide +kernel
  simp only [Hart.mxArea, e, List.length_append, padTo_length, List.range_zero, List.flatMap_nil, List.length_nil]
theorem witness_MatrixSave_saves : ∃ u, (cached []).hart.overflows (rangeLines 0x20000 (cached []).hart.mxArea.length) = false ∧
    (cached []).storeLines (cached []).hart.mxArea (rangeLines 0x20000 (cached []).hart.mxArea.length) = .ok [] u := by
  simp only [area_length]
  obtain ⟨n, h⟩ := cached_storeLines [] (cached []).hart.mxArea _ (lines_unit2 11264 (by decide))
  exact ⟨cached n, rfl, h⟩
/-- The area read from `cached m`, without accumulators. -/
def areaOf (m : List Host.Cell) : List Byte := (rangeLines 0x20000 11264).flatMap fun a => (cached m).rdBytes a.toNat 64
theorem witness_MatrixSave_rests : (cached []).loadLines (rangeLines 0x20000 11264) = .ok (areaOf []) (cached []) ∧ mxAreaBad (areaOf []) = none := by
  refine ⟨cached_loadLines [] _ (lines_unit2 11264 (by decide)), ?_⟩
  have w : areaWord (areaOf []) 0 = 0 := by decide +kernel
  unfold mxAreaBad
  simp only [w]
  decide
theorem witness_MatrixSave_bad : mxAreaBad (areaOf [(0x20000, 9)]) = some 9 := by
  have w : areaWord (areaOf [(0x20000, 9)]) 0 = 9 := by decide +kernel
  unfold mxAreaBad
  simp only [w]
  decide

/-- Words 0 to 8 of a descriptor of partition 5 at 0x20000 (R302): one layer, blocks of one token, four slots, two tokens. -/
def sheet : Vector W64 9 := #v[0x1400000400000800, 0x21000, 0x21100, 0x21200, 0x21300, 0x10000, 0x30000, 0, 0]
/-- The entry of the one layer of `sheet`. -/
def level : Vector W64 4 := #v[0x20000, 0x22006, 0x102000, 0]
/-- The session of `sheet`. -/
def ses : Session := { newSession 5 0x20000 sheet with layers := [level] }
/-- The descriptor, its tables and a region in memory of partition 5; hart 0 runs in that partition. -/
def studio (f : Hart → Hart) : State :=
  let s := ((((((mapped (lab f)).wrN 0x10008 8 0xFFFFFFFFFFFFFFC0).wrN 0x10010 8 0xFFFFC00000000000).wrBytes 0x20000 (sheet.toList.flatMap fun w => leBytes 8 w.toNat)).wrN 0x21102 2 1).wrBytes 0x21200
    ([0x20000, 0x22006, 0x102000, 0].flatMap fun w => leBytes 8 w)).setPrt 5 ⟨0x1000, 0⟩
  { s.setReg (regBase 0 + 0x6000000) 5 with tags := [(0, 5), (1, 5), (2, 5), (3, 5)] }
/-- Session 0 is open. -/
def desk (x : Session) (f : Hart → Hart) : State := (studio f).setSes 0 (some x)
/-- An edit of session 0 whose record is at 0x23000 and whose token is read from 0x24000. -/
def edit (kind pos len : Nat) : EditReq := ⟨kind, 0x23000, #v[w64 pos, w64 len, 0x24000, 0], true, 5⟩

theorem witness_Mere_guards : let s := desk ses id
    let e := desk { ses with edits := [edit 0 0 1] } id
    let w := desk { ses with waits := [(s.hid, 1)] } id
    (studio id).ses? 0 = none ∧ s.ses? 0 = some ses ∧ ses.part = s.part ∧ { ses with part := 6 }.part ≠ s.part ∧ (e.ses? 0).map (·.edits.length) = some 1 ∧
      (w.ses? 0).map (·.waits.find? (·.1 == w.hid)) = some (some (w.hid, 1)) ∧ ses.edits = [] ∧ ses.waits = [] ∧
      bitsN ses.w[0] 57 50 + 1 ≤ bitsN (2 ^ 44 : W64) 51 44 ∧ bitsN (0 : W64) 51 44 < bitsN ses.w[0] 57 50 + 1 ∧ ses.nblk = 2 ∧ ses.nblk ≤ bitsN (2 * 2 ^ 31 : W64) 43 31 ∧ bitsN (2 ^ 31 : W64) 43 31 < ses.nblk := by decide +kernel
theorem witness_EditInstrs : let s := desk ses fun h => h.setG 1 0x23000
    let good := (s.wrN 0x23008 8 1).wrN 0x23000 8 0
    let far := (s.wrN 0x23008 8 1).wrN 0x23000 8 (2 ^ 52)
    (s.g 1).toNat % 64 = 0 ∧ s.hart.settled = true ∧ (desk ses fun h => { h with seq := [entry 0] }).hart.settled = false ∧ (0x23020 : W64).toNat % 64 ≠ 0 ∧ s.hart.quiet = true ∧ (desk ses fun h => { h with seq := [entry 0] }).hart.quiet = false ∧
      (match good.readA 0x23000 32 with
        | .ok bs t => BitVec.ofNat 64 (leNat (bs.take 8)) == 0 && BitVec.ofNat 64 (leNat ((bs.drop 8).take 8)) == 1 && t.ses? 0 == some ses && ses.part == t.part
        | _ => false) = true ∧
      (match s.readA 0x23000 32 with | .ok bs _ => bitsN (BitVec.ofNat 64 (leNat ((bs.drop 8).take 8))) 20 0 == 0 | _ => false) = true ∧
      (match far.readA 0x23000 32 with | .ok bs t => bitsN (BitVec.ofNat 64 (leNat (bs.take 8))) 63 52 == 1 && t.ses? 1 == none | _ => false) = true := by decide +kernel

/-- Slot k of session 0 in a state. -/
def tinted (k st : Nat) (s : State) : State := s.wrN (0x21300 + 8 * k) 8 (st * 2 ^ 62)
theorem witness_MereReads : let s := desk ses id
    let dirty := tinted 1 1 (desk ses fun h => h.setG 1 (2 ^ 31))
    let held := tinted 1 1 (desk { ses with held := [1] } id)
    (s.handleVa ses 0 0 0 = 0x22000 ∧ s.handleVa ses 0 1 0 = 0x22040 ∧ 2 ^ bitsN (ses.layer 0)[1] 4 0 = 64 ∧ (63 : W64).toNat % 64 ≠ 0 ∧ (64 : W64).toNat % 64 = 0) ∧
    (s.blkNum ses 0 1 = 1 ∧ (s.blkGet ses 1).1 = 0 ∧ (dirty.blkGet ses 1).1 = 1 ∧ (held.blkGet { ses with held := [1] } 1).1 = 1 ∧ 1 ∈ { ses with held := [1] }.held ∧ 1 ∉ ses.held) ∧
    (s.hart.streamBusy 2 = false ∧ (s.hart.rq 2).ents.length < 16 ∧ 16 ≤ packed.ents.length ∧ s.hart.sbuf = [] ∧ s.hart.cbuf = [] ∧ s.groupAhead s.hart.fno 0x22000 64 = false) ∧
    ((match s.access s.me 0x22000 64 .read with | .ok (.mem 0x22000) _ => true | _ => false) = true ∧ s.badIn 0x22000 64 = false) := by decide +kernel
/-- The task of block 0. -/
def artist : Task := { job with mere := some ⟨0, 0, 0, false, 1, 0⟩, image := image.set 6 (w64 (mereTag 0 0 0 * 2 ^ 32 + 0x2000)) }
theorem witness_MereReads_store : let s := desk ses fun h => { h.setQ 6 filled with task := some artist }
    (s.hart.task = some artist ∧ artist.mere = some ⟨0, 0, 0, false, 1, 0⟩ ∧ (imgTag artist.image).toNat = mereTag 0 0 0 ∧ s.hart.sstFault 6 = false ∧ s.hart.streamBusy 6 = false ∧ (s.hart.rq 6).headFull = true ∧
      s.hart.sbuf.length < 64 ∧ s.hart.isBuffered = false) ∧ ((desk ses id).hart.rq 6).headFull = false ∧ (desk ses id).hart.task = none ∧
    (match s.access s.me 0x22000 64 .write with | .ok (.mem 0x22000) _ => true | _ => false) = true := by decide +kernel
theorem witness_MereReads_settle : let s := desk ses id
    bitsN (1 : W64) 62 56 = 0 ∧ bitsN (2 ^ 56 : W64) 62 56 ≠ 0 ∧ (1 : W64).getLsbD 0 = true ∧ bitsN (1 : W64) 55 48 + 0 < ses.nl ∧ ses.nl ≤ bitsN (2 : W64) 55 48 + 1 ∧
      s.unsettled ses [0] true = [] ∧ (tinted 1 1 s).unsettled ses [0] false = [1] ∧ (tinted 1 3 s).unsettled ses [0] true = [1] ∧ (tinted 1 3 s).unsettled ses [0] false = [] := by decide +kernel
theorem witness_MereBlocks : let s := desk ses id
    (0 < 1 ∧ 1 < 2) ∧ s.ses? 0 = some ses ∧ s.locked 0 ses 0 1 = false ∧ ses.commits = [] ∧ 0 * ses.nslot + s.slotOf ses 1 = 1 ∧
      (s.blkGet ses 1).1 = 0 ∧ ((tinted 1 1 s).blkGet ses 1).1 = 1 ∧ ((tinted 1 2 s).blkGet ses 1).1 = 2 ∧ ((tinted 1 3 s).blkGet ses 1).1 = 3 := by decide +kernel

/-- The Mere registers of die 0 name a session and the descriptor of `sheet`. -/
def opening (n : W64) (s : State) : State := ((s.setReg (regBase 0 + 0x2000000) n).setReg (regBase 0 + 0x2000008) 0x20000).setReg (regBase 0 + 0x2000010) 5
theorem witness_MereEvents_open : let s := opening 0 (studio id)
    let m (s : State) := bitsN (s.getReg (regBase 0 + 0x2000000)) 11 0
    m s / 1024 = 0 ∧ m (opening 1024 s) / 1024 ≠ 0 ∧ s.ses? 0 = none ∧ (opening 0 (desk ses id)).ses? 0 ≠ none ∧ s.readDesc 5 0x20000 = some sheet ∧ s.readDesc 5 0x40000 = none ∧
      descBad 5 sheet = false ∧ descBad 6 sheet = true ∧ ((s.spanSeen 5 0x20000 72).readLayers (newSession 5 0x20000 sheet)).isSome = true ∧
      ((s.wrN 0x21208 8 0).spanSeen 5 0x20000 72).readLayers (newSession 5 0x20000 sheet) = none := by decide +kernel
theorem witness_MereEvents_close : let s := opening 0 (desk ses id)
    let e := opening 0 (desk { ses with accepted := 1 } id)
    (∀ p ∈ s.sesWork 0, p.2 = false) ∧ ses.pred = none ∧ ses.accepted = 0 ∧ (e.ses? 0).map (·.accepted) = some 1 := by decide +kernel
/-- A session with the predicate's address set and an appending edit that it judges. -/
def judged : Session := { ses with w := ses.w.set 6 0x20000, edits := [edit 3 0 1] }
theorem witness_MereEvents_edits : let s := desk { ses with edits := [edit 0 0 1] } id
    let x : Session := { ses with edits := [edit 0 0 1] }
    (s.ses? 0 = some x ∧ x.pred = none ∧ x.accepted = 0 ∧ ses.edits = []) ∧ (match s.editCheck x (edit 0 0 1) with | .ok [0] => true | _ => false) = true ∧ (edit 0 0 1).judged x = false ∧
      (x.ntok < (edit 1 3 1).pos ∧ x.ntok < (edit 0 2 1).pos + (edit 0 2 1).len) ∧ (match s.editCheck x (edit 1 2 1) with | .ok [0] => true | _ => false) = true ∧
      (match s.editCheck x (edit 2 0 2) with | .ok [] => true | _ => false) = true ∧ (match s.editCheck x (edit 3 0 1) with | .ok [0] => true | _ => false) = true ∧
      { x with ended := true }.ended = true ∧ (match s.editCheck judged (edit 3 0 1) with | .ok [0] => true | _ => false) = true ∧ (edit 3 0 1).judged judged = true ∧
      (let t := (desk judged id).setHart (ctlHart 0 1) { Hart.reset with run := .running };
        t.predFree (ctlHart 0 1) = true ∧ t.predFree (ctlHart 0 0) = false ∧ (t.ses? 0).map (·.edits) = some [edit 3 0 1]) := by decide +kernel
/-- A die whose session 0 is x, with insertions called for. -/
def asking (x : Session) (l : List (Nat × Nat)) : State := let s := desk x id; s.setDie 0 { s.die 0 with want := l }
theorem witness_MereEvents_rest : let run : PredRun := ⟨ctlHart 0 0, 0, Hart.reset, 0⟩
    let s : State := { desk { judged with pred := some run } id with clk := 36001 }
    let c : MereCommit := { layer := 0, slot := 0, m := 1, audit := false, thr := 0, redirty := false }
    let w := tinted 1 1 (asking ses [(0, 1)])
    let two : Session := { ses with w := ses.w.set 0 (ses.w[0] + 2 ^ 50), layers := [level, level], commits := [c] }
    let u := (desk two id).setSes 0 (some { two with commits := [] })
    ((s.ses? 0).map (·.pred) = some (some run) ∧ 36000 < (s.clk - run.start).toNat ∧ (({ s with clk := 36000 } : State).clk - run.start).toNat ≤ 36000) ∧
    (ses.commits = [] ∧ { ses with commits := [c] }.commits = [c] ∧ c.audit = false ∧ c.redirty = false ∧ ses.nl ≤ c.layer + 1) ∧
    (c.layer + 1 < two.nl ∧ c.thr ≠ 0x7F800000 ∧ c.thr.toNat < c.m.toNat % 2 ^ 31 ∧ u.logical { two with commits := [] } c.slot = some 0 ∧
      (∀ e ∈ two.depsOf 0 0, u.locked 0 { two with commits := [] } 1 e = false)) ∧
    (w.ses? 0 = some ses ∧ (0, w.blkNum ses 0 1) ∈ (w.die 0).want ∧ (0, w.blkNum ses 0 0) ∉ (w.die 0).want ∧ 0 < ses.nl ∧ 1 < ses.nblk ∧ ses.pred = none ∧ ses.accepted = 0 ∧
      w.insertable ses 0 1 = true ∧ (asking ses [(0, 1)]).insertable ses 0 1 = false) := by decide +kernel
theorem witness_MereEvents_insert : let w := tinted 1 1 (asking ses [(0, 1)])
    let r := { ses with w := ses.w.set 5 0x40000 }
    let all := w.setReg (regBase 0 + 0x6000000) 6
    (match w.mereInsert 0 ses 0 1 false with | .made _ => true | _ => false) = true ∧ (match w.mereInsert 0 r 0 1 false with | .refused _ => true | _ => false) = true ∧
      (match all.mereInsert 0 ses 0 1 false with | .full => true | _ => false) = true := by decide +kernel

theorem witness_VectorOperands : let h := (user fun h => ((h.setQ 2 filled).setQ 3 { Queue.empty with ents := [.fault 0] }).setQ 6 packed).hart
    h.src1 (.v 31) = .val 0 ∧ h.src1 (.q 2 0) = .val 0 ∧ h.src1 (.q 2 1) = .wait ∧ h.src1 (.q 3 0) = .fault 3 ∧ h.src1 (.q 0 0) = .wait ∧ h.dst (.q false 0) = .wait ∧ h.dst (.q true 15) = .val 0 ∧
      h.src2 32 (.v 5 .rev) = .val (.vec 0) ∧ h.src2 32 (.q 2 0) = .val (.vec 0) ∧ h.src2 32 (.q 3 0) = .fault 3 ∧ h.src2 32 (.lit 7) = .val (.scalar 7) ∧ h.src2 32 (.k 63) = .val (.scalar 0) ∧
      (h.rq 2).filled = 1 ∧ (h.rq 6).ents.length = 16 ∧ (h.rq 7).ents.length + 15 < 16 := by decide +kernel
theorem witness_ExactValues : fF16.dec 0x3C00 = .num false 1024 (-10) ∧ fL4.dec 0xF = .num true 3 0 ∧ fF32.dec 0x80000000 = .num true 0 (-149) := by decide +kernel
theorem witness_VectorFloat : fBf16.dec fBf16.nan = .nan ∧ fBf16.dec 0x7F80 = .inf false ∧ fBf16.dec 0xFF80 = .inf true ∧ fBf16.dec 0x8000 = .num true 0 (-133) ∧
    (1 : Int) * ((1 : Nat) : Int) * 2 ^ ((0 : Int) - min 0 3).toNat + (-1) * ((1 : Nat) : Int) * 2 ^ ((3 : Int) - min 0 3).toNat = -7 := by decide +kernel
theorem witness_VectorTypes : ETy.l8e4.float? = some fL8e4 ∧ ETy.i8.float? = none ∧ ETy.l8e4.width ≤ ETy.f32.width ∧ (ETy.f16 ≠ .l4) ∧ fF32.dec (0x3F800 * 4096) ≠ .nan ∧ fF32.dec (0x7FFFF * 4096) = .nan := by decide +kernel
theorem witness_VectorPacked : [BMask.mk 1 true, ⟨0, false⟩].all (fun m => (user id).hart.active m 3 == (m.sel == 0)) = true ∧ ETy.l8e4.isNan ETy.l8e4.nan = true ∧ ETy.isNan .i8 0xFF = false := by decide +kernel
theorem witness_VectorConstants : let f := { Queue.empty with ents := [.fault 0] }
    QEnt.fault 0 ∈ f.ents.take (1 : BitVec 5).toNat ∧ (∀ g ∈ [0, 1], QEnt.fault g ∉ filled.ents.take (1 : BitVec 5).toNat) ∧ (1 : BitVec 5).toNat ≤ filled.filled ∧ filled.filled < (2 : BitVec 5).toNat ∧
      16 < packed.ents.length + (1 : BitVec 5).toNat ∧ Queue.empty.ents.length + (16 : BitVec 5).toNat ≤ 16 ∧ 16 ≤ (List.replicate 16 true).length ∧ (user id).hart.bq.length < 16 := by decide +kernel

theorem witness_AluRegister_words : let p : W64 := 0x01000000
    decodeFrame 0x81190A14 0 = ⟨.op (.maxu 3 4 5), .absent⟩ ∧ bitsN p 29 24 = 1 := by decide +kernel
/-- Hart 0 with two waiting ranges, one bound long ago. -/
def kept (r : HandRange) : State := { (lab id).setCluster 0 { Cluster.reset with basin := [(0, some { ticket with hand := some r })] } with clk := 90000 }
theorem witness_HandSpill : let e (r : HandRange) : Option Entry := some { ticket with hand := some r }
    let due (s : State) (r : HandRange) : Prop := (s.cluster 0).entry 0 = e r ∧ ticket.ctx = none ∧ r.spilled = false ∧ r.tried = false ∧ 90000 ≤ (s.clk - r.bound).toNat
    let fits (s : State) (r : HandRange) (b : Nat) : Bool := decide (b + r.len / 4096 ≤ r.spunits) && (s.spillUsed r.part r.spill).all fun p => decide (b + r.len / 4096 ≤ p.1) || decide (p.1 + p.2 ≤ b)
    ((lab id).cluster 0).entry 0 = none ∧ due (kept gift) gift ∧ gift.spunits ≠ 0 ∧ fits (kept gift) gift 0 = true ∧
      ((kept { gift with bound := 1 }).clk - 1).toNat < 90000 ∧ (due (kept { gift with spunits := 0 }) { gift with spunits := 0 }) ∧
      ((kept { gift with tried := true }).cluster 0).entry 0 = e { gift with tried := true } ∧
      (let one := { gift with spunits := 1 }
       let s := (kept one).setCluster 1 { Cluster.reset with hands := [(6, { one with spilled := true, addr := one.spill })] }
       due s one ∧ fits s one 0 = false) := by decide +kernel
theorem witness_HandSpill_moves :
    ({ mapped (kept gift) with clus := (kept gift).clus }.spill gift).1.spilled = true ∧ ({ kept gift with tags := [] }.spill gift).1.tried = true := by decide +kernel
theorem witness_LaneGrant : let s := user fun h => { h with seq := [entry 0x21800000] }
    (s.laneReqs 1).map (·.n) = [] ∧ (s.laneReqs 0).length ≤ 4 := by decide +kernel
theorem witness_PriorityPromotion : let s := (lab id).setCluster 0 { Cluster.reset with basin := [(0, some { ticket with eff := { plainRegion with prio := 3 } })] }
    kwf none (s.cluster 0).basin = true ∧ ticket.ready = some 0 ∧ ((65536 : W64) - 0).toNat < 2 ^ 63 ∧ (match s.winner 0 with | some (0, _) => true | _ => false) = true := by decide +kernel
theorem witness_Acts : Says.Acts (placed 0x81190A14) := by
  unfold Says.Acts
  decide +kernel
theorem witness_StepRunsDecoded : let s := placed 0x81190A14
    s.hart.pc.getLsbD 63 = false ∧ (match s.resolveVirt s.me s.hart.pc .fetch with | .ok (.mem 0x10000) _ => true | _ => false) = true ∧ s.badIn 0x10000 8 = false ∧
      (match s.fetch s.hart.pc with | .ok w0 w1 _ => w0 == 0x81190A14 && w1 == 0 && (decodeFrame w0 w1).a == .op (.maxu 3 4 5) && (decodeFrame w0 w1).b == .absent | _ => false) = true ∧
      s.hart.enter = [] ∧ s.hart.seq = [] ∧ s.hart.trap = none ∧ s.hart.aStall = none ∧ s.hart.redo = none ∧ s.hart.fr = none ∧ (needsV (.maxu 3 4 5) && s.hart.nov) = false ∧ s.hart.nov = false := by decide +kernel
theorem witness_StepRunsDecoded_b : let s : State := { placed 0 with hart := { (placed 0).hart with seq := [entry 0x01084080] } }
    Says.Acts s ∧ s.hart.seq.head? = some (entry 0x01084080) ∧ s.hart.bStall = none ∧ (match (entry 0x01084080).slot with | .op _ => true | _ => false) = true ∧
      (match (entry 0x3FFFFFFF).slot with | .bad _ _ => true | _ => false) = true := by
  unfold Says.Acts
  decide +kernel
theorem witness_StepRunsDecoded_agenda : ({ placed 0 with agenda := [.trapEntry] } : State).agenda = .trapEntry :: [] := rfl
theorem witness_StepCanonical : Memory.wf (placed 0x81190A14).mem = true := by decide +kernel
theorem witness_EncodeDecode : (Instr.maxu 3 4 5).wf = true ∧ (Instr.maxu 3 4 5).side ≠ .event ∧ decode 0x81190A14 0 = some (.maxu 3 4 5) := by decide +kernel
theorem witness_StepRunsDecoded_served : Says.Served (placed 0) (placed 0) ∧ Says.Served (user id) ((user id).setCore 0 { (user id).core 0 with last := 0 }) := by
  have a : (placed 0).ctl = true := by decide +kernel
  have b : (user id).ctl = false := by decide +kernel
  have c : coreOf (user id).hid = 0 := by decide +kernel
  refine ⟨by unfold Says.Served; rw [if_pos a], ?_⟩
  unfold Says.Served
  rw [if_neg (by rw [b]; decide), c]
  exact ⟨rfl, by decide, 3, by decide, by decide +kernel, by decide +kernel⟩
theorem witness_StepRunsDecoded_urgent : let s : State := { (lab fun h => { h with fr := some (0x81190A14, 0), aStall := some .other }) with dev := { Device.reset with urgent := [0] } }
    let t := ({ s with dev := { s.dev with urgent := [] } } : State).focus 0
    s.dev.urgent = 0 :: [] ∧ t.hart.fr = some (0x81190A14, 0) ∧ t.hart.run = .running ∧ t.hart.trap = none ∧ t.mayIssue 0 = true ∧
      (decodeFrame 0x81190A14 0).a = .op (.maxu 3 4 5) ∧ (decodeFrame 0x81190A14 0).b = .absent ∧ (needsV (.maxu 3 4 5) && t.hart.nov) = false := by decide +kernel
theorem witness_StepRunsDecoded_lanes : let s := user fun h => { h with seq := [entry 0x01084080] }
    s.ctl = false ∧ s.hart.lanes < 4 ∧ 4 ≤ (user fun h => { h with lanes := 4 }).hart.lanes ∧ s.hart.walkUpTo 0 = false := by decide +kernel

/-- A stream of `sst` on q6 whose one group, at the start of the own pool, has not moved; the hart's frame is the next one. -/
def trailing (faulted : Bool) (f : Hart → Hart) : State :=
  lab fun h => f { h.setStream 6 ⟨(lab oneGroup).streamDesc 4, true, 0, false, faulted, 0, 0, 0⟩ with fno := 1 }
/-- Core space of core 1. -/
def next : W64 := 0x8000000000040000
/-- Hart 0, the next core halted. -/
def beside (f : Hart → Hart) : State := (lab f).setReg (dbgBase 1) 0x8000000000000000

/-- The ways to wait for streams, to drain, and to find the buffer full (`WaitsStreams`, `Drains`, `BufferFull`). -/
theorem witness_Waits :
    let s := trailing false id
    let l := trailing true id
    let e : StoreEnt := { put 1 with loc := .mem (poolKey 0 0), va := self }
    let q := trailing false fun h => { h with sbuf := [e] }
    let full := lab fun h => { h with sbuf := List.replicate 64 (put 0) }
    let jam := trailing false fun h => { h with sbuf := List.replicate 64 e }
    let last := trailing false fun h => { h with sbuf := List.replicate 63 e }
    (s.queuesAhead 1 self 8 = [6] ∧ s.groupAhead 1 self 8 = true ∧ s.hart.queuesBefore 1 = [6] ∧ s.hart.groupsBefore 1 = true ∧
      (s.hart.str[6]?.getD Stream.idle).faulted = false) ∧
    (l.queuesAhead 1 self 8 = [] ++ 6 :: [] ∧ (l.hart.str[6]?.getD Stream.idle).faulted = true) ∧
    (q.looseStores = [] ∧ q.storeQueues e = [6] ∧ (q.hart.sbuf.flatMap q.storeQueues) = [] ++ 6 :: []) ∧
    (full.hart.sbuf.length = 64 ∧ full.looseStores ≠ [] ∧ full.hart.sbuf.flatMap full.storeQueues = []) ∧ (jam.hart.sbuf.length = 64 ∧ jam.looseStores = []) ∧
    (last.hart.sbuf.length = 63 ∧ last.room e = false ∧ last.room (put 2) = true ∧ (lab id).room e = true) := by
  decide +kernel
/-- A pool byte under its two names (R190), and a store that a held one stands before. -/
theorem witness_StoreOrder :
    let s := trailing false id
    let e : StoreEnt := { put 1 with loc := .mem (poolKey 0 0), va := self }
    s.landing self = some (poolKey 0 0) ∧ s.landing 0x8000000000000000 = some (poolKey 0 0) ∧ s.meets self 8 0x8000000000000004 8 = true ∧
    s.meets self 8 (self + 8) 8 = false ∧ s.storeQueues e ≠ [] ∧ s.storeQueues (put 1) = [] ∧ ({ put 1 with rel := true } : StoreEnt).rel = true ∧
    (∃ x ∈ [e], x.fno = (put 1).fno) ∧ (∀ x ∈ [{ e with fno := 0 }], x.fno ≠ (put 1).fno ∧ s.meets x.va x.data.length (put 1).va (put 1).data.length = false) := by
  decide +kernel
theorem witness_TransferTrace :
    let on := (lab id).setReg (dbgBase 0 + 0x10) 0x8000000000000000
    let old : State := { on with hart := { on.hart with fno := 3, seq := [entry 0], traces := [(2, 8, 0)] } }
    let due : State := { on with hart := { on.hart with fno := 3, traces := [(2, 8, 0)] } }
    (lab id).traced 0 = false ∧ on.traced on.hid = true ∧ on.hart.discardable on.hart.fno = false ∧ old.traced old.hid = true ∧ old.hart.discardable old.hart.fno = true ∧
    old.hart.traces = (2, 8, 0) :: [] ∧ old.hart.discardable 2 = true ∧ due.hart.traces = [(2, 8, 0)] ∧ due.hart.discardable 2 = false := by
  decide +kernel
/-- An inner and an outer loop that end on one frame (R83). -/
theorem witness_LoopsNested : let e : LoopEnt := ⟨16, 32, 1⟩
    e.last = 32 ∧ e.last ≠ 40 ∧ e.count = 1 ∧ ({ e with count := 2 } : LoopEnt).count ≠ 1 ∧ (2 : W64) ≠ 0 ∧ (1 : W64) ≠ 0 ∧ (∀ x ∈ ([] : List LoopEnt).head?, x.last ≠ 32) ∧ 1 < (2 : W64).toNat := by
  decide +kernel
/-- An access that stands in the inbound buffer of a halted core (R378). -/
theorem witness_Held : let s := beside (·.setG 1 next)
    s.access s.me next 8 .read = .wait ∧ s.access s.me next 8 .write = .wait ∧ s.access s.me next 8 .atomic = .wait ∧ s.resolveCore s.me next 8 .fe = .wait ∧
    s.hart.quiet = true ∧ s.groupAhead s.hart.fno next 8 = false := by
  decide +kernel

/-- What else the clauses about stores and walks tell apart. -/
theorem witness_StoreClauses :
    let tr := storing { put 0 with loc := .mem (poolKey 0 0), va := self, tracked := true }
    let n := { put 0 with buffered := true }
    let held := user fun h => { h with task := some draft, cbuf := [(1, 7)], fno := 1 }
    let bad : State := { lab id with bad := [(8, true)] }
    (tr.looseStores = tr.hart.sbuf ∧ tr.hart.sbuf.length = 1 ∧ tr.hart.storeReady { put 0 with tracked := true } = true ∧ (storing n).hart.storeReady n = true ∧ (storing n).looseStores = [n]) ∧
    (held.hart.sbuf = [] ∧ held.hart.isBuffered = true ∧ (64 : W64).getLsbD 63 = false ∧ held.hart.cbuf.find? (·.1 == (64 + 1) / 64) = some (1, 7) ∧ held.hart.cbuf.find? (·.1 == 0) = none) ∧
    (bad.badIn 64 64 = true ∧ bad.badIn (64 + 7) 1 = true ∧ bad.badIn (64 + 32) 1 = false) ∧
    ((lab id).needsWalk self .atomic 0 = false ∧ (mapped (lab id)).needsWalk 0x20000 .atomic 0 = true) := by
  decide +kernel
/-- The fences, `tlbinv` and the writes of the windows, by what they wait for. -/
theorem witness_Fences :
    let s := trailing false id
    let l := lab fun h => h.setStream 1 ⟨(lab oneGroup).streamDesc 4, true, 1, false, false, 0, 0, 0⟩
    (s.hart.activeOf [6, 7] = [6] ∧ s.hart.activeOf [0, 1, 2, 3, 4, 5] = [] ∧ l.hart.activeOf [6, 7] = [] ∧ l.hart.activeOf [0, 1, 2, 3, 4, 5] = [1]) ∧
    ((storing (put 0)).hart.activeOf [6, 7] = [] ∧ (storing (put 0)).hart.sbuf ≠ [] ∧ (lab id).hart.sbuf = [] ∧ (lab id).hart.older = false) ∧
    (s.hart.groupsBefore s.hart.fno = true ∧ (lab id).hart.groupsBefore 0 = false ∧ (lab fun h => { h with seq := [entry 0] }).hart.older = true) := by
  decide +kernel
/-- Whose task a packet's refusal is for, and what a phase opens. -/
theorem witness_Refusals :
    let p : Task := { job with ident := 5 }
    let s := tasked p id
    let d : Domain := ⟨0, 1, [0], some 0⟩
    let t : State := { (lab fun h => { h with fr := some (7, 0) }).setCluster 0 { Cluster.reset with doms := [d] } with clk := 1 }
    (∃ x, s.hart.task = some x ∧ x.ident = 5) ∧ (s.allHarts.map Prod.fst).head? = some 0 ∧ (s.allHarts.filter fun q => q.2.task.isSome).length = 1 ∧
    (((lab id).allHarts.filter fun q => q.2.task.isSome) = []) ∧
    (d.release = some 0 ∧ (0 : W64) ≤ t.clk ∧ (∃ id ∈ d.arrived, clusOf id = 0) ∧ (t.getHart 0).fr = some (7, 0) ∧ (7 : W32).toNat % 64 = 7) ∧
    t.phasesOf 0 ≠ [] ∧ (lab id).phasesOf 0 = [] := by
  decide +kernel
/-- What a task that ends, a saved context and `ctxsave` may hold. -/
theorem witness_Saves :
    let b := { put 0 with buffered := true }
    let s := tasked draft fun h => { h with sbuf := [b] }
    let t := tasked job id
    let u : State := { t with bad := [((poolKey 0 8) / 8, true)] }
    (∀ e ∈ s.hart.sbuf, e.buffered = true) ∧ t.ctxHeld 0 = [0] ∧ t.ctxBadAt 0 = none ∧ u.ctxBadAt 0 = some 8 ∧ (cached []).ctxBadAt (cached []).hid = none ∧
      0x100000 + 2 ^ 20 ≤ (2 ^ 52 : Nat) ∧ kwf none ((lab id).setCluster 0 { Cluster.reset with basin := [(0, some ticket), (3, some ticket)] } |>.cluster 0).basin = true := by
  decide +kernel
theorem cached_behind (m : List Host.Cell) (a : W64) (n : Nat) : (cached m).groupAhead (cached m).hart.fno a n = false := by
  have e : ∀ q ∈ List.range 8, ((cached []).hart.str[q]?.getD Stream.idle).active = false := by decide +kernel
  have f : (cached m).queuesAhead (cached m).hart.fno a n = [] := List.filter_eq_nil_iff.mpr fun q hq => by
    have g : ((cached m).hart.str[q]?.getD Stream.idle).active = false := e q hq
    simp [g]
  simp [State.groupAhead, f]
theorem witness_Contexts_ahead : (cached []).groupAhead (cached []).hart.fno 0x20000 0xB000 = false ∧ (cached saved).groupAhead (cached saved).hart.fno 0x20000 0x400 = false ∧
    (trailing false fun h => h.setG 1 self).groupAhead 1 self 0x400 = true :=
  ⟨cached_behind _ _ _, cached_behind _ _ _, by decide +kernel⟩
/-- A hot list and a grid of which the one before may still be written, and a port to a bridge. -/
theorem witness_Records : let h := dial [(hotReg 0 11, 0x8000000000000010)]
    h.getReg (hotReg 0 11 + 16) = 0 ∧ (dial [(hotReg 0 11 + 16, 1)]).getReg (hotReg 0 11 + 16) ≠ 0 ∧
    ((List.range 512).any fun c => (List.range 4).any fun d => portBridge 0 c d) = true := by
  decide +kernel
/-- A dump with a protected unit left: the last of its leaf, and one that a held write wants. -/
theorem witness_Dumps_protected :
    let s := (mapped (lab id)).setReg (obsBase 0 + 0x3010) 0x10000
    let p : Dump := { part := 62, va := 0, units := 2, dst := 0x1000000, ctr := 0x20000, next := 0, err := false, prot := [0, 1], done := [], want := [1] }
    let t := s.setDie 0 { Die.reset with dump := some p }
    let q := { p with prot := [1], done := [0], want := [] }
    let v := s.setDie 0 { Die.reset with dump := some q }
    (t.dumpNext p).isSome = true ∧ 0 ∈ p.prot ∧ 1 ∈ p.prot ∧ t.sameLeaf 62 (unitVa 0) (unitVa 1) = true ∧ v.dumpNext q = some 1 ∧ (∀ x ∈ q.prot, x = 1) ∧
      (t.leafAt 62 (unitVa 0)).isSome = true ∧ (v.unitBytes 62 1).isSome = true ∧ (t.walkPath 62 (unitVa 0)).all (fun a => decide (a + 8 ≤ 0x1000000)) = true := by
  decide +kernel
/-- A unit's request that waits at a halted core (R378). -/
theorem witness_UnitWaits : let c : CopyFly := { moving 0 [0] with req := { order 0 with w := #v[next, self + 1024, 64 * 2 ^ 40, 0] } }
    let halt (s : State) : State := s.setReg (dbgBase 1) 0x8000000000000000
    let t : State := halt { mover id with dev := { Device.reset with copies := [c] } }
    let g := t.gather c.req.who next [] (cutAt next 64 64)
    g.waits ≠ none ∧ ((halt (queue [order' .mpre next])).mpreLines 0 (order' .mpre next) 0 32).waits ≠ none ∧
    (match (halt (queue [order' .mpre 0])).drainRun 0 0 { order' .mdrain next with w := #v[next, 0, 2 ^ 40, 0] } [] with | .error _ => true | .ok _ => false) = true ∧
    ((ReqBy.copyEnd 0) ≠ .none ∧ (ReqBy.mma 0) ≠ .none ∧ (ReqBy.command 0) ≠ .none ∧ (ReqBy.drain 0) ≠ .none ∧ (ReqBy.flint 0) ≠ .none) := by
  decide +kernel
/-- Blocks whose commit step is still to come, deferred events, a locked block, and events in the queue. -/
theorem witness_MereOrder :
    let c : MereCommit := { layer := 0, slot := 1, m := 1, audit := false, thr := 0x7F800000, redirty := false }
    let coming : Session := { ses with commits := [c] }
    let later : Session := { ses with queue := [.commit c] }
    let put' : Session := { ses with deferred := [.event 1 true] }
    let ex : Task := { artist with exclusive := true }
    (∃ c ∈ coming.commits, c.layer = 0 ∧ c.slot = (desk coming id).slotOf coming 1) ∧ later.queue ≠ [] ∧ put'.deferred ≠ [] ∧ ses.queue = [] ∧ ses.deferred = [] ∧
    (desk later id).hart.task = none ∧ ((desk ses fun h => { h with task := some ex }).hart.task = some ex ∧ ex.exclusive = true ∧ ex.mere = some ⟨0, 0, 0, false, 1, 0⟩) ∧
    (desk ses id).locked 0 ses 0 0 = false ∧ (desk ses fun h => { h with run := .running, task := some ex }).locked 0 ses 0 0 = true ∧
    (trailing false id).groupAhead 1 self 64 = true := by
  decide +kernel
/-- Values that R49 to R51, R114, R130 to R133 and R139 speak of. -/
theorem witness_Rounding : fF16.round 0 false ⟨false, 2049, 0, false⟩ = (0x6800, fNX) ∧ fF16.round 2 false ⟨false, 2049, 0, false⟩ = (0x6801, fNX) ∧
    fF16.round 1 false ⟨true, 65520, 0, false⟩ = (0xFBFF, fNX) ∧ fF16.round 0 false ⟨false, 65520, 0, false⟩ = (0x7C00, fOF ||| fNX) ∧ fF16.round 0 false ⟨false, 3, -25, false⟩ = (2, fUF ||| fNX) ∧
    fL4.round 0 true ⟨false, 100, 0, false⟩ = (8, fOF ||| fNX) ∧ fL4.round 0 false ⟨false, 100, 0, false⟩ = (7, fOF ||| fNX) := by
  decide +kernel
theorem witness_SpecialValues : fBf16.dec 0x3F80 = .num false 128 (-7) ∧ (FV.num false 128 (-7)).rat = 1 ∧ fBf16.dec 0xBF80 = .num true 128 (-7) ∧
    fF32.dec 0 = .num false 0 (-149) ∧ orderKey .bf16 0xBF80 = 0x407F ∧ orderKey .i8 0x80 = 0 ∧ mix 0 0 = 0 ∧
    (treeNode (fun a b => (a + b, fNX)) (fun k => if k = 2 then none else some 1) 2 0) = (some 3, fNX) ∧ greedy .bf16 (fun _ => true) [0x3F80, 0x7FC0, 0x3F80] = some 0 := by
  decide +kernel

end Sys2Proof.Tests
end

/-! PROOFS. Trap entry (R25) and the return from a trap (R93, R102): what each leaves in STATUS, in the trap registers and in the stream units, and that a return undoes an entry. -/
namespace Sys2Proof.Machine

/-! Fields of a word (R4): what `bitsN` and `getLsbD` read after `putBits`. -/

theorem testBit_bitsN (x : W64) (hi lo i : Nat) : (bitsN x hi lo).testBit i = (decide (i < hi + 1 - lo) && x.getLsbD (lo + i)) := by
  simp [bitsN, Nat.testBit_mod_two_pow, Nat.testBit_shiftRight, BitVec.getLsbD]

theorem bitsN_bit (x : W64) (n : Nat) : bitsN x n n = (x.getLsbD n).toNat := by
  rw [BitVec.getLsbD, Nat.toNat_testBit, bitsN, Nat.shiftRight_eq_div_pow, Nat.add_sub_cancel_left, Nat.pow_one]

/-- The sum that `putBits` computes, as its three digits: the bits above the field, the new field, the bits below. -/
theorem putBits_digits (x lo n v : Nat) :
    x - x / 2 ^ lo % 2 ^ n * 2 ^ lo + v % 2 ^ n * 2 ^ lo = 2 ^ lo * (2 ^ n * (x / 2 ^ lo / 2 ^ n) + v % 2 ^ n) + x % 2 ^ lo := by
  have low : 2 ^ lo * (x / 2 ^ lo) + x % 2 ^ lo = x := Nat.div_add_mod x (2 ^ lo)
  have high : 2 ^ n * (x / 2 ^ lo / 2 ^ n) + x / 2 ^ lo % 2 ^ n = x / 2 ^ lo := Nat.div_add_mod _ _
  have split : 2 ^ lo * (x / 2 ^ lo) = 2 ^ lo * (2 ^ n * (x / 2 ^ lo / 2 ^ n)) + x / 2 ^ lo % 2 ^ n * 2 ^ lo := by
    conv => lhs; rw [← high]
    rw [Nat.mul_add, Nat.mul_comm (x / 2 ^ lo % 2 ^ n)]
  rw [Nat.mul_add, Nat.mul_comm (v % 2 ^ n)]
  omega

theorem getLsbD_putBits (x : W64) {hi lo : Nat} (v i : Nat) (hl : lo ≤ hi) (hh : hi < 64) :
    (putBits x hi lo v).getLsbD i = if lo ≤ i ∧ i ≤ hi then v.testBit (i - lo) else x.getLsbD i := by
  simp only [putBits, bitsN, Nat.shiftRight_eq_div_pow, putBits_digits, BitVec.getLsbD_ofNat,
    Nat.testBit_two_pow_mul_add _ (Nat.mod_lt _ (Nat.two_pow_pos _)), Nat.testBit_mod_two_pow, Nat.testBit_div_two_pow]
  by_cases below : i < lo
  · simp [below, show i < 64 by omega, show ¬ lo ≤ i by omega, BitVec.getLsbD]
  · by_cases inside : i ≤ hi
    · simp [below, inside, show i < 64 by omega, show lo ≤ i by omega, show i - lo < hi + 1 - lo by omega]
    · have top : i - lo - (hi + 1 - lo) + (hi + 1 - lo) + lo = i := by omega
      simp only [below, inside, show ¬ i - lo < hi + 1 - lo by omega, if_false, and_false, top, BitVec.testBit_toNat]
      by_cases hi64 : i < 64
      · simp [hi64]
      · simp [hi64, BitVec.getLsbD_of_ge x i (by omega)]

@[simp] theorem bitsN_putBits_same (x : W64) {hi lo : Nat} (v : Nat) (hl : lo ≤ hi) (hh : hi < 64) : bitsN (putBits x hi lo v) hi lo = v % 2 ^ (hi + 1 - lo) := by
  apply Nat.eq_of_testBit_eq
  intro i
  rw [testBit_bitsN, getLsbD_putBits x v _ hl hh, Nat.testBit_mod_two_pow]
  by_cases h : i < hi + 1 - lo
  · simp [h, show lo + i ≤ hi by omega]
  · simp [h]

@[simp] theorem bitsN_putBits_apart (x : W64) {hi lo top low : Nat} (v : Nat) (hl : lo ≤ hi) (hh : hi < 64) (hd : top < lo ∨ hi < low) :
    bitsN (putBits x hi lo v) top low = bitsN x top low := by
  apply Nat.eq_of_testBit_eq
  intro i
  rw [testBit_bitsN, testBit_bitsN, getLsbD_putBits x v _ hl hh]
  by_cases h : i < top + 1 - low
  · rw [if_neg (by omega)]
  · simp [h]

/-- Bits [2:0] cleared, as the trap registers and as the statements write it. -/
theorem putBits_eq_frameOf (a : W64) : putBits a 2 0 0 = frameOf a := by
  apply BitVec.eq_of_getLsbD_eq
  intro i hi
  have seven : (7 : W64).getLsbD i = decide (i < 3) := by
    rw [show (7 : W64) = BitVec.ofNat 64 (2 ^ 3 - 1) from rfl, BitVec.getLsbD_ofNat, Nat.testBit_two_pow_sub_one]
    simp [hi]
  rw [getLsbD_putBits a 0 i (by decide) (by decide), frameOf, BitVec.getLsbD_and, BitVec.getLsbD_not, seven]
  by_cases low : i < 3
  · simp [low, show i ≤ 2 by omega]
  · simp [low, show ¬ i ≤ 2 by omega, hi]

/-! STATUS after a trap entry (R25) and after a return (R102). -/

section
variable (st : W64) (m : Nat) (trb : Bool)
@[simp] theorem trapStatus_priv : bitsN (trapStatus st m trb) 6 5 = m % 4 := by simp [trapStatus]
@[simp] theorem trapStatus_td : bitsN (trapStatus st m trb) 10 9 = (bitsN st 10 9 + 1) % 4 := by simp [trapStatus]
@[simp] theorem trapStatus_ppriv : bitsN (trapStatus st m trb) 8 7 = bitsN st 6 5 := by
  have field : bitsN st 6 5 < 4 := Nat.mod_lt _ (by decide)
  simp [trapStatus, Nat.mod_eq_of_lt field]
theorem trapStatus_pie : (trapStatus st m trb).getLsbD 4 = st.getLsbD 3 := by
  rw [trapStatus]; cases b : st.getLsbD 3 <;> simp [-BitVec.getLsbD_eq_getElem, getLsbD_putBits, bitsN_bit, b]
theorem trapStatus_trb : (trapStatus st m trb).getLsbD 11 = trb := by
  rw [trapStatus]; cases trb <;> simp [-BitVec.getLsbD_eq_getElem, getLsbD_putBits]

@[simp] theorem eretStatus_priv : bitsN (eretStatus st) 6 5 = bitsN st 8 7 := by
  have field : bitsN st 8 7 < 4 := Nat.mod_lt _ (by decide)
  simp [eretStatus, Nat.mod_eq_of_lt field]
@[simp] theorem eretStatus_td : bitsN (eretStatus st) 10 9 = bitsN st 10 9 - 1 := by
  have field : bitsN st 10 9 < 4 := Nat.mod_lt _ (by decide)
  simp [eretStatus, Nat.mod_eq_of_lt (show bitsN st 10 9 - 1 < 4 by omega)]
@[simp] theorem eretStatus_ppriv : bitsN (eretStatus st) 8 7 = 0 := by simp [eretStatus]
theorem eretStatus_ie : (eretStatus st).getLsbD 3 = st.getLsbD 4 := by
  rw [eretStatus]; cases b : st.getLsbD 4 <;> simp [-BitVec.getLsbD_eq_getElem, getLsbD_putBits, bitsN_bit, b]
theorem eretStatus_pie : (eretStatus st).getLsbD 4 = false := by
  rw [eretStatus]; simp [-BitVec.getLsbD_eq_getElem, getLsbD_putBits]
theorem eretStatus_trb : (eretStatus st).getLsbD 11 = false := by
  rw [eretStatus]; simp [-BitVec.getLsbD_eq_getElem, getLsbD_putBits]
end

/-! Stream units that a return lets go on (R93). -/

/-- Is the trap at which the fault of a queue's stream was raised the one that a return from the current depth leaves (log entry 67)? -/
def Hart.resumes (h : Hart) (q : BitVec 3) : Bool :=
  (h.stream q).faulted && (h.stream q).told != 0 && (h.stream q).told == h.td

/-- A stream whose unit issues the faulted group again. -/
def Stream.resumed (x : Stream) : Stream := { x with faulted := false, told := 0 }

/-- A queue without the mark of the faulted group. -/
def Queue.unfaulted (x : Queue) : Queue := { x with ents := x.ents.filter fun e => match e with | .fault _ => false | _ => true }

/-- k is h with other queues and stream units, and nothing else changed. -/
def SameButStreams (h k : Hart) : Prop := k = { h with q := k.q, str := k.str }

section
variable {h k : Hart}
theorem SameButStreams.refl (h : Hart) : SameButStreams h h := rfl
theorem SameButStreams.reg (hk : SameButStreams h k) (r : HReg) : k.reg r = h.reg r := by rw [hk]; rfl
theorem SameButStreams.td (hk : SameButStreams h k) : k.td = h.td := by rw [Hart.td, hk.reg, Hart.td]
theorem SameButStreams.redo (hk : SameButStreams h k) : k.redo = h.redo := by rw [hk]
end

@[simp] theorem Hart.rq_setStream (h : Hart) (r q : BitVec 3) (x : Stream) : (h.setStream r x).rq q = h.rq q := rfl
@[simp] theorem Hart.stream_setQ (h : Hart) (r q : BitVec 3) (x : Queue) : (h.setQ r x).stream q = h.stream q := rfl

theorem Hart.resumes_iff (h : Hart) (q : BitVec 3) :
    h.resumes q = true ↔ (h.stream q).faulted = true ∧ (h.stream q).told ≠ 0 ∧ (h.stream q).told = h.td := by
  simp [Hart.resumes, and_assoc]

theorem Hart.resumeStream_eq (h : Hart) (q : BitVec 3) : h.resumeStream q =
    if h.resumes q then (h.setQ q (h.rq q).unfaulted).setStream q (h.stream q).resumed else h := rfl

theorem Hart.resumeStream_of_not (h : Hart) (q : BitVec 3) (hq : h.resumes q = false) : h.resumeStream q = h := by
  simp [Hart.resumeStream_eq, hq]

theorem Hart.resumeStream_keeps {h k : Hart} (q : BitVec 3) (hk : SameButStreams h k) : SameButStreams h (k.resumeStream q) := by
  rw [Hart.resumeStream_eq]
  split
  · rw [hk]; rfl
  · exact hk

theorem Hart.resumeStream_stream (h : Hart) (q p : BitVec 3) :
    (h.resumeStream q).stream p = if p = q ∧ h.resumes p = true then (h.stream p).resumed else h.stream p := by
  rw [Hart.resumeStream_eq]
  by_cases e : p = q
  · subst e; split <;> simp_all
  · split <;> simp [e]

theorem Hart.resumeStream_rq (h : Hart) (q p : BitVec 3) :
    (h.resumeStream q).rq p = if p = q ∧ h.resumes p = true then (h.rq p).unfaulted else h.rq p := by
  rw [Hart.resumeStream_eq]
  by_cases e : p = q
  · subst e; split <;> simp_all
  · split <;> simp [e]

theorem Hart.resumeStream_resumes (h : Hart) (q p : BitVec 3) (hp : p ≠ q) : (h.resumeStream q).resumes p = h.resumes p := by
  have td : (h.resumeStream q).td = h.td := (Hart.resumeStream_keeps q (.refl h)).td
  rw [Hart.resumes, Hart.resumeStream_stream, td, if_neg fun n => hp n.1, Hart.resumes]

/-- Each queue of a list without repetition goes on if its own stream says so, whatever the others do. -/
theorem Hart.foldl_resumeStream (l : List (BitVec 3)) (h : Hart) (p : BitVec 3) (hl : l.Nodup) :
    (l.foldl Hart.resumeStream h).stream p = (if p ∈ l ∧ h.resumes p = true then (h.stream p).resumed else h.stream p) ∧
    (l.foldl Hart.resumeStream h).rq p = if p ∈ l ∧ h.resumes p = true then (h.rq p).unfaulted else h.rq p := by
  induction l generalizing h with
  | nil => simp
  | cons q l ih =>
    obtain ⟨hq, hl'⟩ := List.nodup_cons.1 hl
    obtain ⟨is, iq⟩ := ih (h.resumeStream q) hl'
    rw [List.foldl_cons, is, iq]
    by_cases e : p = q
    · subst e; simp [hq, Hart.resumeStream_stream, Hart.resumeStream_rq]
    · simp [e, Hart.resumeStream_resumes h q p e, Hart.resumeStream_stream, Hart.resumeStream_rq]

/-- The hart once a return has looked at the streams of all eight queues. -/
def Hart.resumeAll (h : Hart) : Hart := ((List.range 8).map (BitVec.ofNat 3)).foldl Hart.resumeStream h

theorem Hart.resumeAll_keeps (h : Hart) : SameButStreams h h.resumeAll :=
  foldl_keeps (SameButStreams h) _ (fun _ q hk => Hart.resumeStream_keeps q hk) _ h (.refl h)

theorem Hart.resumeAll_queue (h : Hart) (q : BitVec 3) :
    h.resumeAll.stream q = (if h.resumes q then (h.stream q).resumed else h.stream q) ∧
    h.resumeAll.rq q = if h.resumes q then (h.rq q).unfaulted else h.rq q := by
  have every : ∀ p : BitVec 3, p ∈ (List.range 8).map (BitVec.ofNat 3) := by decide
  have h8 := Hart.foldl_resumeStream ((List.range 8).map (BitVec.ofNat 3)) h q (by decide)
  simp only [every q, true_and] at h8
  exact h8

theorem Hart.resumeAll_of_none (h : Hart) (hn : ∀ q, h.resumes q = false) : h.resumeAll = h :=
  foldl_keeps (· = h) _ (fun k q hk => by rw [hk, h.resumeStream_of_not q (hn q)]) _ h rfl

/-! The return itself (R102). -/

/-- The return of a hart h, of which k is the state with its streams going on. -/
def Hart.returnAs (h k : Hart) : Hart := { k.setReg .status (eretStatus (h.reg .status)) with
  pc := if (h.reg .status).getLsbD 11 then h.reg (bank h.priv).npc else h.reg (bank h.priv).pc
  redo := if (h.reg .status).getLsbD 11 then some (h.reg (bank h.priv).pc, bitsN (h.reg (bank h.priv).rep) 6 0) else h.redo }

theorem Hart.returnFrom_eq (h : Hart) : h.returnFrom = h.returnAs h.resumeAll := by
  have redo := h.resumeAll_keeps.redo
  unfold Hart.returnFrom Hart.returnAs
  rw [← Hart.resumeAll.eq_def]
  generalize h.resumeAll = k at redo
  by_cases trb : (h.reg .status).getLsbD 11 = true
  · simp only [trb, if_true]
  · simp only [trb, ← redo]; rfl

/-- A return changes nothing but queues, stream units, control registers, PC and the B word to be issued. -/
theorem Hart.returnFrom_keeps (h : Hart) : h.returnFrom = { h with
    q := h.returnFrom.q, str := h.returnFrom.str, regs := h.returnFrom.regs, pc := h.returnFrom.pc, redo := h.returnFrom.redo } := by
  rw [h.returnFrom_eq]
  have keeps := h.resumeAll_keeps
  generalize h.resumeAll = k at keeps
  rw [keeps]; rfl

theorem Hart.returnFrom_pc (h : Hart) :
    h.returnFrom.pc = if (h.reg .status).getLsbD 11 then h.reg (bank h.priv).npc else h.reg (bank h.priv).pc := by
  rw [h.returnFrom_eq, Hart.returnAs]

theorem Hart.returnFrom_redo (h : Hart) : h.returnFrom.redo =
    if (h.reg .status).getLsbD 11 then some (h.reg (bank h.priv).pc, bitsN (h.reg (bank h.priv).rep) 6 0) else h.redo := by
  rw [h.returnFrom_eq, Hart.returnAs]

theorem Hart.returnFrom_reg (h : Hart) (r : HReg) : h.returnFrom.reg r = if r = .status then eretStatus (h.reg .status) else h.reg r := by
  rw [h.returnFrom_eq, ← h.resumeAll_keeps.reg r]
  generalize h.resumeAll = k
  exact Hart.reg_setReg ..

theorem Hart.returnFrom_q_of_none (h : Hart) (hn : ∀ q, h.resumes q = false) : h.returnFrom.q = h.q := by
  rw [h.returnFrom_eq, h.resumeAll_of_none hn]; rfl

theorem Hart.returnFrom_queue (h : Hart) (q : BitVec 3) :
    h.returnFrom.stream q = (if h.resumes q then (h.stream q).resumed else h.stream q) ∧
    h.returnFrom.rq q = if h.resumes q then (h.rq q).unfaulted else h.rq q := by
  rw [h.returnFrom_eq]
  have queue := h.resumeAll_queue q
  generalize h.resumeAll = k at queue
  exact queue

/-- The end of the frame of an `eret` adds to the return nothing but the frame pipeline and the sequencer: the loop stack does not move (R83). -/
theorem Hart.eret_spec (h : Hart) : h.eret = { h.returnFrom with
      regs := h.eret.regs, loops := h.loops, fr := none, fno := h.returnFrom.fno + 1
      aStall := none, bStall := none, aWhy := none, wait := .none, seq := h.eret.seq, enter := h.eret.enter } ∧
    ∀ r : HReg, r.counter = false → h.eret.reg r = h.returnFrom.reg r := by
  have e : h.eret = Hart.endFrame { h.returnFrom with pc := h.pc } h.returnFrom.pc h.loops 1 0 0 0 true := rfl
  rw [e]
  generalize h.returnFrom = r
  obtain ⟨frame, regs, -⟩ := Hart.endFrame_spec { r with pc := h.pc } r.pc h.loops true
  exact ⟨frame, regs⟩

/-- What `eret` leaves of a hart, register by register and queue by queue (R24, R93, R102). -/
structure Returned (h k : Hart) : Prop where
  priv : k.priv = bitsN (h.reg .status) 8 7
  ie : k.ie = (h.reg .status).getLsbD 4
  td : k.td = h.td - 1
  ppriv : bitsN (k.reg .status) 8 7 = 0
  pie : (k.reg .status).getLsbD 4 = false
  trb : (k.reg .status).getLsbD 11 = false
  pc : k.pc = if (h.reg .status).getLsbD 11 then h.reg (bank h.priv).npc else h.reg (bank h.priv).pc
  redo : k.redo = if (h.reg .status).getLsbD 11 then some (h.reg (bank h.priv).pc, bitsN (h.reg (bank h.priv).rep) 6 0) else h.redo
  kept : k.fr = none ∧ k.g = h.g ∧ k.v = h.v ∧ k.loops = h.loops ∧ k.bq = h.bq
  others : ∀ r : HReg, r.counter = false → r ≠ .status → k.reg r = h.reg r
  streams : ∀ q, k.stream q = if h.resumes q then (h.stream q).resumed else h.stream q
  queues : ∀ q, k.rq q = if h.resumes q then (h.rq q).unfaulted else h.rq q

theorem Hart.eret_returned (h : Hart) : Returned h h.eret := by
  obtain ⟨frame, regs⟩ := h.eret_spec
  have status : h.eret.reg .status = eretStatus (h.reg .status) := by rw [regs _ rfl, h.returnFrom_reg, if_pos rfl]
  have kept := h.returnFrom_keeps
  have stream (q : BitVec 3) : h.eret.stream q = h.returnFrom.stream q := by rw [frame]; rfl
  have queue (q : BitVec 3) : h.eret.rq q = h.returnFrom.rq q := by rw [frame]; rfl
  exact {
    priv := by rw [Hart.priv, status, eretStatus_priv]
    ie := by rw [Hart.ie, status, eretStatus_ie]
    td := by rw [Hart.td, status, eretStatus_td, Hart.td]
    ppriv := by rw [status, eretStatus_ppriv]
    pie := by rw [status, eretStatus_pie]
    trb := by rw [status, eretStatus_trb]
    pc := by rw [frame]; exact h.returnFrom_pc
    redo := by rw [frame]; exact h.returnFrom_redo
    kept := by rw [frame, kept]; exact ⟨rfl, rfl, rfl, rfl, rfl⟩
    others := fun r hr hs => by rw [regs r hr, h.returnFrom_reg, if_neg hs]
    streams := fun q => (stream q).trans (h.returnFrom_queue q).1
    queues := fun q => (queue q).trans (h.returnFrom_queue q).2 }

/-! Trap entry (R25), for a cause that is no stream fault. -/

section
variable (h : Hart) {m : Nat} {e : Exn} (trb : Bool) (f npc : W64) (rep : Nat)

/-- The control registers after an entry into mode m. -/
def Hart.trapRegs (m : Nat) (e : Exn) : Hart :=
  (((((((h.setReg (bank m).cause (w64 e.cause)).setReg (bank m).pc (putBits f 2 0 0)).setReg (bank m).val e.val).setReg (bank m).addr e.addr).setReg
    (bank m).npc (putBits (if trb then npc else f + 8) 2 0 0)).setReg (bank m).rep (if trb then w64 rep else 1)).setReg
    .status (trapStatus (h.reg .status) m trb))

theorem Hart.enterTrap_eq (m : Nat) (hc : e.cause ≠ 14) : h.enterTrap m e trb f npc rep = ({ h.trapRegs trb f npc rep m e with
    pc := h.reg (bank m).tvec + w64 (64 * e.cause), fno := h.fno + 1, seq := [], enter := [], fr := none, redo := none, trap := none
    aStall := none, bStall := none, aWhy := none, bWhy := none, lanes := 0, wait := .none, undo := [] } : Hart).capCount 7 := by
  unfold Hart.enterTrap
  simp only [hc, if_false]
  rfl

/-- Beside the control registers an entry changes only PC and the frame number, and empties the pipelines. -/
theorem Hart.enterTrap_keeps (m : Nat) (hc : e.cause ≠ 14) : h.enterTrap m e trb f npc rep = { h with
    regs := (h.enterTrap m e trb f npc rep).regs, pc := h.reg (bank m).tvec + w64 (64 * e.cause), fno := h.fno + 1
    seq := [], enter := [], fr := none, redo := none, trap := none, aStall := none, bStall := none, aWhy := none, bWhy := none
    lanes := 0, wait := .none, undo := [] } := by
  have regs : h.trapRegs trb f npc rep m e = { h with regs := (h.trapRegs trb f npc rep m e).regs } := by simp only [Hart.trapRegs, Hart.setReg]
  rw [h.enterTrap_eq trb f npc rep m hc]
  generalize h.trapRegs trb f npc rep m e = x at regs
  rw [(Hart.capCount_counters _ 7).1, regs]

theorem Hart.enterTrap_reg (m : Nat) (hc : e.cause ≠ 14) (r : HReg) (hr : r.counter = false) :
    (h.enterTrap m e trb f npc rep).reg r = (h.trapRegs trb f npc rep m e).reg r := by
  rw [h.enterTrap_eq trb f npc rep m hc]
  generalize h.trapRegs trb f npc rep m e = x
  exact Hart.capCount_reg _ 7 r hr

theorem Hart.trapRegs_status (m : Nat) : (h.trapRegs trb f npc rep m e).reg .status = trapStatus (h.reg .status) m trb := by
  simp [Hart.trapRegs]

/-- The three trap registers that a return reads, as an entry has set them. -/
theorem Hart.trapRegs_bank (hm : m = 1 ∨ m = 3) :
    let k := h.trapRegs trb f npc rep m e
    k.reg (bank m).pc = frameOf f ∧ k.reg (bank m).npc = frameOf (if trb then npc else f + 8) ∧
    k.reg (bank m).rep = if trb then w64 rep else 1 := by
  obtain rfl | rfl := hm <;> simp [Hart.trapRegs, bank, putBits_eq_frameOf]

/-- No stream goes on at the return from an entry, unless its fault was already raised at the depth of that entry. -/
theorem Hart.enterTrap_resumes (m : Nat) (hc : e.cause ≠ 14) (hd : h.td < 2)
    (hs : ∀ q, (h.stream q).told = h.td + 1 → (h.stream q).faulted = false) (q : BitVec 3) :
    (h.enterTrap m e trb f npc rep).resumes q = false := by
  have stream : (h.enterTrap m e trb f npc rep).stream q = h.stream q := by rw [h.enterTrap_keeps trb f npc rep m hc]; rfl
  have depth : (h.enterTrap m e trb f npc rep).td = h.td + 1 := by
    rw [Hart.td, h.enterTrap_reg trb f npc rep m hc .status rfl, h.trapRegs_status, trapStatus_td, ← Hart.td]
    omega
  rw [Bool.eq_false_iff, Ne, Hart.resumes_iff, stream, depth]
  rintro ⟨faulted, -, told⟩
  simp [hs q told] at faulted

/-- What a return finds of a hart h in the hart t that has entered a trap (R25). -/
structure Entered (h t : Hart) (m : Nat) (trb : Bool) (f npc : W64) (rep : Nat) : Prop where
  status : t.reg .status = trapStatus (h.reg .status) m trb
  pc : t.reg (bank m).pc = frameOf f
  npc : t.reg (bank m).npc = frameOf (if trb then npc else f + 8)
  rep : t.reg (bank m).rep = if trb then w64 rep else 1
  redo : t.redo = none
  kept : t.g = h.g ∧ t.v = h.v ∧ t.q = h.q ∧ t.bq = h.bq ∧ t.loops = h.loops
  still : ∀ q, t.resumes q = false

theorem Hart.enterTrap_entered (hm : m = 1 ∨ m = 3) (hc : e.cause ≠ 14) (hd : h.td < 2)
    (hs : ∀ q, (h.stream q).told = h.td + 1 → (h.stream q).faulted = false) : Entered h (h.enterTrap m e trb f npc rep) m trb f npc rep := by
  obtain ⟨pc, npc', rep'⟩ := h.trapRegs_bank trb f npc rep hm (e := e)
  have counters : (bank m).pc.counter = false ∧ (bank m).npc.counter = false ∧ (bank m).rep.counter = false := by
    obtain rfl | rfl := hm <;> decide
  obtain ⟨cp, cn, cr⟩ := counters
  have keeps := h.enterTrap_keeps trb f npc rep m hc
  exact {
    status := by rw [h.enterTrap_reg trb f npc rep m hc _ rfl, h.trapRegs_status]
    pc := by rw [h.enterTrap_reg trb f npc rep m hc _ cp, pc]
    npc := by rw [h.enterTrap_reg trb f npc rep m hc _ cn, npc']
    rep := by rw [h.enterTrap_reg trb f npc rep m hc _ cr, rep']
    redo := by rw [keeps]
    kept := by rw [keeps]; exact ⟨rfl, rfl, rfl, rfl, rfl⟩
    still := h.enterTrap_resumes trb f npc rep m hc hd hs }
end

/-! The two statements. -/

/-- The meaning of `eret` (R102). -/
theorem exec_eret (s : State) : exec .eret s = execEret s := rfl

theorem returnFromTrap_says : Says.ReturnFromTrap := by
  intro s st b bad
  refine ⟨fun hb => ?_, fun hb ho => ⟨s.waitA .other, ?_, waits_waitA s .other⟩,
    fun hb ho => ⟨(s.trace s.hid 3 s.hart.pc).mapHart Hart.eret, ?_, rfl, ?_⟩⟩
  · rw [exec_eret, execEret, if_pos hb, State.illegalA]
  · rw [exec_eret, execEret, if_neg hb, State.whenRetired, if_pos ho]
  · rw [exec_eret, execEret, if_neg hb, whenRetired_of_not _ _ ho]
  have r := s.hart.eret_returned
  rw [State.mapHart_hart, trace_hart]
  obtain ⟨fr, g, v, loops, bq⟩ := r.kept
  refine ⟨r.priv, r.ie, r.td, r.ppriv, r.pie, r.trb, fun trb => ?_, fun trb => ?_, fr, g, v, loops, bq, r.others, fun q => ?_⟩
  · have trb' : (s.hart.reg .status).getLsbD 11 = false := trb
    rw [r.pc, r.redo, trb']; exact ⟨rfl, rfl⟩
  · have trb' : (s.hart.reg .status).getLsbD 11 = true := trb
    rw [r.pc, r.redo, trb']; exact ⟨rfl, rfl⟩
  · intro x
    have stream := r.streams q
    have queue := r.queues q
    by_cases told : s.hart.resumes q = true
    · rw [if_pos ((s.hart.resumes_iff q).1 told)]
      rw [if_pos told] at stream queue
      exact ⟨stream, queue⟩
    · rw [if_neg (mt (s.hart.resumes_iff q).2 told)]
      rw [if_neg told] at stream queue
      exact ⟨stream, queue⟩

/-- A return undoes an entry. -/
theorem Entered.undone {h t : Hart} {m : Nat} {trb : Bool} {f npc : W64} {rep : Nat} (en : Entered h t m trb f npc rep)
    (hm : m = 1 ∨ m = 3) (hd : h.td < 2) (hr : rep < 128) :
    let k := t.returnFrom
    k.priv = h.priv ∧ k.ie = h.ie ∧ k.td = h.td ∧ k.g = h.g ∧ k.v = h.v ∧ k.q = h.q ∧ k.bq = h.bq ∧ k.loops = h.loops ∧
    (trb = false → k.pc = frameOf f ∧ k.redo = none) ∧ (trb = true → k.pc = frameOf npc ∧ k.redo = some (frameOf f, rep)) := by
  intro k
  have status : k.reg .status = eretStatus (trapStatus (h.reg .status) m trb) := by rw [t.returnFrom_reg, if_pos rfl, en.status]
  have priv : t.priv = m := by
    rw [Hart.priv, en.status, trapStatus_priv]
    omega
  have td : k.td = h.td := by
    rw [Hart.td, status, eretStatus_td, trapStatus_td, ← Hart.td]
    omega
  obtain ⟨g, v, q, bq, loops⟩ := en.kept
  have keeps : k = _ := t.returnFrom_keeps
  have pc : k.pc = if trb then frameOf npc else frameOf f := by
    rw [t.returnFrom_pc, en.status, trapStatus_trb, priv, en.npc, en.pc]
    cases trb <;> rfl
  have redo : k.redo = if trb then some (frameOf f, rep) else none := by
    have field : bitsN (w64 rep) 6 0 = rep := by simp [bitsN, w64]; omega
    rw [t.returnFrom_redo, en.status, trapStatus_trb, priv, en.pc, en.rep, en.redo]
    cases trb
    · rfl
    · exact congrArg (fun n => some (frameOf f, n)) field
  refine ⟨?_, ?_, td, ?_, ?_, (t.returnFrom_q_of_none en.still).trans q, ?_, ?_, fun ht => ?_, fun ht => ?_⟩
  · rw [Hart.priv, status, eretStatus_priv, trapStatus_ppriv, Hart.priv]
  · rw [Hart.ie, status, eretStatus_ie, trapStatus_pie, Hart.ie]
  · rw [keeps, ← g]
  · rw [keeps, ← v]
  · rw [keeps, ← bq]
  · rw [keeps, ← loops]
  · rw [pc, redo, ht]; exact ⟨rfl, rfl⟩
  · rw [pc, redo, ht]; exact ⟨rfl, rfl⟩

theorem trapThenReturn_says : Says.TrapThenReturn := fun h _ _ trb f npc rep hm hd _ hc hr hs =>
  (h.enterTrap_entered trb f npc rep hm hc hd hs).undone hm hd hr

/-- Settles O14: a return finds in STATUS and the trap registers what R102 takes from them, and an entry leaves there what undoes it. -/
theorem returnFromTrap : Obligations.ReturnFromTrap := ⟨returnFromTrap_says, trapThenReturn_says⟩

end Sys2Proof.Machine

/-! PROOFS. Integer arithmetic of the access stream (R73 to R77): what each operation of `alu` computes, in the words of the spec; that a word of each form completes with it; and which words the forms are. -/
namespace Sys2Proof.Machine

/-! The operations of R73 and R74 that `alu` computes in another way than the spec writes them. -/

section
variable (a b : W64)

theorem w64b_decide (p : Prop) [Decidable p] : w64b (decide p) = if p then 1 else 0 := by simp [w64b]

theorem alu_slt : alu .slt a b = if a.toInt < b.toInt then 1 else 0 := w64b_decide _
theorem alu_sltu : alu .sltu a b = if a.toNat < b.toNat then 1 else 0 := w64b_decide _

theorem alu_mul : alu .mul a b = BitVec.ofNat 64 (a.toNat * b.toNat) := by
  simp [alu, BitVec.ofNat_mul]

/-- Both remainders are computed as a − b × quotient modulo 2^64: division with remainder, taken modulo 2^64, says which they are (R45). -/
theorem sub_mul_eq_of_add {q r : W64} (sum : b * q + r = a) : a - b * q = r := by
  rw [← sum, BitVec.add_comm, BitVec.add_sub_cancel]

theorem alu_rem : alu .rem a b = if b = 0 then a else BitVec.ofInt 64 (a.toInt.tmod b.toInt) := by
  by_cases zero : b = 0
  · simp [alu, zero]
  · have sum := congrArg (BitVec.ofInt 64) (Int.mul_tdiv_add_tmod a.toInt b.toInt)
    rw [BitVec.ofInt_add, BitVec.ofInt_mul, BitVec.ofInt_toInt, BitVec.ofInt_toInt] at sum
    rw [alu, divS, if_neg zero, if_neg zero, sub_mul_eq_of_add a b sum]

theorem alu_remu : alu .remu a b = if b = 0 then a else BitVec.ofNat 64 (a.toNat % b.toNat) := by
  by_cases zero : b = 0
  · simp [alu, zero]
  · have sum := congrArg (BitVec.ofNat 64) (Nat.div_add_mod a.toNat b.toNat)
    rw [BitVec.ofNat_add, BitVec.ofNat_mul, BitVec.ofNat_toNat, BitVec.ofNat_toNat, BitVec.setWidth_eq, BitVec.setWidth_eq] at sum
    rw [alu, divU, if_neg zero, if_neg zero, w64, sub_mul_eq_of_add a b sum]

theorem alu_min : alu .min a b = if b.toInt < a.toInt then b else a := by simp [alu, BitVec.slt]
theorem alu_max : alu .max a b = if a.toInt < b.toInt then b else a := by simp [alu, BitVec.slt]
theorem alu_minu : alu .minu a b = if b.toNat < a.toNat then b else a := by simp [alu, BitVec.ult]
theorem alu_maxu : alu .maxu a b = if a.toNat < b.toNat then b else a := by simp [alu, BitVec.ult]
end

/-! The shifts by an amount of six bits, which is not reduced (R75). -/

section
variable (a : W64) (n : BitVec 6)

theorem toNat_shamt : (n.setWidth 64).toNat % 64 = n.toNat := by
  rw [BitVec.toNat_setWidth]; omega

theorem alu_sll_shamt : alu .sll a (n.setWidth 64) = a <<< n.toNat := by rw [alu, toNat_shamt]
theorem alu_srl_shamt : alu .srl a (n.setWidth 64) = a >>> n.toNat := by rw [alu, toNat_shamt]
theorem alu_sra_shamt : alu .sra a (n.setWidth 64) = a.sshiftRight n.toNat := by rw [alu, toNat_shamt]
end

/-- The value of `lih`: the field moved up by 13 bits of a 32-bit word, as a number (R62). -/
theorem signExtend_lih (u : BitVec 19) : (u.setWidth 32 <<< 13).signExtend 64 = BitVec.ofInt 64 (u.toInt * 2 ^ 13) := by
  have value : (u.setWidth 32 <<< 13).toInt = u.toInt * 2 ^ 13 := by
    simp only [BitVec.toInt, BitVec.toNat_shiftLeft, BitVec.toNat_setWidth, Nat.shiftLeft_eq]
    omega
  rw [BitVec.signExtend, value]

/-! A word of each form completes with what its operation computes. -/

/-- What an instruction writes is what its arm gives `retireG`, in any form that equals it. -/
theorem writes_of_retireG {i : Instr} {s : State} {d : GReg} {x v : W64} (run : exec i s = .next (s.retireG d x)) (value : x = v) :
    ∃ t, exec i s = .next t ∧ Writes s t d v :=
  ⟨_, run, value ▸ writes_retireG ..⟩

/-! Which words the forms are (R60, R73, R75, R76). -/

section
variable {p : Nat} {l : Option W32}

theorem decodeA_of_wf {i : Instr} (read : decodeA0 p l = some i) (ok : i.wf = true) : decodeA p l = some i := by
  rw [decodeA, read, Option.filter_some_pos ok]

theorem decodeA_of_none (read : decodeA0 p l = none) : decodeA p l = none := by
  rw [decodeA, read, Option.filter_none]

/-- The immediate of a word is its lowest bits. -/
theorem ofNat_fld (p n : Nat) : BitVec.ofNat n (fld p 0 n) = BitVec.ofNat n p := by
  apply BitVec.eq_of_toNat_eq
  simp [fld]

/-- Major 0x01, FUNC by FUNC (R73). -/
def arForms : List (Nat × (GReg → GReg → GReg → Instr)) :=
  [(0, .add), (1, .sub), (2, .and), (3, .or), (4, .xor), (5, .sll), (6, .srl), (7, .sra), (8, .slt), (9, .sltu), (10, .mul), (11, .mulh), (12, .mulhu),
    (13, .div), (14, .divu), (15, .rem), (16, .remu), (17, .min), (18, .max), (19, .minu), (20, .maxu)]

theorem arOf_assigned : ∀ e ∈ arForms, arOf e.1 = some e.2 ∧ ∀ d a b, (e.2 d a b).wf = true := by
  have same : arForms.map (fun e => (arOf e.1, fun d a b => (e.2 d a b).wf)) = arForms.map fun e => (some e.2, fun _ _ _ => true) := rfl
  intro e row
  obtain ⟨assigned, ok⟩ := Prod.mk.inj (List.map_inj_left.mp same e row)
  exact ⟨assigned, fun d a b => congrFun (congrFun (congrFun ok d) a) b⟩

theorem arOf_unassigned {k : Nat} (high : 21 ≤ k) : arOf k = none := by
  obtain ⟨n, rfl⟩ := Nat.exists_eq_add_of_le' high
  rfl

theorem decodeA0_ar (major : fld p 24 6 = 0x01) :
    decodeA0 p l = if fld p 6 3 = 0 then (arOf (fld p 0 6)).map fun f => f (gAt p 19) (gAt p 14) (gAt p 9) else none := by
  simp only [decodeA0, major, beq_iff_eq]

theorem decodeA_ar_assigned (major : fld p 24 6 = 0x01) (e) (row : e ∈ arForms) (bits : fld p 6 3 = 0) (func : fld p 0 6 = e.1) :
    decodeA p l = some (e.2 (gAt p 19) (gAt p 14) (gAt p 9)) := by
  obtain ⟨assigned, ok⟩ := arOf_assigned e row
  refine decodeA_of_wf ?_ (ok ..)
  rw [decodeA0_ar major, if_pos bits, func, assigned, Option.map_some]

theorem decodeA_ar_unassigned (major : fld p 24 6 = 0x01) (bad : fld p 6 3 ≠ 0 ∨ 21 ≤ fld p 0 6) : decodeA p l = none := by
  apply decodeA_of_none
  rw [decodeA0_ar major]
  obtain bits | high := bad
  · rw [if_neg bits]
  · rw [arOf_unassigned high, Option.map_none, ite_self]

/-- The forms with a 14-bit immediate, major by major (R75). -/
def aiForms : List (Nat × (GReg → GReg → BitVec 14 → Instr)) :=
  [(0x02, .addi), (0x03, .andi), (0x04, .ori), (0x05, .xori), (0x06, .slti), (0x07, .sltiu)]

theorem decodeA_ai (e) (row : e ∈ aiForms) (major : fld p 24 6 = e.1) : decodeA p l = some (e.2 (gAt p 19) (gAt p 14) (BitVec.ofNat 14 p)) := by
  rw [← ofNat_fld]
  simp only [aiForms, List.mem_cons, List.not_mem_nil, or_false] at row
  obtain rfl | rfl | rfl | rfl | rfl | rfl := row <;> exact decodeA_of_wf (by simp only [decodeA0, major]) rfl

/-- The forms with a 19-bit immediate (R76). -/
def auForms : List (Nat × (GReg → BitVec 19 → Instr)) := [(0x09, .lih), (0x0A, .addpc)]

theorem decodeA_au (e) (row : e ∈ auForms) (major : fld p 24 6 = e.1) : decodeA p l = some (e.2 (gAt p 19) (BitVec.ofNat 19 p)) := by
  rw [← ofNat_fld]
  simp only [auForms, List.mem_cons, List.not_mem_nil, or_false] at row
  obtain rfl | rfl := row <;> exact decodeA_of_wf (by simp only [decodeA0, major]) rfl

/-- Major 0x08: bits [13:12] select the shift, and bits [11:6] are zero (R75). -/
theorem decodeA_shift (major : fld p 24 6 = 0x08) : decodeA p l = if fld p 6 6 ≠ 0 then none else match fld p 12 2 with
    | 0 => some (.slli (gAt p 19) (gAt p 14) (BitVec.ofNat 6 p)) | 1 => some (.srli (gAt p 19) (gAt p 14) (BitVec.ofNat 6 p))
    | 2 => some (.srai (gAt p 19) (gAt p 14) (BitVec.ofNat 6 p)) | _ => none := by
  rw [← ofNat_fld]
  by_cases bits : fld p 6 6 = 0
  · simp only [decodeA, decodeA0, major, bits, beq_self_eq_true, if_true, ne_eq, not_true, if_false]
    match fld p 12 2 with
    | 0 | 1 | 2 | _ + 3 => rfl
  · rw [if_pos bits]
    exact decodeA_of_none (by simp only [decodeA0, major, beq_iff_eq, bits, if_false])
end

/-! The two statements. -/

/-- Settles O1: each form completes with what `alu` computes, which is what R73 and R74 say, and FUNC is the row of `arOf`. -/
theorem aluRegister : Obligations.AluRegister := by
  intro s d a b
  exact ⟨
    -- add, sub, and, or, xor
    writes_of_retireG rfl rfl, writes_of_retireG rfl rfl, writes_of_retireG rfl rfl, writes_of_retireG rfl rfl, writes_of_retireG rfl rfl,
    -- sll, srl, sra
    writes_of_retireG rfl rfl, writes_of_retireG rfl rfl, writes_of_retireG rfl rfl,
    writes_of_retireG rfl (alu_slt ..), writes_of_retireG rfl (alu_sltu ..), writes_of_retireG rfl (alu_mul ..),
    -- mulh, mulhu, div, divu
    writes_of_retireG rfl rfl, writes_of_retireG rfl rfl, writes_of_retireG rfl rfl, writes_of_retireG rfl rfl,
    writes_of_retireG rfl (alu_rem ..), writes_of_retireG rfl (alu_remu ..),
    writes_of_retireG rfl (alu_min ..), writes_of_retireG rfl (alu_max ..), writes_of_retireG rfl (alu_minu ..), writes_of_retireG rfl (alu_maxu ..),
    fun _ _ major => ⟨fun k f row => decodeA_ar_assigned major (k, f) row, decodeA_ar_unassigned major⟩⟩

/-- Settles O2: each form completes with what `alu` computes of its immediate or literal, and its major is a row of the tables above. -/
theorem aluImmediate : Obligations.AluImmediate := by
  intro s d a i n u w
  have row (m : Fin 6) := List.get_mem aiForms m
  have rowU (m : Fin 2) := List.get_mem auForms m
  exact ⟨
    -- addi, andi, ori, xori
    writes_of_retireG rfl rfl, writes_of_retireG rfl rfl, writes_of_retireG rfl rfl, writes_of_retireG rfl rfl,
    writes_of_retireG rfl (alu_slt ..), writes_of_retireG rfl (alu_sltu ..),
    writes_of_retireG rfl (alu_sll_shamt ..), writes_of_retireG rfl (alu_srl_shamt ..), writes_of_retireG rfl (alu_sra_shamt ..),
    writes_of_retireG rfl (signExtend_lih u),
    -- addpc, and the literal forms of addi, andi, ori, xori, lih
    writes_of_retireG rfl rfl, writes_of_retireG rfl rfl, writes_of_retireG rfl rfl, writes_of_retireG rfl rfl, writes_of_retireG rfl rfl, writes_of_retireG rfl rfl,
    _, rfl, finishes_retire s, fun _ =>
      ⟨decodeA_ai _ (row 0), decodeA_ai _ (row 1), decodeA_ai _ (row 2), decodeA_ai _ (row 3), decodeA_ai _ (row 4), decodeA_ai _ (row 5),
        decodeA_au _ (rowU 0), decodeA_au _ (rowU 1), decodeA_shift⟩⟩

end Sys2Proof.Machine
